-- ==== Sys2Proof/Word.lean ====
section
/-!
DEFINITION. The machine's words: bytes, register words and addresses of frames. Arithmetic that the spec writes
over whole numbers is done over `Nat` and `Int`; what the spec treats as bits is a bit vector.
-/

namespace Sys2Proof

/-- One byte of memory or of a message. -/
abbrev Byte := BitVec 8

/-- One register word (R26: registers are accessed as whole aligned 32-bit words). -/
abbrev Word := BitVec 32

/-- An Ethernet address; the first byte on the wire is the most significant. -/
abbrev Mac := BitVec 48

end Sys2Proof
end

