-- ==== Sys2Proof/Syntax.lean ====
section
/-!
DEFINITION. The commands of the block, one constructor of `Instr` for each row of `spec/opcode_table.json`, and the
data they carry. The table gives its rows no operands; the operands are what the row's rule needs from outside: who
acts, on which element, with which value or frame (assumption 24).
-/

namespace Sys2Proof

/-- Requester classes of PG_OWNER (R30). -/
inductive ReqClass where
  | none | host | mgmt | console | partner | slice | debug | internal
  deriving DecidableEq, Repr

/-- Who writes a register: class and index (R30). -/
structure Requester where
  cls : ReqClass
  index : BitVec 8
  deriving DecidableEq, Repr

/-- The width of an access on the register bus (R26). -/
inductive AccSize where
  | byte | half | word | dword
  deriving DecidableEq, Repr

/-- Its bytes. -/
def AccSize.bytes : AccSize → Nat
  | .byte => 1
  | .half => 2
  | .word => 4
  | .dword => 8

/-- The six command ports, in the order of R33 and R36. -/
inductive Port where
  | host | mgmt | console | partner | slice | debug
  deriving DecidableEq, Repr

/-- The way back of a command that came in an MGMT frame (R34): source address and VLAN tag. -/
structure MgmtReply where
  mac : Mac
  vlan : Option (BitVec 12 × BitVec 3)
  deriving DecidableEq, Repr

/-- What a command carries beside its opcode and arguments (R33, R37): port, index as PG_OWNER, requester tag. -/
structure CmdCtx where
  port : Port
  index : BitVec 8
  tag : BitVec 64
  reply : Option MgmtReply := Option.none
  deriving DecidableEq, Repr

/-- A command message as it stands in a queue (R37): opcode, argument bytes and where it came from; `late` says that it arrived
during a power-fail warning (R398). -/
structure CmdMsg where
  ctx : CmdCtx
  opcode : BitVec 16
  args : List Byte
  late : Bool := false
  deriving DecidableEq, Repr

/-- A message as it arrives: its header fields and the bytes after the 16-byte header (R37, R433). -/
structure RawMsg where
  opcode : BitVec 16
  flags : BitVec 16
  argLen : Nat
  tag : BitVec 64
  args : List Byte
  deriving DecidableEq, Repr

/-- The thirteen islands, numbered as in R382. -/
inductive Island where
  | aon | time | portA | portB | switch | stream | acq | phasor | app | rt | safety | security | memory
  deriving DecidableEq, Repr

/-- Redundancy field of a received frame (R87, R88): the tag's sequence number, the LAN identifier of a PRP
trailer, and whether LSDUsize is correct. -/
inductive RedTag where
  | plain
  | prp (seq : BitVec 16) (lan : BitVec 4) (sizeOk : Bool)
  | hsr (seq : BitVec 16) (sizeOk : Bool)
  deriving DecidableEq, Repr

/-- The IEC 62351-6 authentication extension of a frame (R120); `iv` is the initialisation vector of GMAC. -/
structure AuthExt where
  alg : Nat
  keyId : BitVec 32
  iv : List Byte := []
  tag : List Byte
  formatOk : Bool
  deriving DecidableEq, Repr

/-- One element of an SV dataset: INT32 value and 32-bit quality (R119). -/
structure SvElem where
  value : Int
  quality : BitVec 32
  deriving DecidableEq, Repr

/-- One ASDU of an SV frame (R119), with the optional fields that are parsed over; an empty one is absent. -/
structure Asdu where
  smpCnt : Nat
  smpSynch : Nat
  elems : List SvElem
  confRev : Nat := 1
  datSet : List Byte := []
  refrTm : List Byte := []
  smpRate : Option Nat := none
  smpMod : Option Nat := none
  deriving DecidableEq, Repr

/-- An SV frame's content; `formatOk` says that its ASN.1 lengths and the types of its dataset are as R119 supports. -/
structure SvPdu where
  appid : BitVec 16
  sim : Bool
  svId : List Byte
  asdus : List Asdu
  ext : Option AuthExt
  formatOk : Bool
  deriving DecidableEq, Repr

/-- A GOOSE frame's content (R119, R136, R256). -/
structure GoosePdu where
  appid : BitVec 16
  sim : Bool
  gocbRef : List Byte
  datSet : List Byte
  goId : List Byte
  tal : Nat
  t : List Byte
  stNum : Nat
  sqNum : Nat
  test : Bool
  confRev : Nat
  ndsCom : Bool
  numEntries : Nat
  allData : List Byte
  ext : Option AuthExt
  formatOk : Bool
  deriving DecidableEq, Repr

/-- PTP message types used by the profiles of R55. -/
inductive PtpType where
  | sync | followUp | pdelayReq | pdelayResp | pdelayRespFollowUp | announce | management | other
  deriving DecidableEq, Repr

/-- A PTP message (R55 to R58): header fields and the timestamp and identity fields of its body. Times of a
message body are seconds and nanoseconds; corrections are in 2^-16 ns. -/
structure PtpMsg where
  type : PtpType
  domain : BitVec 8
  clockId : BitVec 64
  portNum : BitVec 16
  seqId : BitVec 16
  twoStep : Bool
  correction : Int
  sec : Nat
  ns : Nat
  reqClockId : BitVec 64
  reqPortNum : BitVec 16
  deriving DecidableEq, Repr

/-- An Announce message (R48, R55). -/
structure Announce where
  domain : BitVec 8
  clockId : BitVec 64
  portNum : BitVec 16
  seqId : BitVec 16
  gmPriority1 : BitVec 8
  gmClass : BitVec 8
  gmAccuracy : BitVec 8
  gmVariance : BitVec 16
  gmPriority2 : BitVec 8
  gmId : BitVec 64
  stepsRemoved : Nat
  utcOffset : Nat
  utcValid : Bool
  leap61 : Bool
  leap59 : Bool
  tlvInacc : Option Nat
  deriving DecidableEq, Repr

/-- A UDP datagram over IPv4, with its checksums (R181, R215). -/
structure UdpPdu where
  srcIp : BitVec 32
  dstIp : BitVec 32
  srcPort : BitVec 16
  dstPort : BitVec 16
  ttl : BitVec 8
  tos : BitVec 8
  payload : List Byte
  ident : BitVec 16 := 0
  df : Bool := false
  ipSum : BitVec 16 := 0
  udpSum : BitVec 16 := 0
  deriving DecidableEq, Repr

/-- What a frame carries after its EtherType. -/
inductive Pdu where
  | raw (bytes : List Byte)
  | sv (p : SvPdu)
  | goose (p : GoosePdu)
  | ptp (p : PtpMsg)
  | ann (p : Announce)
  | udp (p : UdpPdu)
  deriving DecidableEq, Repr

/-- An Ethernet frame as a port sees it. `len` is the length in bytes from the destination address to the FCS as
received; `fcsOk`, `symErr`, `fecCorr` and `fecUncorr` (codewords) say how the frame came (R73), `errAt` the bytes received when a
symbol error came (R105); `stampLost` is the mark of its descriptor (R52). -/
structure Frame where
  dst : Mac
  src : Mac
  vlan : Option (BitVec 12 × BitVec 3)
  etype : BitVec 16
  red : RedTag
  len : Nat
  pdu : Pdu
  fcsOk : Bool := true
  symErr : Bool := false
  fecCorr : Nat := 0
  fecUncorr : Nat := 0
  errAt : Nat := 0
  stampLost : Bool := false
  deriving DecidableEq, Repr

/-- An arbitration frame (R331): frame type, sender counter, body fields and the tag received. -/
structure ArbFrame where
  type : BitVec 16
  counter : BitVec 64
  pairId : BitVec 32
  sender : BitVec 8
  code : BitVec 8
  flags : BitVec 16
  epoch : BitVec 32
  echo : BitVec 64
  health : BitVec 32
  lot : BitVec 32
  die : BitVec 24
  time : List Byte
  tag : List Byte
  src : Mac
  deriving DecidableEq, Repr

/-- A frame of the Elade link (R325), with the two CRC words as received. -/
structure LinkFrame where
  cls : BitVec 8
  type : BitVec 8
  seq : BitVec 32
  hdrCrc : BitVec 32
  payload : List Byte
  payCrc : BitVec 32
  deriving DecidableEq, Repr

/-- The payload of an HB frame (R326). -/
structure HbFrame where
  health : BitVec 32
  flags : BitVec 16
  mstate : BitVec 8
  epoch : BitVec 32
  stamp : List Byte
  deriving DecidableEq, Repr

/-- A HELLO or HELLO_ACK (R328). -/
structure Hello where
  pairId : BitVec 32
  side : BitVec 8
  lot : BitVec 32
  die : BitVec 24
  nonce : List Byte
  tag : List Byte
  deriving DecidableEq, Repr

/-- An event record before it has a sequence number (R361, R363). -/
structure EvRec where
  code : BitVec 16
  sev : BitVec 2
  inst : BitVec 16
  a : BitVec 16
  b : BitVec 64
  soft : Bool := false
  deriving DecidableEq, Repr

/-- The clock sources, numbered as in R376. -/
inductive Source where
  | refclk | serdes | rc
  deriving DecidableEq, Repr

/-- The commands of the block. One constructor for each row of the opcode table, in the table's order. -/
inductive Instr where
  | writeWord (q : Requester) (n : AccSize) (addr : Nat) (mask value : BitVec 64)
  | rcRead (q : Requester) (n : AccSize) (addr : Nat)
  | lock (q : Requester) (block : Nat) (inst : Nat)
  | prtSoftRst (q : Requester) (p : Fin 64)
  | swcSoftRst (q : Requester)
  | svsSoftRst (q : Requester)
  | decSoftRst (q : Requester)
  | mbxGo
  | rspValidClear (slice : Option (Fin 64))
  | sliceCmdGo (s : Fin 64)
  | mgmtFrame (p : Fin 64) (f : Frame)
  | consoleMessage (m : RawMsg)
  | debugMessage (m : RawMsg)
  | commandTake
  | jnlInfo (c : CmdCtx)
  | jnlRead (c : CmdCtx) (first : Word) (count : BitVec 16)
  | regRead (c : CmdCtx) (blk inst : BitVec 16) (off : Word)
  | cfgReportRead (c : CmdCtx) (first : Word) (count : BitVec 16)
  | regWrite (c : CmdCtx) (blk inst : BitVec 16) (off mask value : Word)
  | stageWrite (c : CmdCtx) (off : Word) (data : List Byte)
  | cfgApply (c : CmdCtx) (addr : BitVec 64) (len : Word)
  | grainStrobe
  | ptpFrameReceive (p : Fin 64) (f : Frame) (dt : Nat)
  | announceReceive (p : Fin 64) (f : Frame)
  | announceTimeout (p : Fin 64)
  | pdelayReq (p : Fin 64)
  | syncTransmit (p : Fin 64)
  | holdDelayExpiry
  | holdLimitExpiry
  | sourceChange (q : Requester) (src : BitVec 2)
  | leapSecond
  | ppsOutPulse
  | ppsWidthExpiry
  | ppsInEdge (dt : Nat)
  | timSet (c : CmdCtx) (sec : BitVec 64) (ns : Word)
  | timRerough (c : CmdCtx)
  | frameReceive (p : Fin 64) (f : Frame) (dt : Nat)
  | internalPortFrame (ip : Fin 4) (f : Frame) (queue : Fin 8)
  | transmitStart (p : Fin 68)
  | transmitEnd (p : Fin 68)
  | linkUp (p : Fin 64)
  | linkDown (p : Fin 64) (cut : Option (Frame × Nat))
  | flushDone (p : Fin 64)
  | queueDisable (q : Requester) (p : Fin 64) (queue : Fin 8)
  | supervisionTransmit (pair : Fin 16)
  | ddAgeExpiry (pair : Fin 16) (src : Mac) (seq : BitVec 16)
  | redPairWrite (q : Requester) (n : Fin 16) (mask value : Word)
  | fdbAgeExpiry
  | fdbWrite (q : Requester)
  | fdbDelete (q : Requester)
  | fdbRead (q : Requester)
  | fdbFlushPort (q : Requester) (p : Fin 68)
  | fdbFlushVid (q : Requester)
  | fdbFlushAll (q : Requester)
  | fdbOpDone
  | clsWrite (q : Requester)
  | clsRead (q : Requester)
  | clsInvalidate (q : Requester)
  | grpWrite (q : Requester)
  | grpRead (q : Requester)
  | subscriberFrame (p : Fin 64) (f : Frame) (dt : Nat)
  | authVerify
  | subLost (i : Fin 512)
  | offsetEstimateReplace (i : Fin 512)
  | alignWindowExpiry
  | gooseStale (g : Fin 2048)
  | subWrite (q : Requester)
  | subRead (q : Requester)
  | subInvalidate (q : Requester)
  | ringEnable (q : Requester) (goose : Bool) (s : Fin 64)
  | localSample (c : Fin 24) (bits : List Bool)
  | mdFault (c : Fin 24) (level : Bool)
  | mdFaultClear (c : Fin 24) (bits : List Bool)
  | bankChange (q : Requester) (c : Fin 24) (b : Bool)
  | rangeSwitch (c : Fin 24)
  | acqCal (c : CmdCtx) (mask : Word)
  | calOutToggle
  | calDone
  | acqSkewApply (c : CmdCtx) (mask : Word)
  | phasorSet
  | harmonicWindow (e : Fin 256)
  | coefRegenerate
  | phxGrpWrite (q : Requester)
  | phxGrpRead (q : Requester)
  | phxGrpInvalidate (q : Requester)
  | cfg2Periodic (st : Fin 64)
  | pmuStreamEnable (q : Requester) (st : Fin 64)
  | pmuCommandFrame (p : Fin 64) (f : Frame)
  | dataOff (st : Fin 64)
  | dataOn (st : Fin 64)
  | sendCfg1 (st : Fin 64)
  | sendCfg2 (st : Fin 64)
  | snapshotRequest (q : Requester) (meter : Fin 67)
  | snapshot
  | energySavePeriodic
  | powerFailSaveRepeat
  | nrgSave (c : CmdCtx)
  | nrgClear (c : CmdCtx) (mask : BitVec 96)
  | voltageEvent (meter : Fin 67)
  | qualityInterval (meter : Fin 67) (kind : Fin 3)
  | wavefrontDetection (ch : Fin 24)
  | eventClose (line : Fin 8)
  | reportRepeat (line : Fin 8)
  | reflectionRecord (line : Fin 8)
  | lineRearm (line : Fin 8)
  | reportReceive (p : Fin 64) (f : Frame) (dt : Nat)
  | triggerFiring (unit : Fin 64)
  | recordOpen
  | recordClose
  | ggeRearmExpiry
  | storeBaseChange (q : Requester) (base : BitVec 3)
  | ggeIndex (c : CmdCtx) (first : Word) (count : BitVec 16)
  | ggeRead (c : CmdCtx) (rec : Word) (off : BitVec 64) (len : BitVec 16)
  | ggeExport (c : CmdCtx) (rec : Word) (part file : BitVec 8) (off : BitVec 64) (len : BitVec 16)
  | ggeManual (c : CmdCtx)
  | ggeDelete (c : CmdCtx) (count : Word)
  | dwVal (s : Fin 64) (w : Fin 32) (v : Word)
  | dwSet (s : Fin 64) (w : Fin 32) (v : Word)
  | dwClr (s : Fin 64) (w : Fin 32) (v : Word)
  | holdExpiry (o : Fin 32)
  | gooseRetransmit (p : Fin 256)
  | biChange (i : Fin 32) (level : Bool) (dt : Nat)
  | sliceEnable (q : Requester) (s : Fin 64)
  | doorbell (s : Fin 64) (t : BitVec 16)
  | cqHeadWrite (s : Fin 64) (h : BitVec 16)
  | schedulerRound
  | shareWrite (q : Requester) (s : Fin 64) (reg : Fin 4) (mask value : Word)
  | descriptorComplete (s : Fin 64)
  | sliceFrameReceive (f : Frame) (dt : Nat)
  | drain (q : Requester) (s : Fin 64)
  | squash (q : Requester) (s : Fin 64)
  | partTimeout (s : Fin 64)
  | partingComplete (s : Fin 64)
  | freeze (q : Requester) (s : Fin 64)
  | freezeDone (s : Fin 64)
  | resume (q : Requester) (s : Fin 64)
  | logStart (q : Requester) (s : Fin 64)
  | logSwap (q : Requester) (s : Fin 64)
  | logSwapDone (s : Fin 64)
  | logStop (q : Requester) (s : Fin 64)
  | receive (q : Requester) (s : Fin 64)
  | slcPart (c : CmdCtx) (s mode : BitVec 8) (timeout : BitVec 16)
  | slcFreeze (c : CmdCtx) (s : BitVec 8)
  | slcResume (c : CmdCtx) (s : BitVec 8)
  | slcLog (c : CmdCtx) (s op : BitVec 8)
  | slcReceive (c : CmdCtx) (s : BitVec 8)
  | slcMigSend (c : CmdCtx) (s d : BitVec 8) (flags : BitVec 16) (list : BitVec 64) (count : Word)
  | slcSave (c : CmdCtx) (s : BitVec 8) (addr : BitVec 64) (maxLen : Word)
  | slcRestore (c : CmdCtx) (s : BitVec 8) (addr : BitVec 64) (len : Word)
  | backgroundComplete (s : Fin 64)
  | inputPhase
  | outputPhase
  | spnWatchdog
  | gooseDecode
  | spnReadVar (c : CmdCtx) (id : Word)
  | spnSwitch (c : CmdCtx)
  | spnRun (c : CmdCtx) (mode : BitVec 8)
  | spnStop (c : CmdCtx)
  | spnForce (c : CmdCtx) (id : Word) (mask value : BitVec 64)
  | spnUnforce (c : CmdCtx) (id : Word)
  | spnUnforceAll (c : CmdCtx)
  | spnLoad (c : CmdCtx) (addr : BitVec 64) (len : Word)
  | spnDiscard (c : CmdCtx)
  | islandCycle
  | positionChange (d : Fin 4) (contacts : BitVec 2)
  | positionFault (d : Fin 4)
  | encoderEdge (d : Fin 4) (tracks : BitVec 2) (interval : Nat)
  | travelTimeout (d : Fin 4)
  | speedTimeout (d : Fin 4)
  | testPulse (o : Fin 8)
  | rbMismatch (o : Fin 8)
  | safetyWatchdog
  | eccScrub (corrected : Nat) (uncorrectable : Bool)
  | clockCompare (deviates : Bool)
  | selftest (pass : Bool)
  | paramCheck
  | degWarning
  | degExpired
  | sfiProof (c : CmdCtx) (d dir : BitVec 8)
  | sfiAck (c : CmdCtx)
  | sfiStop (c : CmdCtx) (d : BitVec 8)
  | heartbeatToggle
  | hbSupervisorExpiry
  | tokInChange (level : Bool)
  | healthyChange (cmdOk : Bool)
  | startTakeWait
  | taking
  | tokStuck
  | hbInTimeout
  | linkHbTimeout
  | takeRepeat
  | hbFrameTransmit
  | hbFrameReceive (h : HbFrame)
  | linkFrameReceive (f : LinkFrame)
  | ackReceive (cls : Fin 3) (seq : Word) (errs : BitVec 24)
  | retransmitTimeout (cls : Fin 3)
  | eladeLinkDown
  | laneLock (lane : Fin 2)
  | hello (h : Hello)
  | helloAck (h : Hello)
  | helloRetry
  | statusTransmit
  | grant (f : ArbFrame)
  | deny (f : ArbFrame)
  | probe (f : ArbFrame)
  | revoke (f : ArbFrame)
  | arbiterStart
  | arbTake (f : ArbFrame) (dt : Nat)
  | arbHold (f : ArbFrame) (dt : Nat)
  | arbAbort (f : ArbFrame) (dt : Nat)
  | arbStatus (f : ArbFrame) (dt : Nat)
  | probeWaitExpiry
  | windowExpiry
  | takebackHoldoff
  | rdnHandover (c : CmdCtx)
  | rdnTakeback (c : CmdCtx)
  | rdnWithdraw (c : CmdCtx) (force : BitVec 8)
  | rdnRestore (c : CmdCtx)
  | chkAttest (c : CmdCtx) (nonce : List Byte)
  | chkPubkey (c : CmdCtx)
  | chkSlotInfo (c : CmdCtx) (kind slot : BitVec 8)
  | fwLoad (c : CmdCtx) (addr : BitVec 64) (len : Word)
  | fwConfirm (c : CmdCtx)
  | keyWrite (c : CmdCtx) (kind slot : BitVec 8) (id : Word) (usage len : BitVec 16) (value : List Byte)
  | keyErase (c : CmdCtx) (kind slot : BitVec 8)
  | keyUpdate (c : CmdCtx) (msg : List Byte)
  | keyUpdateStaged (c : CmdCtx) (addr : BitVec 64) (len : Word)
  | chkSeal (c : CmdCtx) (digest : List Byte)
  | chkDebug (c : CmdCtx) (on : BitVec 8)
  | remask
  | tagScrub
  | measurementExtend (q : Requester)
  | secureBoot
  | eventRecord (r : EvRec)
  | flushPeriodic
  | evrInfo (c : CmdCtx)
  | evrRead (c : CmdCtx) (first : Word) (count : BitVec 16)
  | evrClear (c : CmdCtx) (expected : Word)
  | sourceStable (src : Source)
  | missingEdge (src : Source)
  | freqWindow (src : Source) (ppm : Int)
  | forcedSwitch (aon : Bool)
  | pllLock (i : Island)
  | pllLockLoss (i : Island)
  | clkReturn (c : CmdCtx)
  | toolRestCondition (cause : Fin 8)
  | toolRestRelease
  | clockEnableWrite (q : Requester) (reg : Fin 3) (mask value : Word)
  | powerOnReset
  | powerOnRelease
  | start
  | islandReset (i : Island)
  | islandRelease (i : Island)
  | pinResetAssert
  | pinResetRelease
  | resetNStuck
  | wdtKick (q : Requester) (v : Word)
  | moduleWatchdog
  | rstModule (c : CmdCtx)
  | softwareReset
  | rstIsland (c : CmdCtx) (i : BitVec 8)
  | pwrSleep (c : CmdCtx)
  | pwrRun (c : CmdCtx)
  | pwrDeep (c : CmdCtx)
  | wakeTimer
  | powerFailWarning
  | powerFailClear
  | withdrawRestore
  | pciePerst (level : Bool)
  | hbInEdge
  | laneDown (lane : Fin 2)
  | arbAlive (f : ArbFrame) (dt : Nat)
  | toolRestConditionClear (cause : Fin 8)
  | travellingWaveSample (ch : Fin 24)
  | testPulseEnd (o : Fin 8)
  deriving DecidableEq, Repr

end Sys2Proof
end

