-- ==== Sys2Proof/Machine/Hash.lean ====
section
/-!
DEFINITION. Bytes and checks that the spec computes: little- and big-endian byte lists, CRC-32 with the IEEE 802.3
polynomial (R44, R361), SHAKE256 (FIPS 202) and KMAC256 (SP 800-185) (R34, R40, R331, R352).
-/

namespace Sys2Proof.Machine

/-- The low `n` bytes of a number, least significant first. -/
def le : (n : Nat) → (v : Nat) → List Byte
  | 0, _ => []
  | n + 1, v => BitVec.ofNat 8 v :: le n (v / 256)

/-- The low `n` bytes of a number, most significant first. -/
def be (n v : Nat) : List Byte := (le n v).reverse

/-- The number whose bytes, least significant first, are given. -/
def ofLe : List Byte → Nat
  | [] => 0
  | b :: bs => b.toNat + 256 * ofLe bs

def ofBe (bs : List Byte) : Nat := ofLe bs.reverse

/-- `n` bytes from position `k`; bytes beyond the end read as 0. -/
def slice (bs : List Byte) (k n : Nat) : List Byte :=
  let t := (bs.drop k).take n
  t ++ List.replicate (n - t.length) 0

/-- The little-endian number in `n` bytes from position `k`. -/
def numAt (bs : List Byte) (k n : Nat) : Nat := ofLe (slice bs k n)

/-- Bytes cut or padded with zeros to `n`. -/
def padTo (n : Nat) (bs : List Byte) : List Byte := slice bs 0 n

/-- One bit of the reflected CRC-32. -/
def crcBit (c : Nat) : Nat := if c % 2 = 1 then Nat.xor (c / 2) 0xEDB88320 else c / 2

def crcByte (c : Nat) (b : Byte) : Nat :=
  let c := Nat.xor c b.toNat
  crcBit (crcBit (crcBit (crcBit (crcBit (crcBit (crcBit (crcBit c)))))))

/-- CRC-32 with the IEEE 802.3 polynomial over bytes. -/
def crc32 (bs : List Byte) : Nat := Nat.xor (bs.foldl crcByte 0xFFFFFFFF) 0xFFFFFFFF

/-- Bytes followed by their CRC-32, least significant byte first. -/
def withCrc (bs : List Byte) : List Byte := bs ++ le 4 (crc32 bs)

/-- Does the four-byte CRC at the end of the bytes fit what stands before it? -/
def crcOk (bs : List Byte) : Bool :=
  decide (4 ≤ bs.length) && decide (ofLe (bs.drop (bs.length - 4)) = crc32 (bs.take (bs.length - 4)))

/-- Rotation of a 64-bit lane to the left. -/
def rol64 (v n : Nat) : Nat := v * 2 ^ n % 2 ^ 64 + v / 2 ^ (64 - n)

/-- The shift register that makes the round constants (FIPS 202, 3.2.5). -/
def rcShift (r : Nat) : Nat := if r < 128 then 2 * r else Nat.xor (2 * r) 0x171

/-- The constant of a round, from its first register value, and the register of the next round: bit 2^j - 1 of the constant is the
register's lowest bit after j shifts. -/
def rcRound (r : Nat) : (j : Nat) → Nat × Nat
  | 0 => (0, r)
  | j + 1 =>
    let (c, q) := rcRound r j
    (c + q % 2 * 2 ^ (2 ^ j - 1), rcShift q)

/-- The steps rho and pi: from lane (x, y) on, each lane of the cycle turned by the next triangular number and moved to the lane
after it; the pairs name the place and the value. -/
def rhoPi (lane : Nat → Nat) : (left t x y : Nat) → List (Nat × Nat)
  | 0, _, _, _ => [(0, lane 0)]
  | n + 1, t, x, y =>
    let y' := (2 * x + 3 * y) % 5
    (y + 5 * y', rol64 (lane (x + 5 * y)) (t * (t + 1) / 2 % 64)) :: rhoPi lane n (t + 1) y y'

/-- One round of Keccak-f[1600] on a function of the lanes, with its constant. -/
def keccakRound (a : List Nat) (rc : Nat) : List Nat :=
  let sheet (x : Nat) : Nat := [0, 5, 10, 15, 20].foldl (fun v k => Nat.xor v (a.getD (x % 5 + k) 0)) 0
  let theta : List Nat := (List.range 5).map fun x => Nat.xor (sheet (x + 4)) (rol64 (sheet (x + 1)) 1)
  let moved := rhoPi (fun i => Nat.xor (a.getD i 0) (theta.getD (i % 5) 0)) 24 1 1 0
  let b : List Nat := (List.range 25).map fun i => ((moved.find? fun e => e.1 == i).map fun e => e.2).getD 0
  (List.range 25).map fun i =>
    let row := i / 5 * 5
    let near (k : Nat) : Nat := b.getD (row + (i + k) % 5) 0
    let v := Nat.xor (near 0) (Nat.land (2 ^ 64 - 1 - near 1) (near 2))
    if i = 0 then Nat.xor v rc else v

/-- The 24 rounds, the shift register going on from round to round. -/
def keccakRounds : (n : Nat) → (r : Nat) → List Nat → List Nat
  | 0, _, a => a
  | n + 1, r, a =>
    let (c, r) := rcRound r 7
    keccakRounds n r (keccakRound a c)

def keccakF (a : List Nat) : List Nat := keccakRounds 24 1 a

/-- A block of 136 bytes added into the state. -/
def keccakAbsorb (a : List Nat) (blk : List Byte) : List Nat :=
  keccakF ((List.range 25).map fun i => if i < 17 then Nat.xor (a.getD i 0) (numAt blk (8 * i) 8) else a.getD i 0)

def keccakBlocks : (fuel : Nat) → List Nat → List Byte → List Nat
  | 0, a, _ => a
  | n + 1, a, bs => keccakBlocks n (keccakAbsorb a (bs.take 136)) (bs.drop 136)

def keccakSqueeze : (fuel : Nat) → List Nat → List Byte
  | 0, _ => []
  | n + 1, a => ((a.take 17).map (le 8)).flatten ++ keccakSqueeze n (keccakF a)

/-- The sponge of rate 136 bytes with the given domain byte. -/
def sponge (dom : Nat) (msg : List Byte) (n : Nat) : List Byte :=
  let r := 136 - msg.length % 136
  let pad : List Byte :=
    if r = 1 then [BitVec.ofNat 8 (dom + 0x80)]
    else BitVec.ofNat 8 dom :: (List.replicate (r - 2) 0 ++ [0x80])
  let m := msg ++ pad
  (keccakSqueeze ((n + 135) / 136) (keccakBlocks (m.length / 136) (List.replicate 25 0) m)).take n

/-- `n` bytes of SHAKE256. -/
def shake256 (msg : List Byte) (n : Nat) : List Byte := sponge 0x1F msg n

/-- The number of bytes of a value, at least 1. -/
def byteLen (v : Nat) : Nat := if v = 0 then 1 else (Nat.log2 v) / 8 + 1

def leftEncode (v : Nat) : List Byte := BitVec.ofNat 8 (byteLen v) :: be (byteLen v) v

def rightEncode (v : Nat) : List Byte := be (byteLen v) v ++ [BitVec.ofNat 8 (byteLen v)]

def encodeString (bs : List Byte) : List Byte := leftEncode (8 * bs.length) ++ bs

def bytepad136 (bs : List Byte) : List Byte :=
  let t := leftEncode 136 ++ bs
  t ++ List.replicate ((136 - t.length % 136) % 136) 0

/-- The ASCII bytes of a string. -/
def ascii (s : String) : List Byte := s.toList.map fun c => BitVec.ofNat 8 c.toNat

/-- `n` bytes of KMAC256 under a key, with a customisation string. -/
def kmac256 (key msg : List Byte) (n : Nat) (custom : List Byte) : List Byte :=
  sponge 0x04 (bytepad136 (encodeString (ascii "KMAC") ++ encodeString custom) ++ bytepad136 (encodeString key) ++
    msg ++ rightEncode (8 * n)) n

end Sys2Proof.Machine
end

