-- ==== Sys2Proof/Machine/Aes.lean ====
section
/-!
DEFINITION. AES (FIPS 197), decryption of one block, and the key unwrap of NIST SP 800-38F (KW) with which an update message
carries a symmetric key (R348, R349).
-/

namespace Sys2Proof.Machine

/-- The S-box and its inverse (FIPS 197), 32 entries to a word, entry 0 in the low byte. -/
def aesBox : List Nat :=
  [0xC072A49CAFA2D4ADF04759FA7DC982CA76ABD7FE2B670130C56F6BF27B777C63,
   0x75B227EBE28012079A059618C323C7041531D871F1E5A534CCF73F362693FDB7,
   0xCF584C4A39BECB6A5BB1FC20ED00D153842FE329B3D63B52A05A6E1B1A2C8309,
   0xD2F3FF1021DAB6BCF5389D928F40A351A89F3C507F02F94585334D43FBAAEFD0,
   0xDB0B5EDE14B8EE4688902A22DC4F816073195D643D7EA7C41744975FEC130CCD,
   0x08AE7A65EAF4566CA94ED58D6D37C8E779E4959162ACD3C25C2406490A3A32E0,
   0x9E1DC186B95735610EF6034866B53E708A8BBD4B1F74DDE8C6B4A61C2E2578BA,
   0x16BB54B00F2D99416842E6BF0D89A18CDF2855CEE9871E9B948ED9691198F8E1]

def aesInvBox : List Nat :=
  [0xCBE9DEC444438E3487FF2F9B8239E37CFBD7F3819EA340BF38A53630D56A0952,
   0x25D18B6D49A25B76B224D92866A12E084EC3FA420B954CEE3D23C2A632947B54,
   0x849D8DA75746155EDAB9EDFD5048706C92B6655DCC5CA4D41698688664F6F872,
   0x6B8A130103BDAFC1020F3FCA8F1E2CD00645B3B80558E4F70AD3BC8C00ABD890,
   0x6EDF751CE837F9E28535ADE72274AC9673E6B4F0CECFF297EADC674F4111913A,
   0xF45ACD78FEC0DB9A2079D2C64B3E56FC1BBE18AA0E62B76F89C5291D711AF147,
   0xEF9CC9939F7AE52D0D4AB519A97F51605FEC8027591012B131C7078833A8DD1F,
   0x7D0C2155631469E126D677BA7E042B17619953833CBBEBC8B0F52AAE4D3BE0A0]

def boxAt (t : List Nat) (x : Nat) : Nat := t.getD (x / 32) 0 / 2 ^ (8 * (x % 32)) % 256

def xtime (x : Nat) : Nat := if x < 128 then 2 * x else Nat.xor (2 * x) 0x11B

/-- The product of two bytes in the field of AES; the second factor has four bits. -/
def gmul (a b : Nat) : Nat :=
  let p (n x : Nat) : Nat := if b.testBit n then x else 0
  Nat.xor (Nat.xor (p 0 a) (p 1 (xtime a))) (Nat.xor (p 2 (xtime (xtime a))) (p 3 (xtime (xtime (xtime a)))))

def xorNums (a b : List Nat) : List Nat := List.zipWith Nat.xor a b

/-- The words of the key schedule after the first `nk`, the newest first; `w` holds those made so far, the newest first. -/
def keyWords (nk : Nat) : (n i rcon : Nat) → (w : List (List Nat)) → List (List Nat)
  | 0, _, _, w => w
  | n + 1, i, rcon, w =>
    let t := w.headD []
    let sub (x : List Nat) : List Nat := x.map (boxAt aesBox)
    let t := if i % nk = 0 then xorNums (sub (t.drop 1 ++ t.take 1)) [rcon, 0, 0, 0]
      else if nk = 8 ∧ i % nk = 4 then sub t else t
    keyWords nk n (i + 1) (if i % nk = 0 then xtime rcon else rcon) (xorNums (w.getD (nk - 1) []) t :: w)

/-- The round keys of a key of 16 or 32 bytes, the last round's first. -/
def roundKeys (key : List Nat) : List (List Nat) :=
  let nk := key.length / 4
  let w := keyWords nk (4 * (nk + 7) - nk) nk 1 ((List.range nk).map fun i => (key.drop (4 * i)).take 4).reverse
  (List.range (nk + 7)).map fun r => (((w.drop (4 * r)).take 4).reverse).flatten

def invShift (b : List Nat) : List Nat :=
  (List.range 16).map fun i => b.getD (i % 4 + 4 * ((i / 4 + 4 - i % 4) % 4)) 0

def invMix (b : List Nat) : List Nat :=
  (List.range 16).map fun i =>
    let x (k : Nat) : Nat := b.getD (i / 4 * 4 + (i + k) % 4) 0
    Nat.xor (Nat.xor (gmul (x 0) 14) (gmul (x 1) 11)) (Nat.xor (gmul (x 2) 13) (gmul (x 3) 9))

/-- The rounds after the first key addition. -/
def decRounds : List (List Nat) → List Nat → List Nat
  | [], b => b
  | [k], b => xorNums ((invShift b).map (boxAt aesInvBox)) k
  | k :: ks, b => decRounds ks (invMix (xorNums ((invShift b).map (boxAt aesInvBox)) k))

/-- One block decrypted with round keys in that order. -/
def aesDecrypt (ks : List (List Nat)) (b : List Nat) : List Nat := decRounds ks.tail (xorNums b (ks.headD []))

/-- The steps of the unwrapping, `t` counted down: the integrity register and the blocks of eight bytes. -/
def unwrapSteps (ks : List (List Nat)) (n : Nat) : (t : Nat) → List Nat → List (List Nat) → List Nat × List (List Nat)
  | 0, a, r => (a, r)
  | t + 1, a, r =>
    let i := t % n
    let b := aesDecrypt ks (xorNums a ((be 8 (t + 1)).map BitVec.toNat) ++ r.getD i [])
    unwrapSteps ks n t (b.take 8) (r.set i (b.drop 8))

/-- The payload that a wrapped key holds, when its integrity value is right. -/
def kwUnwrap (key wrapped : List Byte) : Option (List Byte) :=
  let n := wrapped.length / 8 - 1
  if wrapped.length % 8 ≠ 0 ∨ n < 2 then none
  else
    let c := wrapped.map BitVec.toNat
    let x := unwrapSteps (roundKeys (key.map BitVec.toNat)) n (6 * n) (c.take 8)
      ((List.range n).map fun i => (c.drop (8 * i + 8)).take 8)
    if x.1 = List.replicate 8 0xA6 then some (x.2.flatten.map (BitVec.ofNat 8)) else none

end Sys2Proof.Machine
end

