-- ==== Sys2Proof/Machine/Mac.lean ====
section
/-!
DEFINITION. The authentication codes of a stream (R120): SHA-256 (FIPS 180-4) and HMAC (FIPS 198-1), AES encryption of one block
(FIPS 197) and GMAC (NIST SP 800-38D).
-/

namespace Sys2Proof.Machine

/-! ### SHA-256 -/

/-- The round constants, eight to a number, the first in the low 32 bits; and the initial state in one. -/
def shaConsts : List Nat :=
  [0xAB1C5ED5923F82A459F111F13956C25BE9B5DBA5B5C0FBCF71374491428A2F98,
   0xC19BF1749BDC06A780DEB1FE72BE5D74550C7DC3243185BE12835B01D807AA98,
   0x76F988DA5CB0A9DC4A7484AA2DE92C6F240CA1CC0FC19DC6EFBE4786E49B69C1,
   0x1429296706CA6351D5A79147C6E00BF3BF597FC7B00327C8A831C66D983E5152,
   0x92722C8581C2C92E766A0ABB650A735453380D134D2C6DFC2E1B213827B70A85,
   0x106AA070F40E3585D6990624D192E819C76C51A3C24B8B70A81A664BA2BFE8A1,
   0x682E6FF35B9CCA4F4ED8AA4A391C0CB334B0BCB52748774C1E376C0819A4C116,
   0xC67178F2BEF9A3F7A4506CEB90BEFFFA8CC7020884C8781478A5636F748F82EE]

def shaStart : Nat := 0x5BE0CD191F83D9AB9B05688C510E527FA54FF53A3C6EF372BB67AE856A09E667

def wordOf (v k : Nat) : Nat := v / 2 ^ (32 * k) % 2 ^ 32

/-- A 32-bit word turned right. -/
def turn32 (x n : Nat) : Nat := x / 2 ^ n + x % 2 ^ n * 2 ^ (32 - n)

/-- The sum modulo 2 of a word turned by two amounts and turned or shifted by a third. -/
def mix32 (x a b c : Nat) (shift : Bool) : Nat :=
  Nat.xor (Nat.xor (turn32 x a) (turn32 x b)) (if shift then x / 2 ^ c else turn32 x c)

/-- The message schedule, newest word first: `n` more words after the sixteen of the block. -/
def shaSchedule : (n : Nat) → List Nat → List Nat
  | 0, w => w
  | n + 1, w =>
    let back (k : Nat) : Nat := w.getD (k - 1) 0
    shaSchedule n ((mix32 (back 2) 17 19 10 true + back 7 + mix32 (back 15) 7 18 3 true + back 16) % 2 ^ 32 :: w)

/-- One round on the eight working words, first to last. -/
def shaRound (v : List Nat) (k w : Nat) : List Nat :=
  let x (i : Nat) : Nat := v.getD i 0
  let pick := Nat.xor (x 6) (Nat.land (x 4) (Nat.xor (x 5) (x 6)))
  let most := Nat.lor (Nat.land (x 0) (x 1)) (Nat.land (x 2) (Nat.lor (x 0) (x 1)))
  let t := x 7 + mix32 (x 4) 6 11 25 false + pick + k + w
  let fresh := (t + mix32 (x 0) 2 13 22 false + most) % 2 ^ 32
  fresh :: (v.take 7).set 3 ((x 3 + t) % 2 ^ 32)

/-- One block of 64 bytes. -/
def shaBlock (v : List Nat) (blk : List Byte) : List Nat :=
  let w := (shaSchedule 48 ((List.range 16).map fun i => ofBe (slice blk (4 * i) 4)).reverse).reverse
  let r := (w.zipIdx).foldl (fun a e => shaRound a (wordOf (shaConsts.getD (e.2 / 8) 0) (e.2 % 8)) e.1) v
  List.zipWith (fun a b => (a + b) % 2 ^ 32) v r

def shaBlocks : (n : Nat) → List Nat → List Byte → List Nat
  | 0, v, _ => v
  | n + 1, v, m => shaBlocks n (shaBlock v (m.take 64)) (m.drop 64)

/-- The SHA-256 digest. -/
def sha256 (m : List Byte) : List Byte :=
  let z := (119 - m.length % 64) % 64
  let p := m ++ [0x80] ++ List.replicate z 0 ++ be 8 (8 * m.length)
  ((shaBlocks (p.length / 64) ((List.range 8).map (wordOf shaStart)) p).map (be 4)).flatten

/-- HMAC-SHA256. -/
def hmacSha256 (key m : List Byte) : List Byte :=
  let k := if key.length ≤ 64 then key else sha256 key
  let pad (c : Byte) : List Byte := (k ++ List.replicate (64 - k.length) 0).map fun b => b ^^^ c
  sha256 (pad 0x5C ++ sha256 (pad 0x36 ++ m))

/-! ### AES-GMAC -/

def fwdShift (b : List Nat) : List Nat := (List.range 16).map fun i => b.getD (i % 4 + 4 * ((i / 4 + i % 4) % 4)) 0

def fwdMix (b : List Nat) : List Nat :=
  (List.range 16).map fun i =>
    let x (k : Nat) : Nat := b.getD (i / 4 * 4 + (i + k) % 4) 0
    Nat.xor (Nat.xor (gmul (x 0) 2) (gmul (x 1) 3)) (Nat.xor (x 2) (x 3))

/-- The rounds after the first key addition. -/
def encRounds : List (List Nat) → List Nat → List Nat
  | [], b => b
  | [k], b => xorNums (fwdShift (b.map (boxAt aesBox))) k
  | k :: ks, b => encRounds ks (xorNums (fwdMix (fwdShift (b.map (boxAt aesBox)))) k)

/-- One block encrypted under a key of 16 or 32 bytes. -/
def aesEncrypt (key b : List Nat) : List Nat :=
  let ks := (roundKeys key).reverse
  encRounds ks.tail (xorNums b (ks.headD []))

/-- The product in the field of GCM, whose first bit is the highest: `n` bits of `x` left. -/
def ghashMul (x : Nat) : (n : Nat) → (v z : Nat) → Nat
  | 0, _, z => z
  | n + 1, v, z =>
    ghashMul x n (if v % 2 = 1 then Nat.xor (v / 2) (0xE1 * 2 ^ 120) else v / 2) (if x.testBit n then Nat.xor z v else z)

/-- GHASH over whole blocks of 16 bytes. -/
def ghash (h : Nat) : (n : Nat) → (y : Nat) → List Byte → Nat
  | 0, y, _ => y
  | n + 1, y, m => ghash h n (ghashMul (Nat.xor y (ofBe (m.take 16))) 128 h 0) (m.drop 16)

def pad16 (m : List Byte) : List Byte := m ++ List.replicate ((16 - m.length % 16) % 16) 0

/-- GMAC: the tag of authenticated data under a key and an initialisation vector. -/
def gmac (key iv m : List Byte) : List Byte :=
  let k := key.map BitVec.toNat
  let h := ofBe ((aesEncrypt k (List.replicate 16 0)).map (BitVec.ofNat 8))
  let tagOf (b : List Byte) : Nat := ghash h (b.length / 16) 0 b
  let j := if iv.length = 12 then be 16 (ofBe iv * 2 ^ 32 + 1) else be 16 (tagOf (pad16 iv ++ be 16 (8 * iv.length)))
  let e := ofBe ((aesEncrypt k (j.map BitVec.toNat)).map (BitVec.ofNat 8))
  be 16 (Nat.xor e (tagOf (pad16 m ++ be 8 (8 * m.length) ++ be 8 0)))

/-! ### The algorithms of R120 -/

/-- The tag of algorithm `alg` of R121 under a key; none where the key's length is not the algorithm's. -/
def streamTag (alg : Nat) (key iv span : List Byte) : Option (List Byte) :=
  if alg = 0 then some ((hmacSha256 key span).take 16)
  else if alg = 1 then some (hmacSha256 key span)
  else if alg = 2 ∧ key.length = 16 ∨ alg = 3 ∧ key.length = 32 then some (gmac key iv span)
  else none

end Sys2Proof.Machine
end

