-- ==== Sys2Proof/Machine/State.lean ====
section
/-!
DEFINITION. The state of the block: plain data, one sub-structure for each unit of the spec, the queue of waiting
commands, and the machine right after power-on reset. Registers are one sparse file `regs`: an address that is not
listed holds its reset value (the tables of `Machine/Tables*.lean`); what the spec computes for a read (status
words, PG_STAT) is computed from the typed state below.
-/

namespace Sys2Proof.Machine

/-- A timestamp (R46, R47): seconds, nanoseconds, fraction in 2^-16 ns, time quality, step epoch, software grade. -/
structure Stamp where
  sec : Nat
  ns : Nat
  frac : Nat
  quality : Nat
  epoch : Nat
  soft : Bool := false
  deriving DecidableEq, Repr

/-- The part numbers of R2. -/
inductive Variant where
  | x | s | n
  deriving DecidableEq, Repr

/-- What is fused (R2, R347, R351, R358). -/
structure Fuses where
  variant : Variant
  lot : BitVec 32
  wafer : BitVec 8
  dieX : BitVec 8
  dieY : BitVec 8
  sealed : Bool
  debug : Bool
  deriving DecidableEq, Repr

/-- An image in the image pool: address and length (R42). -/
structure ImageRef where
  addr : Nat
  len : Nat
  deriving DecidableEq, Repr

/-- What the configuration store and the journal hold beside their bytes (R34, R42, R44, R45). -/
structure Nv where
  startCount : BitVec 32
  restartCount : BitVec 32
  jnlNewest : Nat
  jnlCount : Nat
  cfg : Option ImageRef
  spn : Option ImageRef
  spnPend : Option ImageRef
  mgmt : List (Mac × BitVec 64)
  mgmtSlot : BitVec 6
  deriving DecidableEq, Repr

/-- What ends a command that waits (R36, R39, R115, R276, R295, R301, R309, R278, R341). -/
inductive Wait where
  | freeze (s : Nat)
  | logSwap (s : Nat)
  | force (id : Word) (mask value : BitVec 64)
  | unforce (id : Word)
  | unforceAll
  | stop
  | switch
  | proof (d : Nat)
  | clearMeters (mask : BitVec 96)
  | commit
  deriving DecidableEq, Repr

/-- The command in execution (R36): its message, its journal sequence and what it waits for. -/
structure Exec where
  msg : CmdMsg
  seq : Nat
  wait : Wait
  deriving DecidableEq, Repr

/-- What a background operation of a slice does (R283): a parting, a migration with its list, flags, records sent and
the errors its last acknowledgement carried, a save, a restore. -/
inductive BgKind where
  | part (clamped : Bool)
  | migSend (d flags list count sent errs : Nat)
  | save (addr maxLen : Nat)
  | restore (addr len : Nat)
  deriving DecidableEq, Repr

/-- A background operation (R283); `live` is false once its journal entry has become INTERRUPTED (R45), `failed` once
something has ended it without success. -/
structure Bg where
  slice : Nat
  msg : CmdMsg
  seq : Nat
  kind : BgKind
  live : Bool
  failed : Bool
  deriving DecidableEq, Repr

/-- The command processor (R33 to R39). -/
structure Cmd where
  queue : List CmdMsg
  rr : Nat
  exec : Option Exec
  bg : List Bg
  hostHeld : List (List Byte)
  sliceHeld : List (Nat × List Byte)
  sender : Nat
  deriving DecidableEq, Repr

/-- Servo states (R60), coded as TIM_STATE. -/
inductive Servo where
  | invalid | roughing | finishing | holdover | free
  deriving DecidableEq, Repr

/-- An open peer-delay exchange of a port (R55): the stamp of the request sent and what has come back. -/
structure Pdelay where
  port : Nat
  seqId : BitVec 16
  t1 : Option Int
  t2 : Option Int
  t4 : Option Int
  corr : Int
  epoch : Nat
  deriving DecidableEq, Repr

/-- A two-step Sync of the parent waiting for its Follow_Up (R60): key, ingress port and stamp, correction. -/
structure TwoStep where
  clockId : BitVec 64
  portNum : BitVec 16
  seqId : BitVec 16
  inPort : Nat
  stamp : Int
  corr : Int
  epoch : Nat
  deriving DecidableEq, Repr

/-- An entry of the transparent clock's table (R58): key, and by egress and ingress port the residence time of the Sync with the
peer delay of the ingress port. -/
structure TcEntry where
  clockId : BitVec 64
  portNum : BitVec 16
  seqId : BitVec 16
  egress : List (Nat × Nat × Int)
  deriving DecidableEq, Repr

/-- A foreign master at a port (R55): its newest Announce and the instants of its last Announces. -/
structure Foreign where
  port : Nat
  ann : Announce
  times : List Nat
  deriving DecidableEq, Repr

/-- A step of the timebase (R53): the time before and after it, the epoch and the quality before it. -/
structure StepRec where
  old : Nat
  new : Nat
  epoch : Nat
  quality : Nat
  deriving DecidableEq, Repr

/-- A message that the transparent clock forwards: message class, sourcePortIdentity, sequenceId (R58, R94). -/
structure FwdKey where
  cls : Nat
  clockId : BitVec 64
  portNum : BitVec 16
  seqId : BitVec 16
  deriving DecidableEq, Repr

/-- The timebase, the servo and the PTP stack (R46 to R69). Times are counted in 2^-47 ns. `pause` is the elapsed time at which a pause
of the grains began (R193); `utcChanged` and `quality0Left` are elapsed times too. -/
structure Tim where
  time : Nat
  freq : Int
  integ : Int
  servo : Servo
  quality : Nat
  persist : Bool
  epoch : Nat
  run : List Int
  lockRun : Nat
  setDone : Bool
  lastGrain : Option (Nat × Nat)
  gaps : List (Nat × Nat)
  pause : Option Nat
  steps : List StepRec
  stepSum : Int
  grains : Nat
  stepFlag : Bool
  rephase : Bool
  ppsHigh : Bool
  ppsMark : List (Nat × Nat)
  ppsFloor : Nat
  ref10 : Bool
  ppsUnread : Bool
  tsq : List (Nat × Nat × Stamp)
  peer : List (Nat × Int)
  pdelay : List Pdelay
  sync : Option TwoStep
  tc : List TcEntry
  fwd : List (Nat × FwdKey)
  bound : List (Nat × FwdKey)
  foreign : List Foreign
  left : BitVec 64
  parent : Option (BitVec 64)
  slavePort : Option Nat
  masters : BitVec 64
  seqSync : BitVec 16
  seqAnn : BitVec 16
  seqPd : BitVec 16
  utcChanged : Option Nat
  quality0Left : Option Nat
  deriving DecidableEq, Repr

/-- The redundancy field that a copy leaves with (R87): HSR tag or PRP trailer, LanId, sequence number. -/
structure RedOut where
  hsr : Bool
  lan : BitVec 4
  seq : BitVec 16
  deriving DecidableEq, Repr

/-- A live copy of a stored frame (R106): frame, egress port, queue, cut-through, redundancy field; once in
transmission, the frame as it leaves and the instant of its first preamble bit at the MAC. -/
structure Copy where
  frame : Nat
  port : Nat
  queue : Nat
  ct : Bool
  red : Option RedOut
  sent : Option Frame := none
  start : Nat := 0
  deriving DecidableEq, Repr

/-- A frame in the Bowl with its header record (R97): ingress port, stamp, VID, PCP, queue, the bytes of a trailer or tag that
a copy leaves without, and the billet pointers. -/
structure SFrame where
  id : Nat
  frame : Frame
  inPort : Nat
  stamp : Option Stamp
  vid : Nat
  pcp : Nat
  queue : Nat
  strip : Nat
  ptrs : List Nat
  deriving DecidableEq, Repr

/-- The external ports (R82, R83, R79): link, flushing, auto-negotiation, soft reset and the copies in transmission. -/
structure Ports where
  link : BitVec 64
  flushing : BitVec 64
  anDone : BitVec 64
  softRst : BitVec 64
  tx : List Copy
  deriving DecidableEq, Repr

/-- A forwarding table entry (R112, R113). -/
structure Fdb where
  mac : Mac
  vid : Nat
  dtype : Nat
  dest : Nat
  static : Bool
  hit : Bool
  deriving DecidableEq, Repr

/-- A duplicate-discard entry (R89): key, seen flags of PORT_A and PORT_B, creation in ns. -/
structure Dd where
  pair : Nat
  src : Mac
  seq : BitVec 16
  seenA : Bool
  seenB : Bool
  born : Nat
  deriving DecidableEq, Repr

/-- The switch (R97 to R117): frames and copies, the instant at which its slots began, slots taken by input tile, egress buffers by
port, the tables and what their operations left. -/
structure Swc where
  frames : List SFrame
  copies : List Copy
  nextId : Nat
  t0 : Nat
  used : List (Nat × Nat)
  buf : List (Nat × List Nat)
  fdb : List Fdb
  cls : List (Nat × List Word)
  grp : List (Nat × BitVec 68)
  dd : List Dd
  pairSeq : List (Nat × BitVec 16)
  fdbBusy : Bool
  fdbResult : Nat
  clsBusy : Bool
  grpBusy : Bool
  ipLink : BitVec 4
  deriving DecidableEq, Repr

/-- One input sample of an SV subscription: its index (S × RATE + smpCnt, or the unwrapped counter) and its
elements; none is a sample marked missing (R126, R129). -/
structure SvSample where
  idx : Nat
  elems : Option (List SvElem)
  sim : Bool
  deriving DecidableEq, Repr

/-- SV subscription states (R125), coded as SVS_SUB_STAT. -/
inductive SvState where
  | idle | running | lost
  deriving DecidableEq, Repr

/-- An SV subscription's state (R125 to R129). Estimates are in units of 1 / (RATE × 2^16) ns. -/
structure SvSub where
  state : SvState
  next : Nat
  idx : Nat
  hist : List SvSample
  sync : Option Nat
  est : Option Int
  minE : Option Int
  cntE : Nat
  refused : List Nat
  recSec : Option Nat
  deriving DecidableEq, Repr

/-- GOOSE subscription states (R136, R137), coded as SVS_SUB_STAT. -/
inductive GState where
  | idle | live | stale
  deriving DecidableEq, Repr

/-- A GOOSE subscription's state (R136, R137); the deadline is in ns. -/
structure GSub where
  state : GState
  stNum : Nat
  sqNum : Nat
  confRev : Option Nat
  discards : Nat
  deadline : Nat
  recSec : Option Nat
  deriving DecidableEq, Repr

/-- A pre-matched frame in the verification FIFO with the entry it matched (R118, R122, R124). -/
structure VFrame where
  frame : Frame
  entry : Nat
  words : List Word
  stamp : Stamp
  deriving DecidableEq, Repr

/-- A channel of an aligned set (R133, R134): channel number, value, flag word, quality. -/
structure ChVal where
  ch : Nat
  value : Int
  flags : BitVec 16
  quality : BitVec 16
  deriving DecidableEq, Repr

/-- A grain's label (R19, R49): seconds, grain number, count of generated grains, time quality and epoch. -/
structure Label where
  sec : Nat
  k : Nat
  n : Nat
  quality : Nat
  epoch : Nat
  step : Bool
  deriving DecidableEq, Repr

/-- An open set (R130, R131): label, member subscriptions with their entries, whether local acquisition is a member,
local values delivered, the binary inputs at the grain instant (R185). -/
structure OpenSet where
  label : Label
  members : List (Nat × List Word)
  localMember : Bool
  locals : List ChVal
  bi : BitVec 32 := 0
  deriving DecidableEq, Repr

/-- A released aligned set (R131): label, the channels that are not plainly MISSING, released by window. -/
structure ASet where
  label : Label
  chans : List ChVal
  window : Bool
  members : Nat
  delivered : Nat
  bi : BitVec 32 := 0
  deriving DecidableEq, Repr

/-- Producer state of one ring of a slice (R134, R135). -/
structure Ring where
  prod : Nat
  fault : Bool
  deriving DecidableEq, Repr

/-- Rings of all slices, sparse: a slice not listed has producer index 0 and no fault. -/
abbrev Rings := List (Nat × Ring)

/-- The Stream island's subscriber (R118 to R140). -/
structure Svs where
  tab : List (Nat × List Word)
  sv : List (Nat × SvSub)
  goose : List (Nat × GSub)
  fifo : List VFrame
  opened : List OpenSet
  ring : Rings
  gring : Rings
  lastRel : Option Label
  deriving DecidableEq, Repr

/-- One captured bit of a local channel (R141, R155): value, ×16 range, blanked. -/
structure MBit where
  v : Bool
  r16 : Bool
  blank : Bool
  deriving DecidableEq, Repr

/-- A fade in progress (R150): old bank, first grain (count of generated grains), FADE_N. -/
structure Fade where
  oldBank : Bool
  first : Nat
  n : Nat
  deriving DecidableEq, Repr

/-- A local channel (R141 to R160). `bits` stand newest first, the newest of edge `nextEdge - 1`; `change` is the edge of the last
channel change; `pendRange` the level the RANGE pin is to take and the edge at which it may; `swEdge` the last switch, so that bits
from it on are of the present range; `sws` the switches that still matter, newest first, each with the edge its blanking ends at;
`oneSince` the last edge whose output bars a switch to the ×16 range; `last` and `run` the last bit and the length of its run, `good`
the consecutive bits without a run longer than STUCK_LEN (R143); `satTo` the edge to which saturations of the chain are counted
(R145); `tapNext` the next output of the tap, in units of 8 edges (R160); `lastN` the last grain delivered. -/
structure AcqCh where
  bits : List MBit
  nextEdge : Nat
  mdFault : Bool
  cfgFault : Bool
  change : Option Nat
  fade : Option Fade
  range16 : Bool
  pendRange : Option (Bool × Nat)
  swEdge : Nat
  sws : List (Nat × Nat)
  oneSince : Nat
  last : Bool
  run : Nat
  good : Nat
  satTo : Nat
  tapNext : Nat
  settling : Bool
  settleLeft : Nat
  active : Bool
  recSec : Option Nat
  lastN : Nat
  deriving DecidableEq, Repr

/-- A skew calibration in progress (R161, R162): mask, the grain of C as a count of generated grains, the next step; for
each calibrated channel and step edge the crossing after the edge as a fraction of MCLK periods, when one exists, and
whether the step was large enough. -/
structure Cal where
  mask : Nat
  start : Nat
  step : Nat
  edges : List (Nat × List (Option (Int × Nat) × Bool))
  deriving DecidableEq, Repr

/-- Acquisition (R141 to R164). -/
structure Acq where
  ch : List (Nat × AcqCh)
  cal : Option Cal
  calOut : Bool
  calResult : List (Nat × Int × Bool)
  deriving DecidableEq, Repr

/-- Status of a three-phase group (R174 to R176). -/
structure GrpStat where
  reverse : Bool
  neutral : Bool
  classMix : Bool
  revCnt : Nat
  neuCnt : Nat
  dfreq : Option Int
  since : Nat
  deriving DecidableEq, Repr

/-- A harmonic window in progress (R177): first grain count, length, f_ref − f0 in µHz, NOSYNC. -/
structure HWin where
  first : Nat
  len : Nat
  dref : Int
  nosync : Bool
  deriving DecidableEq, Repr

/-- A completed harmonic window of a list entry (R178): per order C re, C im, G, S; flags. -/
structure HRes where
  vals : List (Int × Int × Nat × Nat)
  flags : BitVec 16
  first : Nat
  len : Nat
  deriving DecidableEq, Repr

/-- What the publisher reads of a stream's tables (R182): the eight words of its entry, the first word of each PMU block, number and
both words of each phasor slot, and the CFG-2 image. -/
structure PubView where
  entry : List Nat
  blks : List Nat
  slots : List (Nat × Nat × Nat)
  image : List Byte
  deriving DecidableEq, Repr

/-- A C37.118.2 stream (R182, R186): 0 disabled, 1 ON, 2 OFF, 3 CFG_FAULT; reason; time of the last change, as elapsed time. `snaps`
holds, newest first, from which generated grain on the stream's reporting grains are sent or not, and under which tables (R187). -/
structure Pub where
  state : Nat
  reason : Nat
  changed : Option Nat
  snaps : List (Nat × Bool × PubView)
  deriving DecidableEq, Repr

/-- The phasor engine and the synchrophasor publisher (R165 to R187). `hist` holds released sets, newest first;
`todo` counts released sets not yet taken by the engine; `hdone` holds complete harmonic windows not yet written; `hfrom` is the
first grain at which a harmonic window may begin, `hnext` that of an entry; `stepAt` the first grain after the last timebase step. -/
structure Phx where
  hist : List ASet
  todo : Nat
  fnom : Nat
  mN : Nat
  mFfr : Nat
  regen : Bool
  since : Nat
  sinceM : Nat
  chSince : List (Nat × Nat)
  grp : List (Nat × List Word)
  grpStat : List (Nat × GrpStat)
  grpBusy : Bool
  hwin : List (Nat × HWin)
  hdone : List (Nat × HWin)
  hfrom : Nat
  hnext : List (Nat × Nat)
  stepAt : Nat
  hres : List (Nat × HRes)
  pub : List (Nat × Pub)
  ring : Rings
  hring : Rings
  setK : Nat
  deriving DecidableEq, Repr

/-- Voltage-event state of a meter (R201): dip, swell, interruption with their starts (ns) and extremes (mV). -/
structure VEvt where
  dip : Option (Nat × Nat)
  swell : Option (Nat × Nat)
  intr : Option (Nat × Nat)
  deriving DecidableEq, Repr

/-- One basic or aggregated quality interval (R200, R202). Values as in the record of R202; a MISSING one has no
`u`. -/
structure QInt where
  first : Label
  u : List Nat
  dfreq : Int
  u2 : Nat
  u0 : Nat
  thdu : List Nat
  thdi : List Nat
  flagged : Bool
  incomplete : Bool
  nosync : Bool
  deriving DecidableEq, Repr

/-- A meter (R188 to R201). `acc` are 96-bit numbers: 64-bit counter and 32-bit fraction; `fault` is the REASON of
CFG_FAULT, 0 for none. `unb` holds u2 and u0 of the newest reference grains, in 10^-12; `fSlot`, `fSum` the 10 s of the UTC clock
in progress with the sum and count of its dfreq, `fDone` and `fTen` the 10 s means of the 150/180-cycle and of the 10-minute interval
in progress, `fLast` the newest; `waiting` the basic intervals, first grain and length, whose last reference grain is to come;
`seen` says that a voltage event touched that interval. -/
structure Meter where
  acc : List Nat
  miss : Nat
  fault : Nat
  last : Option Label
  hrmGap : Bool
  unsaved : Nat
  evt : VEvt
  unb : List (Nat × Nat × Nat)
  fSlot : Nat
  fSum : Int × Nat
  fDone : List Int
  fTen : List Int
  fLast : Option Int
  waiting : List (Nat × Nat × QInt)
  seen : Bool
  basic : List QInt
  agg10m : List QInt
  agg2h : List QInt
  deriving DecidableEq, Repr

/-- The energy and quality unit (R188 to R204). -/
structure Nrg where
  meters : List (Nat × Meter)
  snapReq : Option Nat
  clearReq : Option (BitVec 96)
  saveReq : Option Nat
  snapSeq : Nat
  lastLabel : Option Label
  saveSeq : Nat
  saveSlot : Option Nat
  storeLost : Bool
  unsaved : Bool
  qring : Ring
  deriving DecidableEq, Repr

/-- A travelling-wave sample (R205): how many its channel had taken with it; its number, counted from the top of second 0 at 3.6 MS/s;
compensated value when valid; the value d of a detection at it (R207); time quality and step epoch at it (R210). A sample of before a
timebase step is `old`: its number may come again. -/
structure TwSample where
  sn : Nat
  m : Nat
  y : Option Int
  det : Option Int
  quality : Nat
  epoch : Nat
  old : Bool
  deriving DecidableEq, Repr

/-- A travelling-wave channel (R205, R207): the samples taken; the number after the newest since the last step, 0 before one; the
newest samples first; the channel change last seen; samples since the last detection and the run of small slopes; detections not yet
worked out by R208, and those worked out (sample, time), newest first. -/
structure TwCh where
  taken : Nat
  next : Nat
  recent : List TwSample
  chg : Option Nat
  armed : Bool
  since : Nat
  quiet : Nat
  invalid : Bool
  detCnt : Nat
  det : List Nat
  waves : List (Nat × Int)
  deriving DecidableEq, Repr

/-- A wavefront (R208): channel, time in ns, amplitude, NO_INTERP, ×1 range. -/
structure Wave where
  ch : Nat
  time : Int
  amp : Int
  noInterp : Bool
  range1 : Bool
  quality : Nat
  epoch : Nat
  deriving DecidableEq, Repr

/-- An event of a line (R211 to R213): t0 in ns, sample of the opening detection, members and channels that detected,
reflection lists, its sequence and suppressed count, and the configuration words it opened with: TWV_CFG, TWV_REFL,
TWV_KEY, the nine of the line and the three of each channel (R219). `rearmed` says that REARM ran out before it was reported. -/
structure TwEvent where
  t0 : Int
  m0 : Nat
  members : List Wave
  seen : List Nat
  refl : List (Nat × List Wave)
  moreRefl : List Nat
  reported : Bool
  windowDone : Bool
  rearmed : Bool
  stepped : Bool
  seq : Nat
  supp : Nat
  cfg : List Nat
  deriving DecidableEq, Repr

/-- Copies of a report still to be sent (R215): elapsed time of the next, how many, payload, configuration of its event. -/
structure TwCopies where
  due : Nat
  left : Nat
  report : List Byte
  cfg : List Nat
  deriving DecidableEq, Repr

/-- A line (R211 to R217). -/
structure TwLine where
  event : Option TwEvent
  supp : Nat
  seq : Nat
  copies : List TwCopies
  lastRx : Option (Nat × Nat)
  recSec : Option Nat
  deriving DecidableEq, Repr

/-- The travelling-wave unit (R205 to R219). -/
structure Twv where
  ch : List (Nat × TwCh)
  line : List (Nat × TwLine)
  ring : Rings
  rring : Rings
  deriving DecidableEq, Repr

/-- Gouge states (R227), coded as GGE PG_STAT. -/
inductive GgeState where
  | disarmed | armed | recording | rearm | blocked
  deriving DecidableEq, Repr

/-- A trigger unit (R224, R225). `cursor` is the last sample evaluated: grain count, or count of the channel's travelling-wave samples. -/
structure TrigUnit where
  cursor : Nat
  fresh : Bool
  inState : Bool
  dur : Nat
  timedOut : Bool
  exc : Option Int
  armed : Bool
  quiet : Nat
  recent : List (Option Int)
  fireCnt : Nat
  cfgFault : Bool
  suppRec : Bool
  deriving DecidableEq, Repr

/-- A firing (R225, R228): unit, instant in 2^-16 ns, its stamp, value listed. -/
structure Firing where
  unit : Nat
  cond : Nat
  src : Nat
  instant : Int
  stamp : Stamp
  value : Int
  moved : Bool
  same : Bool
  deriving DecidableEq, Repr

/-- What Gouge samples at a grain instant beside its ring frame (R223): label, BI, BO, TRIP, decision words. -/
structure GFrame where
  label : Label
  bi : BitVec 32
  bo : BitVec 16
  trip : BitVec 16
  words : List Word
  deriving DecidableEq, Repr

/-- The open record (R228 to R237). Grain positions are counts of generated grains, travelling-wave positions sample
numbers; `pre`, `post` and `limit` are the settings it opened with. -/
structure GRec where
  num : Nat
  trigger : Stamp
  instant : Int
  gt : Nat
  gtK : Nat
  pre : Nat
  post : Nat
  limit : Nat
  preTrue : Nat
  last : Nat
  firings : List Firing
  more : Bool
  limited : Bool
  preShort : Bool
  twShort : Bool
  twCut : Bool
  twPre : Nat
  twFirst : Int
  twLast : Int
  twAnchor : Int
  off : Nat
  pages : Nat
  supp : Nat
  framesDone : Nat
  rowsDone : Nat
  deriving DecidableEq, Repr

/-- A record held in the store (R236): number, first page, pages, still recording. -/
structure Held where
  num : Nat
  off : Nat
  pages : Nat
  recording : Bool
  deriving DecidableEq, Repr

/-- Gouge (R220 to R241). `frames` are the newest grains first, `filled` the last whose
aligned set stands in its ring frame; `act` are the list words in force (GGE_TWMASK, GGE_NUM,
GGE_DECW, GGE_ACH, GGE_PQ); `twNewest` is the newest tap sample written; with `twFresh` the travelling-wave history starts at the
next one (R229). -/
structure Gge where
  state : GgeState
  full : Bool
  unit : List (Nat × TrigUnit)
  histFrom : Nat
  twHistFrom : Nat
  twFresh : Bool
  twNewest : Nat
  frames : List GFrame
  filled : Nat
  act : List Nat
  opened : Option GRec
  arrived : List Firing
  suppSince : Nat
  recs : List Held
  nextNum : Nat
  reading : Option Nat
  deriving DecidableEq, Repr

/-- A GOOSE state to publish (R254): members' encodings, invalid and substituted marks, time. -/
structure GooseState where
  data : List (List Byte)
  invalid : List Bool
  subst : List Bool
  t : Stamp
  deriving DecidableEq, Repr

/-- A publication (R253 to R258); 0 disabled, 1 running, 2 CFG_FAULT. `values` are the members' encodings last compared,
`substs` which of a Spindle publication's members are forced (R294). -/
structure GPub where
  state : Nat
  reason : Nat
  stNum : Nat
  sqNum : Nat
  last : Option GooseState
  pending : List (Nat × GooseState)
  values : List (List Byte)
  substs : List Bool
  active : Bool
  peerSt : Nat
  lastBuilt : Option Nat
  deriving DecidableEq, Repr

/-- Decisions and trip matrix (R242 to R259). -/
structure Dec where
  word : List Word
  subst : List Word
  term : BitVec 32
  hold : BitVec 32
  bi : BitVec 32
  biRaw : BitVec 32
  biChg : BitVec 32
  biStamp : List (Nat × Stamp)
  gated : BitVec 32
  denyRec : List (Nat × Nat)
  pub : List (Nat × GPub)
  deriving DecidableEq, Repr

/-- Slice states (R264), coded as S_STAT. -/
inductive SlState where
  | free | active | freezing | frozen | parting | receiving
  deriving DecidableEq, Repr

/-- A descriptor in execution (R269): op, queue, length, source, destination, tag, bytes done, units issued. -/
structure Desc where
  op : Nat
  queue : Nat
  len : Nat
  src : Nat
  dst : Nat
  tag : BitVec 64
  done : Nat
  status : Nat
  deriving DecidableEq, Repr

/-- A Vreloc slice (R264 to R283). -/
structure Slice where
  state : SlState
  busy : Bool
  pend : Bool
  log : Bool
  act : Bool
  escalated : Bool
  squash : Bool
  outst : Nat
  tokens : Nat
  deficit : Nat
  weight : Nat
  rateEn : Bool
  rate : Nat
  burst : Nat
  sqTail : BitVec 16
  sqHead : BitVec 16
  cqHead : BitVec 16
  cqTail : BitVec 16
  rqTail : BitVec 16
  rqHead : BitVec 16
  refuse : Nat
  desc : Option Desc
  blocked : Bool
  migNext : Nat
  swapping : Bool
  tokTime : Nat
  deriving DecidableEq, Repr

/-- The slice manager (R264 to R285); `clear` lists slices whose words R245 clears at the release of a reset. -/
structure Slc where
  s : List (Nat × Slice)
  faultQ : List (Nat × Nat)
  msiPend : List Nat
  clear : List Nat
  deriving DecidableEq, Repr

/-- Spindle states (R291), coded as SPN_STAT. -/
inductive SpnState where
  | noImage | stopped | running | fault
  deriving DecidableEq, Repr

/-- A force entry (R295). -/
structure Force where
  id : Word
  mask : BitVec 64
  value : BitVec 64
  deriving DecidableEq, Repr

/-- Spindle (R286 to R303). `data` is the active bank's data memory, `cur` the image of the active bank. Instants are
of the monotonic time (R290), which counts from `rtRelease`, a timebase value in 2^-47 ns. `inbox` holds the GOOSE states that the
subscriber has passed on (R138), oldest first; `staged` is keyed by the entry of the input map; `committed` lists words of the retentive region with their last commit and whether they are deferred;
`newHalf` says that the new half of a switch is still to be written (R301), `flushDue` that a flush waits for the output
phase in progress (R299). -/
structure Spn where
  state : SpnState
  data : List Byte
  cur : Option ImageRef
  inCycle : Bool
  firstStart : Bool
  firstSwitch : Bool
  cycleStart : Option Nat
  gapFrom : Nat
  rtRelease : Int
  lastSwitch : Option Nat
  biSeen : BitVec 32
  inbox : List (Nat × List Byte)
  staged : List (Nat × Option (List Byte) × Option (BitVec 16))
  errq : List Nat
  force : List (Nat × Force)
  committed : List (Nat × Nat × Bool)
  retHalf : Nat
  retSeq : Nat
  retMismatch : Bool
  retTorn : Bool
  newHalf : Bool
  flushDue : Bool
  pubNew : List Nat
  decRec : List (Nat × Nat)
  mirror : List (Nat × BitVec 64)
  deriving DecidableEq, Repr

/-- Safety island states (R314), coded as SFI PG_STAT. -/
inductive SfiState where
  | selftest | run | degraded | safe
  deriving DecidableEq, Repr

/-- Drive states (R318), coded as D_STAT. -/
inductive DState where
  | disabled | proof | ready | moving | halted | locked
  deriving DecidableEq, Repr

/-- A drive (R304 to R312). -/
structure Drive where
  state : DState
  pos : Nat
  cnt : Int
  provenOpen : Bool
  provenClose : Bool
  closing : Bool
  byProof : Bool
  observed : Option Bool
  edges : Nat
  rev : Nat
  idleEdges : Nat
  startLeft : Bool
  opStart : Nat
  fellAt : Option Nat
  tracks : BitVec 2
  reqOpen : Bool
  reqClose : Bool
  faulted : Bool
  deriving DecidableEq, Repr

/-- The AON latch of the safety state (R315). -/
structure SfiLatch where
  state : SfiState
  code1 : Nat
  drive1 : Nat
  code2 : Nat
  drive2 : Nat
  left : Nat
  deriving DecidableEq, Repr

/-- The safety island (R304 to R318). -/
structure Sfi where
  state : SfiState
  tested : Bool
  parOk : Bool
  clkUnsup : Bool
  drive : List Drive
  cmd : BitVec 8
  rb : BitVec 8
  si : BitVec 16
  pulse : BitVec 8
  fault1 : Nat × Nat
  fault2 : Nat × Nat
  present : List (Nat × Nat)
  degLeft : Nat
  deriving DecidableEq, Repr

/-- Member states (R323), coded as MSTATE. -/
inductive MState where
  | off | starting | tailstock | requesting | taking | headstock | witness
  deriving DecidableEq, Repr

/-- One class of the Elade link (R325, R327): next sequence to send, next expected, unacknowledged and waiting
frames, retransmissions of the oldest. -/
structure LinkCls where
  nextTx : Nat
  nextRx : Nat
  unacked : List LinkFrame
  waiting : List LinkFrame
  retries : Nat
  deriving DecidableEq, Repr

/-- The Elade link (R324 to R329). -/
structure Elade where
  up : Bool
  lanes : BitVec 2
  ctrl : LinkCls
  mirror : LinkCls
  mig : LinkCls
  nonce : List Byte
  peerNonce : List Byte
  ackSent : Bool
  ackOk : Bool
  hbAlive : Bool
  deriving DecidableEq, Repr

/-- The partner as its HB frames and HELLO show it (R326, R328). -/
structure Peer where
  health : BitVec 32
  flags : BitVec 16
  mstate : Nat
  epoch : Nat
  seen : Bool
  deriving DecidableEq, Repr

/-- The arbiter (R334): `src` is the address that each side's last frame came from. -/
structure Arb where
  holder : Option Nat
  prev : Option Nat
  epoch : Nat
  grantedAt : Int
  last : Nat × Nat
  seen : Option (BitVec 16 × Nat) × Option (BitVec 16 × Nat)
  probing : Option (ArbFrame × Nat × Bool)
  aliveAt : Option Nat × Option Nat
  src : Mac × Mac
  deriving DecidableEq, Repr

/-- The redundant pair (R319 to R342). `tokEpoch` is the epoch the token is held under; `failure` says that the failure
in force has been declared or answered; times are in ns. -/
structure Rdn where
  mstate : MState
  epoch : Nat
  healthy : Bool
  cmdOk : Bool
  notWithdrawn : Bool
  withdrawn : Bool
  tokOut : Bool
  tokIn : Bool
  hbOut : Bool
  hbIn : Bool
  hbSup : Bool
  hbPathFault : Bool
  window : Bool
  windowFrom : Nat
  takeCode : Nat
  takeCtr : BitVec 64
  arbCtr : BitVec 64
  arbSeen : Bool
  mirrorOk : Bool
  gapFrom : Option Nat
  failure : Bool
  tokEpoch : Nat
  holdFrom : Option Nat
  elade : Elade
  peer : Peer
  arb : Arb
  deriving DecidableEq, Repr

/-- One copy of a key slot (R343 to R345): key as two shares, metadata, tag. -/
structure Key where
  share : List Byte
  mask : List Byte
  id : BitVec 32
  usage : BitVec 16
  version : BitVec 32
  tag : List Byte
  deriving DecidableEq, Repr

/-- A key slot (R344): its two copies, the active one, whether its tag failed. -/
structure Slot where
  a : Option Key
  b : Option Key
  active : Bool
  valid : Bool
  bad : Bool
  deriving DecidableEq, Repr

/-- A commit of Chuck in progress (R350): its record's kind, slot, copy, operation, tag, MIN_SVN and counter; the phase (0 the copy is
written and read back, 1 the record without its CRC, 2 with it); the command's result once it has one. -/
structure Upd where
  kind : Nat
  slot : Nat
  op : Nat
  copy : Bool
  erase : Bool
  tag : List Byte
  minSvn : BitVec 32
  ctr : BitVec 64
  phase : Nat
  result : Option Nat
  deriving DecidableEq, Repr

/-- Chuck (R343 to R360). Slots are keyed by kind and number; `upd` is the commit in progress. -/
structure Chk where
  slots : List ((Nat × Nat) × Slot)
  commitSeq : Nat
  keyCtr : BitVec 64
  minSvn : BitVec 32
  debugPend : Option Bool
  test : List (Nat × Key)
  meas : List (List Byte)
  extData : List Word
  fwSlot : Nat
  fwSvn : BitVec 32
  fwSerial : BitVec 32
  unconfirmed : Bool
  recovery : Bool
  recoveryNext : Bool
  booted : Bool
  rbg : Nat
  upd : Option Upd
  deriving DecidableEq, Repr

/-- The event recorder (R361 to R370). `lost` and `aonDrop` are in AON. -/
structure Evr where
  count : Nat
  gen : Nat
  buf : List (List Byte)
  full : Bool
  high : Bool
  dropped : Nat
  lost : Nat
  aonDrop : Nat
  deriving DecidableEq, Repr

/-- A clock source (R372, R375, R376). -/
structure ClkSrc where
  stable : Bool
  failed : Bool
  byFreq : Bool
  dev : Nat
  good : Nat
  deriving DecidableEq, Repr

/-- Clocks and the Tool rest (R371 to R383). -/
structure Clk where
  refclk : ClkSrc
  serdes : ClkSrc
  rc : ClkSrc
  aonOnRef : Bool
  sysOnRc : Bool
  sysPend : Bool
  aonPend : Bool
  lock : BitVec 13
  cause : BitVec 8
  seenCause : BitVec 8
  forcing : Bool
  forceFrom : Nat
  everReleased : Bool
  fallback : Bool
  deriving DecidableEq, Repr

/-- Resets and power states (R384 to R404). -/
structure Aon where
  kind : Nat
  stuck : Bool
  stuckDue : Bool
  pinArmed : Bool
  por : Bool
  pinLow : Bool
  starting : Option Nat
  pwr : Nat
  sec : Nat
  secNs : Nat
  secIn : Nat
  pf : Bool
  pfWithdrew : Bool
  rstDue : Bool
  boSafe : BitVec 16
  inReset : BitVec 13
  dramUp : Bool
  perst : Bool
  blankLeft : Bool
  rstLoss : BitVec 13
  clkOff : BitVec 13
  safety : Option SfiLatch
  deriving DecidableEq, Repr

/-- What the block has sent out: responses, frames, bus errors, read data, messages of interrupt. The model's own
record, newest last. -/
inductive Out where
  | response (ctx : CmdCtx) (msg : List Byte)
  | discarded (port : Port)
  | frame (port : Nat) (f : Frame)
  | stomped (port : Nat) (f : Frame) (bytes : Nat)
  | link (f : LinkFrame)
  | hb (h : HbFrame)
  | toInternal (ip : Nat) (f : Frame)
  | busError (q : Requester) (addr : Nat)
  | accessFault (s : Nat) (addr : Nat)
  | readData (q : Requester) (addr : Nat) (v : BitVec 64)
  | msi (s : Nat) (addr : Nat) (data : Word)
  | iommuMsi (vector : Nat) (addr : Nat) (data : Word)
  | grain (l : Label)
  deriving DecidableEq, Repr

/-- The state of the block. -/
structure State where
  fuse : Fuses
  nv : Nv
  mem : List Host.Cell
  wr : List Host.Cell
  regs : List (Nat × Word)
  latch : List (Nat × Word)
  drops : List (Nat × Nat)
  cmd : Cmd
  tim : Tim
  ports : Ports
  swc : Swc
  svs : Svs
  acq : Acq
  phx : Phx
  nrg : Nrg
  twv : Twv
  gge : Gge
  dec : Dec
  slc : Slc
  spn : Spn
  sfi : Sfi
  rdn : Rdn
  chk : Chk
  evr : Evr
  clk : Clk
  aon : Aon
  out : List Out
  pending : List Instr
  deriving DecidableEq, Repr

/-- The reasons for which the block stops. No command of the spec stops it: an access that the spec refuses ends in an
error response that the block goes on after, so no meaning raises a fault (safe). -/
inductive Fault where
  /-- Raised by no command; the type is closed and has one name. Safe. -/
  | none
  deriving DecidableEq, Repr

/-- The reasons for which a command is refused by the model. -/
inductive Refusal where
  /-- A command without a meaning, by its mnemonic; raised by an arm of `exec` only. Safe. -/
  | notModelled (mnemonic : String)
  deriving DecidableEq, Repr

/-- A drive of the safety island after reset (R318). -/
def Drive.reset : Drive :=
  { state := .disabled, pos := 0, cnt := 0, provenOpen := false, provenClose := false, closing := false,
    byProof := false, observed := none, edges := 0, rev := 0, idleEdges := 0, startLeft := false, opStart := 0,
    fellAt := none, tracks := 0, reqOpen := false, reqClose := false, faulted := false }

/-- The command processor after a reset of the Security island (R36, R45). -/
def Cmd.reset : Cmd :=
  { queue := [], rr := 0, exec := none, bg := [], hostHeld := [], sliceHeld := [], sender := 0 }

/-- The Time island after its reset (R69); the timebase stands at 0 at power-on (assumption 6). -/
def Tim.reset : Tim :=
  { time := 0, freq := 0, integ := 0, servo := .invalid, quality := 3, persist := false, epoch := 0, run := [],
    lockRun := 0, setDone := false, lastGrain := none, gaps := [], pause := none, steps := [], stepSum := 0, grains := 0,
    stepFlag := false, rephase := false,
    ppsHigh := false, ppsMark := [], ppsFloor := 0, ref10 := false, ppsUnread := false, tsq := [], peer := [], pdelay := [],
    sync := none, tc := [], fwd := [], bound := [], foreign := [], left := 0, parent := none, slavePort := none, masters := 0,
    seqSync := 0, seqAnn := 0, seqPd := 0, utcChanged := none, quality0Left := none }

/-- The external ports after reset (R82). -/
def Ports.reset : Ports := { link := 0, flushing := 0, anDone := 0, softRst := 0, tx := [] }

/-- The switch after reset (R116). -/
def Swc.reset : Swc :=
  { frames := [], copies := [], nextId := 0, t0 := 0, used := [], buf := [], fdb := [], cls := [], grp := [], dd := [],
    pairSeq := [], fdbBusy := false, fdbResult := 0, clsBusy := false, grpBusy := false, ipLink := 0 }

/-- The subscriber after reset (R140). -/
def Svs.reset : Svs :=
  { tab := [], sv := [], goose := [], fifo := [], opened := [], ring := [], gring := [], lastRel := none }

/-- Acquisition after reset (R164). -/
def Acq.reset : Acq := { ch := [], cal := none, calOut := false, calResult := [] }

/-- The phasor engine after reset (R187). -/
def Phx.reset : Phx :=
  { hist := [], todo := 0, fnom := 0, mN := 960, mFfr := 500, regen := false, since := 0, sinceM := 0, chSince := [],
    grp := [], grpStat := [], grpBusy := false, hwin := [], hdone := [], hfrom := 0, hnext := [], stepAt := 0, hres := [], pub := [], ring := [], hring := [], setK := 0 }

/-- The energy and quality unit after reset (R204). -/
def Nrg.reset : Nrg :=
  { meters := [], snapReq := none, clearReq := none, saveReq := none, snapSeq := 0, lastLabel := none, saveSeq := 0,
    saveSlot := none, storeLost := false, unsaved := false, qring := ⟨0, false⟩ }

/-- The travelling-wave unit after reset (R219). -/
def Twv.reset : Twv := { ch := [], line := [], ring := [], rring := [] }

/-- Gouge after reset (R241). -/
def Gge.reset : Gge :=
  { state := .disarmed, full := false, unit := [], histFrom := 0, twHistFrom := 0, twFresh := true, twNewest := 0, frames := [],
    filled := 0, act := [], opened := none, arrived := [], suppSince := 0, recs := [], nextNum := 1, reading := none }

/-- The decision unit after reset (R242, R259). -/
def Dec.reset : Dec :=
  { word := List.replicate 32 0, subst := List.replicate 32 0, term := 0, hold := 0, bi := 0, biRaw := 0, biChg := 0,
    biStamp := [], gated := 0, denyRec := [], pub := [] }

/-- The slice manager after reset (R284). -/
def Slc.reset : Slc := { s := [], faultQ := [], msiPend := [], clear := [] }

/-- Spindle after reset (R303). -/
def Spn.reset : Spn :=
  { state := .noImage, data := [], cur := none, inCycle := false, firstStart := true, firstSwitch := false,
    cycleStart := none, gapFrom := 0, rtRelease := 0, lastSwitch := none, biSeen := 0, inbox := [], staged := [], errq := [],
    force := [], committed := [], retHalf := 0, retSeq := 0, retMismatch := false, retTorn := false,
    newHalf := false, flushDue := false, pubNew := [], decRec := [], mirror := [] }

/-- The safety island after power-on (R315). -/
def Sfi.reset : Sfi :=
  { state := .selftest, tested := false, parOk := false, clkUnsup := false, drive := List.replicate 4 Drive.reset,
    cmd := 0, rb := 0, si := 0, pulse := 0, fault1 := (0, 0), fault2 := (0, 0), present := [], degLeft := 0 }

/-- One class of the Elade link with nothing sent (R325). -/
def LinkCls.reset : LinkCls := { nextTx := 0, nextRx := 0, unacked := [], waiting := [], retries := 0 }

/-- The Elade link down (R328). -/
def Elade.reset : Elade :=
  { up := false, lanes := 0, ctrl := LinkCls.reset, mirror := LinkCls.reset, mig := LinkCls.reset, nonce := [],
    peerNonce := [], ackSent := false, ackOk := false, hbAlive := false }

/-- The partner not seen (R326). -/
def Peer.reset : Peer := { health := 0, flags := 0, mstate := 0, epoch := 0, seen := false }

/-- The arbiter at its start (R334). -/
def Arb.reset : Arb :=
  { holder := none, prev := none, epoch := 0, grantedAt := 0, last := (0, 0), seen := (none, none), probing := none,
    aliveAt := (none, none), src := (0, 0) }

/-- The redundant pair after reset (R342). -/
def Rdn.reset : Rdn :=
  { mstate := .off, epoch := 0, healthy := false, cmdOk := false, notWithdrawn := true, withdrawn := false,
    tokOut := false, tokIn := false, hbOut := false, hbIn := false, hbSup := false, hbPathFault := false,
    window := false, windowFrom := 0, takeCode := 0, takeCtr := 0, arbCtr := 0, arbSeen := false,
    mirrorOk := false, gapFrom := none, failure := false, tokEpoch := 0, holdFrom := none,
    elade := Elade.reset, peer := Peer.reset, arb := Arb.reset }

/-- Chuck before the first secure boot (R360). -/
def Chk.reset : Chk :=
  { slots := [], commitSeq := 0, keyCtr := 0, minSvn := 0, debugPend := none, test := [],
    meas := List.replicate 8 (List.replicate 32 0), extData := List.replicate 8 0, fwSlot := 0, fwSvn := 0,
    fwSerial := 0, unconfirmed := false, recovery := false, recoveryNext := false, booted := false, rbg := 0,
    upd := none }

/-- The event recorder at power-on (R370). -/
def Evr.reset : Evr :=
  { count := 0, gen := 0, buf := [], full := false, high := false, dropped := 0, lost := 0, aonDrop := 0 }

/-- A clock source that is not yet stable (R372). -/
def ClkSrc.reset : ClkSrc := { stable := false, failed := false, byFreq := false, dev := 0, good := 0 }

/-- Clocks at power-on: AON on the RC oscillator, the Tool rest forcing with cause 0 (R373, R379, R383). -/
def Clk.reset : Clk :=
  { refclk := ClkSrc.reset, serdes := ClkSrc.reset, rc := ClkSrc.reset, aonOnRef := false, sysOnRc := false,
    sysPend := false, aonPend := false, lock := 0, cause := 1, seenCause := 1, forcing := true, forceFrom := 0,
    everReleased := false, fallback := false }

/-- The AON island at power-on: every other island in reset (R384, R390). -/
def Aon.reset : Aon :=
  { kind := 1, stuck := false, stuckDue := false, pinArmed := true, por := true, pinLow := false, starting := none, pwr := 0, sec := 0, secNs := 0, secIn := 0,
    pf := false, pfWithdrew := false, rstDue := false, boSafe := 0, inReset := 0x1FFE, dramUp := false,
    perst := false, blankLeft := false, rstLoss := 0, clkOff := 0, safety := none }

/-- The machine at power-on reset (R390): every register at the reset value of its table, nothing stored, nothing
queued. The fused identity, the empty store and the values the spec does not give are assumptions 1 to 6. -/
def State.reset : State :=
  { fuse := { variant := .x, lot := 0, wafer := 0, dieX := 0, dieY := 0, sealed := false, debug := false }
    nv := { startCount := 0, restartCount := 0, jnlNewest := 0, jnlCount := 0, cfg := none, spn := none,
            spnPend := none, mgmt := [], mgmtSlot := 0 }
    mem := [], wr := [], regs := [], latch := [], drops := []
    cmd := Cmd.reset, tim := Tim.reset, ports := Ports.reset, swc := Swc.reset, svs := Svs.reset, acq := Acq.reset
    phx := Phx.reset, nrg := Nrg.reset, twv := Twv.reset, gge := Gge.reset, dec := Dec.reset, slc := Slc.reset
    spn := Spn.reset, sfi := Sfi.reset, rdn := Rdn.reset, chk := Chk.reset, evr := Evr.reset, clk := Clk.reset
    aon := Aon.reset, out := [], pending := [] }

end Sys2Proof.Machine
end

