-- ==== Sys2Proof/Machine/Operands.lean ====
section
/-!
DEFINITION. The operand forms of a register access: blocks and their addresses (R23, R28), access kinds, field
ranges, fields and words, and the clamp of one field value (R32). A field's range that depends on the part or the
state is `dyn` and is given its value in `Machine/Flags.lean`.
-/

namespace Sys2Proof.Machine

/-- The register blocks of R28. -/
inductive Blk where
  | aon | clk | tim | cmd | prt | swc | svs | acq | phx | nrg | twv | gge | dec | apc | slc | spn | sfi | rdn | chk
  | evr | mem | sw
  deriving DecidableEq, Repr

/-- Access of a field. -/
inductive Acc where
  | rw | rwl | ro | rc | w1c | wo
  deriving DecidableEq, Repr

/-- Range of a field (R32): unsigned with step, signed, enumerated with fall-back, every value, or dependent. -/
inductive Rng where
  | all
  | u (lo hi step : Nat)
  | s (lo hi : Int)
  | en (legal : List Nat) (fallback : Nat)
  | dyn
  deriving DecidableEq, Repr

/-- A field of a register, or of each register of an array of one or two dimensions. -/
structure Fld where
  off : Nat
  n : Nat
  st : Nat
  n2 : Nat
  st2 : Nat
  lsb : Nat
  w : Nat
  acc : Acc
  rst : Nat
  rng : Rng
  deriving DecidableEq, Repr

/-- A field of one register. -/
def f1 (off lsb w : Nat) (acc : Acc) (rst : Nat) (rng : Rng) : Fld := ⟨off, 1, 4, 1, 4, lsb, w, acc, rst, rng⟩

/-- A field of `n` registers `st` bytes apart. -/
def fa (off n st lsb w : Nat) (acc : Acc) (rst : Nat) (rng : Rng) : Fld := ⟨off, n, st, 1, 4, lsb, w, acc, rst, rng⟩

/-- A field of `n` groups of `n2` registers. -/
def f2 (off n st n2 st2 lsb w : Nat) (acc : Acc) (rst : Nat) (rng : Rng) : Fld :=
  ⟨off, n, st, n2, st2, lsb, w, acc, rst, rng⟩

/-- Does the field stand in the register at offset `o`? -/
def Fld.hits (f : Fld) (o : Nat) : Bool :=
  let d := o - f.off
  decide (f.off ≤ o) && decide (d / f.st < f.n) && decide (d % f.st % f.st2 = 0) && decide (d % f.st / f.st2 < f.n2)

/-- The index of offset `o` in the array of the field. -/
def Fld.idx (f : Fld) (o : Nat) : Nat := (o - f.off) / f.st

def Fld.writable (f : Fld) : Bool :=
  match f.acc with
  | .rw | .rwl | .w1c | .wo => true
  | .ro | .rc => false

/-- Bits `lsb` to `lsb + w - 1` of a word. -/
def getBits (v lsb w : Nat) : Nat := v / 2 ^ lsb % 2 ^ w

/-- The word with its bits `lsb` to `lsb + w - 1` replaced. -/
def setBits (v lsb w a : Nat) : Nat := v - getBits v lsb w * 2 ^ lsb + a % 2 ^ w * 2 ^ lsb

def bit (v n : Nat) : Bool := v.testBit n

def ofBit (b : Bool) (n : Nat) : Nat := if b then 2 ^ n else 0

/-- Two's complement reading of `w` bits. -/
def toSigned (w v : Nat) : Int := if v < 2 ^ (w - 1) then (v : Int) else (v : Int) - (2 ^ w : Nat)

/-- Two's complement code in `w` bits. -/
def ofSigned (w : Nat) (v : Int) : Nat := (v % ((2 ^ w : Nat) : Int)).toNat

/-- The value that R32 applies for a written field value `v` of width `w`. -/
def clampVal (w : Nat) (g : Rng) (v : Nat) : Nat :=
  match g with
  | .all | .dyn => v
  | .u lo hi step =>
    let a := min (max v lo) hi
    let a := lo + ((a - lo + (step - 1) / 2) / step) * step
    if a > hi then a - step else a
  | .s lo hi => ofSigned w (min (max (toSigned w v) lo) hi)
  | .en legal fb => if v ∈ legal then v else fb

/-- The reason code of R43 for a clamped field. -/
def clampReason (w : Nat) (g : Rng) (v : Nat) : Nat :=
  match g with
  | .all | .dyn => 0
  | .u lo hi _ => if v < lo then 1 else if v > hi then 2 else 3
  | .s lo _ => if toSigned w v < lo then 1 else 2
  | .en .. => 4

/-- PG_ID block code (R28). -/
def Blk.code : Blk → Nat
  | .aon => 1 | .clk => 2 | .tim => 3 | .cmd => 4 | .prt => 5 | .swc => 6 | .svs => 7 | .acq => 8 | .phx => 9
  | .nrg => 10 | .twv => 11 | .gge => 12 | .dec => 13 | .apc => 14 | .slc => 15 | .spn => 16 | .sfi => 17
  | .rdn => 18 | .chk => 19 | .evr => 20 | .mem => 21 | .sw => 22

def Blk.ofCode (n : Nat) : Option Blk :=
  [Blk.aon, .clk, .tim, .cmd, .prt, .swc, .svs, .acq, .phx, .nrg, .twv, .gge, .dec, .apc, .slc, .spn, .sfi, .rdn, .chk,
    .evr, .mem, .sw][n - 1]?.filter (fun b => b.code = n)

/-- The number of pages of a block (R28). -/
def Blk.insts : Blk → Nat
  | .prt | .sw => 64
  | _ => 1

/-- Where the page of a block begins (R23, R28). -/
def Blk.base (b : Blk) (inst : Nat) : Nat :=
  match b with
  | .sw => 0x48000000 + inst * 0x10000
  | .prt => 0x40400000 + inst * 0x1000
  | b => 0x40000000 + (b.code - 1) * 0x100000

/-- How long the page of a block is. -/
def Blk.size : Blk → Nat
  | .sw => 0x10000
  | .prt => 0x1000
  | _ => 0x100000

/-- The island of a block (R11). -/
def Blk.island : Blk → Nat → Island
  | .aon, _ | .clk, _ => .aon
  | .tim, _ => .time
  | .prt, i => if i < 32 then .portA else .portB
  | .swc, _ => .switch
  | .svs, _ => .stream
  | .acq, _ | .twv, _ | .gge, _ => .acq
  | .phx, _ | .nrg, _ => .phasor
  | .apc, _ | .slc, _ | .sw, _ => .app
  | .dec, _ | .spn, _ | .rdn, _ => .rt
  | .sfi, _ => .safety
  | .chk, _ | .cmd, _ => .security
  | .evr, _ | .mem, _ => .memory

/-- The faceplate of every page (R430); PG_ID and PG_STAT are computed at the read. Bits of PG_IRQ_EN
without a source in a block are stored and read back (DEDUCED, assumption 117). -/
def tabFace : List Fld := [
  f1 0 0 16 .ro 0 .all,  -- PG_ID.INST
  f1 0 16 16 .ro 0 .all,  -- PG_ID.BLOCK
  f1 4 0 32 .ro 0x01000000 .all,  -- PG_VER, assumption 4
  f1 8 0 1 .rw 0 .dyn,  -- PG_CTL.EN
  f1 8 1 1 .rw 0 .all,  -- PG_CTL.SOFT_RST
  f1 8 2 1 .rw 1 .all,  -- PG_CTL.CLAMP_REP_EN
  f1 0xc 0 32 .ro 0 .all,  -- PG_STAT
  f1 0x10 0 32 .ro 0 .all,  -- PG_IRQ_RAW
  f1 0x14 0 32 .rw 0 .all,  -- PG_IRQ_EN
  f1 0x18 0 32 .w1c 0 .all,  -- PG_IRQ_PEND
  f1 0x1c 0 32 .rc 0 .all,  -- PG_CLAMP_CNT
  f1 0x20 0 20 .ro 0 .all,  -- PG_CLAMP_ADDR.OFFSET
  f1 0x20 24 5 .ro 0 .all,  -- PG_CLAMP_ADDR.LSB
  f1 0x24 0 32 .ro 0 .all,  -- PG_CLAMP_VAL
  f1 0x28 0 1 .rwl 0 .all,  -- PG_LOCK.LOCK
  f1 0x2c 0 4 .ro 0 .all,  -- PG_OWNER.CLASS
  f1 0x2c 4 8 .ro 0 .all,  -- PG_OWNER.INDEX
  fa 0x30 4 4 0 32 .ro 0 .all]  -- reserved, read as 0

end Sys2Proof.Machine
end

