-- ==== Sys2Proof/Machine/Num.lean ====
section
/-!
DEFINITION. Exact arithmetic the chapters share: rounding, saturation, and sine, cosine, square root, arc tangent and
the Bessel function I0 in integers scaled by 2^96, to well beyond the bits the spec keeps (assumption 14).
-/

namespace Sys2Proof.Machine

/-- Nearest integer to n / d, ties away from zero. -/
def roundAway (n : Int) (d : Nat) : Int :=
  if n < 0 then -((2 * (-n) + d) / (2 * d : Nat)) else (2 * n + d) / (2 * d : Nat)

/-- Nearest integer to n / d, ties towards plus infinity. -/
def roundTiesUp (n : Int) (d : Nat) : Int := (2 * n + d) / (2 * d : Nat)

/-- n / d rounded to nearest, ties to even. -/
def roundEven (n : Int) (d : Nat) : Int :=
  let q := n / (d : Int)
  let r := n - q * d
  if 2 * r < d then q else if 2 * r > d then q + 1 else if q % 2 = 0 then q else q + 1

def clampInt (v lo hi : Int) : Int := max lo (min v hi)

/-- Saturation to `w` signed bits. -/
def satS (w : Nat) (v : Int) : Int := clampInt v (-(2 ^ (w - 1) : Nat)) ((2 ^ (w - 1) : Nat) - 1)

/-- Wrapping to `w` signed bits. -/
def wrapS (w : Nat) (v : Int) : Int := toSigned w (ofSigned w v)

/-- 2^96, the scale of the fixed-point functions below. -/
def fx : Nat := 2 ^ 96

/-- π scaled by 2^96. -/
def piFx : Nat := 248902613312231085230521944622

/-- Product of two scaled numbers. -/
def mulFx (a b : Int) : Int := a * b / (fx : Int)

/-- The series a − a x² / (k (k+1)) + …, term by term. -/
def sinSeries : (fuel k : Nat) → (term x2 : Int) → Int
  | 0, _, _, _ => 0
  | n + 1, k, t, x2 => t + sinSeries n (k + 2) (-(mulFx t x2) / ((k * (k + 1) : Nat) : Int)) x2

/-- sin (π n / d), scaled, for any n. -/
def sinPi (n : Int) (d : Nat) : Int :=
  let m := n % (2 * d : Nat)
  let (sg, m) : Int × Int := if m < d then (1, m) else (-1, m - d)
  let m := if 2 * m > d then d - m else m
  if 4 * m ≤ d then
    let x := m * piFx / (d : Int)
    sg * sinSeries 20 2 x (mulFx x x)
  else
    -- cosine of the complement
    let c := (d : Int) - 2 * m
    let x := c * piFx / ((2 * d : Nat) : Int)
    sg * sinSeries 20 1 fx (mulFx x x)

def cosPi (n : Int) (d : Nat) : Int := sinPi (2 * n + d) (2 * d)

/-- The series of I0: term (x/2)^2k / (k!)^2. -/
def i0Series : (fuel k : Nat) → (term q : Int) → Int
  | 0, _, _, _ => 0
  | n + 1, k, t, q => t + i0Series n (k + 1) (mulFx t q / ((k * k : Nat) : Int)) q

/-- I0 of a number of which the square, scaled, is given. -/
def i0OfSq (x2 : Int) : Int := i0Series 60 1 fx (x2 / 4)

/-- Square root of a scaled number. -/
def sqrtFx (x : Int) : Int := (Nat.sqrt (x.toNat * fx) : Int)

/-- The Kaiser window of β = b/1000 over the half span h (in the units of t's denominator): weight at t = n/d, scaled by
2^96 and not normalised by I0(β). -/
def kaiser (b : Nat) (n : Int) (d h : Nat) : Int :=
  let r := fx - (n * n * fx) / ((d * d * h * h : Nat) : Int)
  if r < 0 then 0
  else i0OfSq (mulFx ((b * b * fx / 1000000 : Nat) : Int) r)

/-- sin (π t) / (π t), scaled, at t = n/d. -/
def sincFx (n : Int) (d : Nat) : Int :=
  if n = 0 then fx else sinPi n d * fx / (n * piFx / (d : Int))

/-- The series of arc tangent: x − x³/3 + … -/
def atanSeries : (fuel k : Nat) → (pow x2 : Int) → Int
  | 0, _, _, _ => 0
  | n + 1, k, p, x2 => p / (k : Int) + atanSeries n (k + 2) (-(mulFx p x2)) x2

/-- Arc tangent of a scaled number of magnitude at most 1: argument halved twice, then the series. -/
def atanFx (x : Int) : Int :=
  let half (x : Int) : Int := x * fx / (fx + sqrtFx (fx + mulFx x x))
  let y := half (half (half x))
  8 * atanSeries 40 1 y (mulFx y y)

/-- Angle of (x, y), scaled radians in (−π, π]; 0 at the origin. -/
def atan2Fx (y x : Int) : Int :=
  if x = 0 ∧ y = 0 then 0
  else
    let ax := if x < 0 then -x else x
    let ay := if y < 0 then -y else y
    let a := if ay ≤ ax then atanFx (ay * fx / ax) else (piFx : Int) / 2 - atanFx (ax * fx / ay)
    let a := if x < 0 then (piFx : Int) - a else a
    if y < 0 then -a else a

end Sys2Proof.Machine
end

