-- ==== Sys2Proof/Config.lean ====
section
/-!
DEFINITION. What an implementation fixes and the spec does not print: free values (constants without a body, so that
nothing can be proved of their value) for the standard cryptographic functions that are not computed here, for
secrets, for the random generator and for compiled user code. Each is named in the assumption
log. Functions of the spec's own making and CRC-32, SHA-256, HMAC, SHAKE256, KMAC256, GMAC
and AES key unwrap are computed, not left open.
-/

namespace Sys2Proof.Config

/-- Does an ML-DSA-65 signature (FIPS 204) over a message verify under a public key? (assumption 13) -/
opaque mldsaVerify : (key msg sig : List Byte) → Bool

/-- The ML-DSA-65 signature that a private key makes over a message (R357; assumption 13). -/
opaque mldsaSign : (key msg : List Byte) → List Byte

/-- The fused scramble secret and the fused tag secret of Chuck (R344, R345; assumption 13). -/
opaque scrambleSecret : List Byte
opaque tagSecret : List Byte

/-- The permutation of the cells of a region, keyed by the scramble secret: region, cell (R344; assumption 13). -/
opaque cellPerm : Nat → Nat → Nat

/-- Draw `n` of Chuck's random generator, as a number of which the bytes needed are taken (R344; assumption 25). -/
opaque rbg : Nat → Nat

/-- The keys written at manufacture: device key pair, ROOT0, test root and test key of debug (R343, R358). -/
opaque devicePrivate : List Byte
opaque devicePublic : List Byte
opaque root0 : List Byte
opaque testRoot : List Byte
opaque testPrivate : List Byte
opaque testPublic : List Byte

/-- The firmware image in slot 0 of a module as delivered (R10, R352; assumption 2). -/
opaque deliveredFw : List Byte

/-- The boot ROM's digest extended into MEAS0 (R352). -/
opaque romDigest : List Byte

/-- The header of the configuration store as it reads: start count, restart count, and address and length of the committed
configuration image and Spindle image, in a layout that R42 does not print; byte (assumption 101). -/
opaque storeHeader : (start restart : BitVec 32) → (cfg spn : Option (Nat × Nat)) → Nat → BitVec 8

/-- The LAG that a calibration without a crossing, or with a mean beyond its 16 bits, leaves (R162 gives none): grain
count, channel (assumption 35). -/
opaque freeLag : Nat → Nat → BitVec 16

/-- What the spec states no value for in the frames that the synchrophasor publisher and the reports send: source address,
time to live and type of service, identification and the flag against fragments, and the transmit queue of the publisher
(assumption 38). The argument is the
sender. -/
opaque freeSrcMac : Nat → BitVec 48
opaque freeTtl : Nat → BitVec 8
opaque freeTos : Nat → BitVec 8
opaque freeQueue : Nat → Fin 8
opaque freeIdent : Nat → BitVec 16
opaque freeDf : Nat → Bool

/-- The label of a reference grain that was never generated (R167, R180; assumption 37). -/
opaque freeLabel : Nat → List (BitVec 8)

/-- A synchrophasor field whose scale is not finite or whose unit is 0 (R185; assumption 39): kind, scale, value. -/
opaque freePmu : Nat → Nat → Int → Nat

/-- A quality value that has no number: a mean over no value, a distortion against a fundamental of 0 (R200; assumption
40): what it is, the meter. -/
opaque freeQual : Nat → Nat → Nat

/-- The tag of a wavefront report whose TX_KEY slot holds no key with usage (R216 says nothing of it; assumption 41). -/
opaque freeTag : List (BitVec 8)

/-- Spindle's compiled code (RV32IMC, the user's): image bytes, entry, data memory before; data memory after a run of
the program (R286, R291; assumption 22). -/
opaque spindleRun : (image : List Byte) → (entry : Nat) → (data : List Byte) → List Byte

/-- The data memory that a cycle aborted by the watchdog leaves (R292 says nothing of it; assumption 42). -/
opaque spindleAborted : (image : List Byte) → (data : List Byte) → List Byte

/-- The set of the duplicate-discard table that a key selects (R89 gives the number of sets and no function;
assumption 9). -/
opaque ddSet : (pair src seq : Nat) → Nat

end Sys2Proof.Config
end

