-- ==== Sys2Proof/Machine/Tables.lean ====
section
/-!
DEFINITION. The register tables of the spec's chapters, one row for each field: offset (with the count and stride of
an array), lowest bit, width, access, reset value and range, in the spec's order of offsets; the comment names the
register and field. `.dyn` stands for a range that depends on the part, the state or other fields (`Machine/Flags`).
Resets that the spec gives as taken from fuses, MRAM or latches are computed at the read and stand here as 0.
-/

namespace Sys2Proof.Machine

/-- The owner codes of a decision word (R242). -/
def owners : List Nat := List.range 65 ++ [127]


/-- Registers of AON. -/
def tabAon : List Fld := [
  f1 0x40 0 1 .rw 1 .all,  -- AON_CFG.PF_WITHDRAW
  f1 0x44 0 14 .rw 0x3e8 (.u 0x64 0x2710 1),  -- AON_WDT.WDT_TIME
  f1 0x48 0 22 .rw 0 (.u 0 0x278d00 1),  -- AON_WAKE.WAKE_SEC
  f1 0x80 0 32 .ro 0 .all,  -- AON_VARIANT.VARIANT
  f1 0x84 0 32 .ro 0 .all,  -- AON_LOT.LOT
  f1 0x88 0 24 .ro 0 .all,  -- AON_DIE.DIE
  f1 0x8c 0 4 .ro 1 .all,  -- AON_RST.KIND
  f1 0x8c 8 1 .ro 0 .all,  -- AON_RST.STUCK
  f1 0x8c 9 1 .ro 1 .all,  -- AON_RST.PIN_ARMED
  f1 0x90 0 32 .ro 0 .all,  -- AON_START_CNT.CNT
  f1 0x94 0 2 .ro 0 .all,  -- AON_PWR.STATE
  f1 0x98 0 1 .ro 0 .all,  -- AON_PF.PF_WARN
  f1 0xa0 0 32 .ro 0 .all,  -- AON_SEC_LO.SEC
  f1 0xa4 0 32 .ro 0 .all,  -- AON_SEC_HI.SEC
  f1 0xa8 0 32 .wo 0 .all,  -- AON_WDT_KICK.KICK
  f1 0xb0 0 32 .rc 0 .all,  -- AON_PF_CNT.CNT
  f1 0xb4 0 32 .rc 0 .all,  -- AON_WDT_CNT.CNT
  f1 0xb8 0 32 .rc 0 .all]  -- AON_STUCK_CNT.CNT

/-- Registers of CLK, part 0. -/
def tabClk0 : List Fld := [
  f1 0x40 0 1 .rwl 0 .all,  -- CLK_CFG.TR_ON_FALLBACK
  f1 0x40 1 1 .rw 1 .all,  -- CLK_CFG.AUTO_RETURN
  f1 0x40 8 4 .rw 5 (.u 4 0xa 1),  -- CLK_CFG.FTOL_REF
  f1 0x40 16 14 .rw 0x3e8 (.u 0xc8 0x2710 1),  -- CLK_CFG.FTOL_SRC
  f1 0x44 0 10 .rwl 0xa (.u 1 0x3e8 1),  -- CLK_TR_HOLD.TR_HOLD
  f1 0x48 0 1 .rw 1 (.u 1 1 1),  -- CLK_EN_RUN
  f1 0x48 1 1 .rw 1 (.u 1 1 1),  -- CLK_EN_RUN
  f1 0x48 2 1 .rw 1 .all,  -- CLK_EN_RUN
  f1 0x48 3 1 .rw 1 .all,  -- CLK_EN_RUN
  f1 0x48 4 1 .rw 1 .all,  -- CLK_EN_RUN
  f1 0x48 5 1 .rw 1 .all,  -- CLK_EN_RUN
  f1 0x48 6 1 .rw 1 .all,  -- CLK_EN_RUN
  f1 0x48 7 1 .rw 1 .all,  -- CLK_EN_RUN
  f1 0x48 8 1 .rw 1 .all,  -- CLK_EN_RUN
  f1 0x48 9 1 .rw 1 (.u 1 1 1),  -- CLK_EN_RUN
  f1 0x48 10 1 .rw 1 (.u 1 1 1),  -- CLK_EN_RUN
  f1 0x48 11 1 .rw 1 (.u 1 1 1),  -- CLK_EN_RUN
  f1 0x48 12 1 .rw 1 (.u 1 1 1),  -- CLK_EN_RUN
  f1 0x4c 0 1 .rw 1 (.u 1 1 1),  -- CLK_EN_SLEEP
  f1 0x4c 1 1 .rw 1 (.u 1 1 1),  -- CLK_EN_SLEEP
  f1 0x4c 2 1 .rw 1 .all,  -- CLK_EN_SLEEP
  f1 0x4c 3 1 .rw 1 .all,  -- CLK_EN_SLEEP
  f1 0x4c 4 1 .rw 1 .all,  -- CLK_EN_SLEEP
  f1 0x4c 5 1 .rw 1 .all,  -- CLK_EN_SLEEP
  f1 0x4c 6 1 .rw 1 .all,  -- CLK_EN_SLEEP
  f1 0x4c 7 1 .rw 1 .all,  -- CLK_EN_SLEEP
  f1 0x4c 8 1 .rw 0 (.u 0 0 1),  -- CLK_EN_SLEEP
  f1 0x4c 9 1 .rw 1 (.u 1 1 1),  -- CLK_EN_SLEEP
  f1 0x4c 10 1 .rw 1 (.u 1 1 1),  -- CLK_EN_SLEEP
  f1 0x4c 11 1 .rw 1 (.u 1 1 1),  -- CLK_EN_SLEEP
  f1 0x4c 12 1 .rw 1 (.u 1 1 1),  -- CLK_EN_SLEEP
  f1 0x50 0 1 .rw 1 (.u 1 1 1),  -- CLK_EN_DEEP
  f1 0x50 1 1 .rw 0 (.u 0 0 1),  -- CLK_EN_DEEP
  f1 0x50 2 1 .rw 0 (.u 0 0 1),  -- CLK_EN_DEEP
  f1 0x50 3 1 .rw 0 (.u 0 0 1),  -- CLK_EN_DEEP
  f1 0x50 4 1 .rw 0 (.u 0 0 1),  -- CLK_EN_DEEP
  f1 0x50 5 1 .rw 0 (.u 0 0 1),  -- CLK_EN_DEEP
  f1 0x50 6 1 .rw 0 (.u 0 0 1),  -- CLK_EN_DEEP
  f1 0x50 7 1 .rw 0 (.u 0 0 1),  -- CLK_EN_DEEP
  f1 0x50 8 1 .rw 0 (.u 0 0 1)]  -- CLK_EN_DEEP

/-- Registers of CLK, part 1. -/
def tabClk1 : List Fld := [
  f1 0x50 9 1 .rw 0 (.u 0 0 1),  -- CLK_EN_DEEP
  f1 0x50 10 1 .rw 0 (.u 0 0 1),  -- CLK_EN_DEEP
  f1 0x50 11 1 .rw 0 (.u 0 0 1),  -- CLK_EN_DEEP
  f1 0x50 12 1 .rw 0 (.u 0 0 1),  -- CLK_EN_DEEP
  f1 0x80 0 3 .ro 0 .all,  -- CLK_SRC_STAT.REFCLK
  f1 0x80 4 3 .ro 0 .all,  -- CLK_SRC_STAT.SERDES
  f1 0x80 8 3 .ro 0 .all,  -- CLK_SRC_STAT.RC
  f1 0x84 0 1 .ro 0 .all,  -- CLK_SEL.AON_SRC
  f1 0x84 1 1 .ro 0 .all,  -- CLK_SEL.SYS_SRC
  f1 0x84 2 1 .w1c 0 .all,  -- CLK_SEL.FORCED_SW
  f1 0x88 0 13 .ro 0 .all,  -- CLK_LOCK.RUNNING
  f1 0x8c 0 8 .ro 1 .all,  -- CLK_TR_STAT.CAUSE
  f1 0x90 0 8 .w1c 1 .all,  -- CLK_TR_CAUSE.CAUSE
  f1 0x94 0 18 .ro 0 .all,  -- CLK_RC_FREQ.FREQ
  fa 0xa0 3 4 0 32 .rc 0 .all,  -- CLK_FAIL_CNT0–2.CNT
  f1 0xac 0 32 .rc 0 .all,  -- CLK_FORCED_SW_CNT.CNT
  f1 0xb0 0 32 .rc 0 .all,  -- CLK_TR_CNT.CNT
  f1 0xb4 0 32 .ro 0 .all]  -- CLK_TR_LAST.US

/-- Registers of CLK. -/
def tabClk : List Fld := tabClk0 ++ tabClk1

/-- Registers of TIM, part 0. -/
def tabTim0 : List Fld := [
  f1 0x40 0 2 .rw 0 (.en [0, 1] 0),  -- TIM_CFG.PROFILE
  f1 0x40 2 2 .rw 0 (.en [0, 1, 2] 0),  -- TIM_CFG.SOURCE
  f1 0x40 4 1 .rw 1 .all,  -- TIM_CFG.SLAVE_ONLY
  f1 0x40 5 1 .rw 0 .all,  -- TIM_CFG.MC_ROUGH
  f1 0x40 6 1 .rw 0 .all,  -- TIM_CFG.JUMP_ACCEPT
  f1 0x40 7 1 .rw 1 .all,  -- TIM_CFG.PPS_GATE
  f1 0x40 8 8 .rw 0 .all,  -- TIM_CFG.DOMAIN
  f1 0x40 16 3 .rw 0 (.u 0 4 1),  -- TIM_CFG.SYNC_EXP
  f1 0x40 20 4 .rw 3 (.u 2 0xa 1),  -- TIM_CFG.ANN_TIMEOUT
  f1 0x44 0 30 .rw 0x3e8 (.u 0x64 0x3b9aca00 1),  -- TIM_JUMP.JUMP_THRESH
  f1 0x48 0 16 .rw 0x64 (.u 0x14 0x3e8 1),  -- TIM_LOCK.LOCK_THRESH
  f1 0x48 16 8 .rw 0x10 (.u 4 0xff 1),  -- TIM_LOCK.LOCK_COUNT
  f1 0x4c 0 4 .rw 1 (.u 0 8 1),  -- TIM_GAIN.KP_ROUGH
  f1 0x4c 4 4 .rw 3 (.u 1 0xc 1),  -- TIM_GAIN.KI_ROUGH
  f1 0x4c 8 4 .rw 3 (.u 0 8 1),  -- TIM_GAIN.KP_FIN
  f1 0x4c 12 4 .rw 7 (.u 1 0xf 1),  -- TIM_GAIN.KI_FIN
  f1 0x4c 16 9 .rw 0x64 (.u 1 0x1f4 1),  -- TIM_GAIN.FREQ_LIMIT
  f1 0x50 0 17 .rw 0xe10 (.u 0xa 0x15180 1),  -- TIM_HOLD.HOLD_LIMIT
  f1 0x50 20 12 .rw 0x3e8 (.u 0xfa 0xfa0 1),  -- TIM_HOLD.HOLD_DELAY
  f1 0x54 0 16 .rw 0x25 (.u 0 0xff 1),  -- TIM_UTC.UTC_OFFSET
  f1 0x54 16 1 .rw 0 .all,  -- TIM_UTC.LEAP61
  f1 0x54 17 1 .rw 0 .all,  -- TIM_UTC.LEAP59
  f1 0x58 0 19 .rw 0x186a0 (.u 1 0x7a120 1),  -- TIM_PPS.PPS_WIDTH
  f1 0x5c 0 32 .rw 0 (.s (-10000) 10000),  -- TIM_PPSIN_DLY.PPS_IN_DELAY
  f1 0x60 0 32 .rw 0 .all,  -- TIM_PTP_MAP_LO.MAP
  f1 0x64 0 32 .rw 0 .all,  -- TIM_PTP_MAP_HI.MAP
  f1 0x68 0 8 .rw 0xff .all,  -- TIM_DS.PRIORITY1
  f1 0x68 8 8 .rw 0xff .all,  -- TIM_DS.PRIORITY2
  f1 0x80 0 3 .ro 0 .all,  -- TIM_STATE.SERVO
  f1 0x80 4 2 .ro 3 .all,  -- TIM_STATE.QUALITY
  f1 0x80 6 1 .ro 0 .all,  -- TIM_STATE.PERSIST
  f1 0x80 8 2 .ro 0 .all,  -- TIM_STATE.EPOCH
  f1 0x80 16 4 .ro 0 .all,  -- TIM_STATE.RUN
  f1 0x84 0 32 .ro 0 .all,  -- TIM_OFFSET.THETA
  f1 0x88 0 32 .ro 0 .all,  -- TIM_FREQ_LO.FREQ
  f1 0x8c 0 8 .ro 0 .all,  -- TIM_FREQ_HI.FREQ
  f1 0x90 0 32 .rc 0 .all,  -- TIM_REFUSE_CNT.CNT
  f1 0x94 0 32 .rc 0 .all,  -- TIM_STEP_CNT.CNT
  f1 0x98 0 32 .rc 0 .all,  -- TIM_GRAIN_SKIP_CNT.CNT
  f1 0x9c 0 32 .rc 0 .all]  -- TIM_MASTER_CNT.CNT

/-- Registers of TIM, part 1. -/
def tabTim1 : List Fld := [
  f1 0xa0 0 32 .ro 0 .all,  -- TIM_PARENT_LO.ID
  f1 0xa4 0 32 .ro 0 .all,  -- TIM_PARENT_HI.ID
  f1 0xa8 0 16 .w1c 0 .all,  -- TIM_TSQ_OVF.TILE
  f1 0xac 0 32 .rc 0 .all,  -- TIM_TSQ_LOST_CNT.CNT
  f1 0xb0 0 32 .rc 0 .all,  -- TIM_PTP_DROP_CNT.CNT
  f1 0xb4 0 32 .rc 0 .all,  -- TIM_TC_DROP_CNT.CNT
  f1 0xb8 0 32 .ro 0 .all,  -- TIM_GM_INACC.INACC
  f1 0xc0 0 32 .ro 0 .all,  -- TIM_PPSIN_SEC_LO.SEC
  f1 0xc4 0 32 .ro 0 .all,  -- TIM_PPSIN_SEC_HI.SEC
  f1 0xc8 0 30 .ro 0 .all,  -- TIM_PPSIN_NS.NS
  f1 0xcc 0 16 .ro 0 .all,  -- TIM_PPSIN_FRAC.FRAC
  f1 0xd0 0 1 .w1c 0 .all]  -- TIM_PPSIN_FLG.OVR

/-- Registers of TIM. -/
def tabTim : List Fld := tabTim0 ++ tabTim1

/-- Registers of CMD. -/
def tabCmd : List Fld := [
  f1 0x40 0 5 .rwl 0x1d .all,  -- CMD_PORT_EN.PORT_EN
  f1 0x40 5 1 .rwl 0 .dyn,  -- CMD_PORT_EN.PORT_EN
  f1 0x44 0 32 .rwl 0 .all,  -- CMD_MGMT_MAP_LO.MAP
  f1 0x48 0 32 .rwl 0 .all,  -- CMD_MGMT_MAP_HI.MAP
  f1 0x4c 0 6 .rwl 0 .all,  -- CMD_MGMT_KEY.SLOT
  f1 0x50 0 1 .rw 0 .all,  -- CMD_MBX_CTL.GO
  f1 0x54 0 1 .ro 0 .all,  -- CMD_MBX_STAT.BUSY
  f1 0x54 1 1 .w1c 0 .all,  -- CMD_MBX_STAT.RSP_VALID
  f1 0x58 0 32 .ro 0 .all,  -- CMD_JNL_NEWEST.SEQ
  f1 0x5c 0 13 .ro 0 .all,  -- CMD_JNL_COUNT.COUNT
  fa 0x60 6 4 0 32 .rc 0 .all,  -- CMD_REFUSE_CNT0–5.CNT
  f1 0x78 0 32 .ro 0 .all,  -- CMD_STAGE_BASE_LO.BASE
  f1 0x7c 0 32 .ro 0 .all,  -- CMD_STAGE_BASE_HI.BASE
  fa 0x1000 1024 4 0 32 .rw 0 .all,  -- MBX_REQ
  fa 0x2000 1024 4 0 32 .ro 0 .all]  -- MBX_RSP

/-- Registers of a PRT page, part 0. -/
def tabPrt0 : List Fld := [
  f1 0x40 0 2 .rw 1 .dyn,  -- PRT_CFG.SPEED
  f1 0x40 2 1 .rw 0 .dyn,  -- PRT_CFG.SGMII
  f1 0x40 3 1 .rw 0 .dyn,  -- PRT_CFG.AN_EN
  f1 0x40 4 2 .rw 0 .dyn,  -- PRT_CFG.FEC
  f1 0x40 16 14 .rw 0x600 (.u 0x5ee 0x2580 1),  -- PRT_CFG.MAX_FRAME
  f1 0x44 0 10 .rw 0xa (.u 0 0x3e8 1),  -- PRT_LINK.LINK_UP_HOLD
  f1 0x44 16 10 .rw 0xa (.u 0 0x3e8 1),  -- PRT_LINK.LINK_DN_FILT
  f1 0x48 0 12 .rw 1 (.u 1 0xffe 1),  -- PRT_VLAN.PVID
  f1 0x48 12 3 .rw 0 .all,  -- PRT_VLAN.DEF_PCP
  f1 0x48 16 2 .rw 0 (.en [0, 1, 2] 0),  -- PRT_VLAN.ACCEPT
  f1 0x48 18 1 .rw 1 .all,  -- PRT_VLAN.INGRESS_FILTER
  f1 0x4c 0 3 .rw 0 (.u 0 3 1),  -- PRT_PCP_MAP.PCP0
  f1 0x4c 3 3 .rw 0 (.u 0 3 1),  -- PRT_PCP_MAP.PCP1
  f1 0x4c 6 3 .rw 1 (.u 0 3 1),  -- PRT_PCP_MAP.PCP2
  f1 0x4c 9 3 .rw 1 (.u 0 3 1),  -- PRT_PCP_MAP.PCP3
  f1 0x4c 12 3 .rw 2 (.u 0 3 1),  -- PRT_PCP_MAP.PCP4
  f1 0x4c 15 3 .rw 2 (.u 0 3 1),  -- PRT_PCP_MAP.PCP5
  f1 0x4c 18 3 .rw 3 (.u 0 3 1),  -- PRT_PCP_MAP.PCP6
  f1 0x4c 21 3 .rw 3 (.u 0 3 1),  -- PRT_PCP_MAP.PCP7
  fa 0x50 4 4 0 16 .rw 0 (.u 0x600 0xffff 1),  -- PRT_ETYPE0–3.ETYPE
  fa 0x50 4 4 16 2 .rw 0 .all,  -- PRT_ETYPE0–3.QUEUE
  fa 0x50 4 4 20 1 .rw 0 .all,  -- PRT_ETYPE0–3.DROP
  fa 0x50 4 4 31 1 .rw 0 .all,  -- PRT_ETYPE0–3.VALID
  f1 0x60 0 8 .rw 0xff .all,  -- PRT_TXQ.Q_EN
  f1 0x64 0 16 .rw 0 (.s (-10000) 10000),  -- PRT_TS_ADJ.RX_ADJ
  f1 0x64 16 16 .rw 0 (.s (-10000) 10000),  -- PRT_TS_ADJ.TX_ADJ
  f1 0x68 0 32 .rw 0 .all,  -- PRT_MAC_LO.MAC
  f1 0x6c 0 16 .rw 0 .all,  -- PRT_MAC_HI.MAC
  f1 0x100 0 32 .rc 0 .all,  -- RX_OK_CNT.CNT
  f1 0x104 0 32 .rc 0 .all,  -- RX_BYTES_LO.CNT
  f1 0x108 0 32 .rc 0 .all,  -- RX_BYTES_HI.CNT
  f1 0x10c 0 32 .rc 0 .all,  -- RX_FCS_CNT.CNT
  f1 0x110 0 32 .rc 0 .all,  -- RX_RUNT_CNT.CNT
  f1 0x114 0 32 .rc 0 .all,  -- RX_LONG_CNT.CNT
  f1 0x118 0 32 .rc 0 .all,  -- RX_VLAN_DROP_CNT.CNT
  f1 0x11c 0 32 .rc 0 .all,  -- RX_ETYPE_DROP_CNT.CNT
  f1 0x120 0 32 .rc 0 .all,  -- RX_PAUSE_CNT.CNT
  f1 0x124 0 32 .rc 0 .all,  -- RX_DUP_CNT.CNT
  f1 0x128 0 32 .rc 0 .all,  -- RX_WRONG_LAN_CNT.CNT
  f1 0x12c 0 32 .rc 0 .all]  -- RX_RED_ERR_CNT.CNT

/-- Registers of a PRT page, part 1. -/
def tabPrt1 : List Fld := [
  f1 0x130 0 32 .rc 0 .all,  -- RX_RING_RET_CNT.CNT
  f1 0x134 0 32 .rc 0 .all,  -- RX_SUPV_CNT.CNT
  f1 0x138 0 32 .rc 0 .all,  -- RX_SYM_ERR_CNT.CNT
  f1 0x13c 0 32 .rc 0 .all,  -- RX_FEC_CORR_CNT.CNT
  f1 0x140 0 32 .rc 0 .all,  -- RX_FEC_UNCORR_CNT.CNT
  f1 0x150 0 32 .rc 0 .all,  -- TX_OK_CNT.CNT
  f1 0x154 0 32 .rc 0 .all,  -- TX_BYTES_LO.CNT
  f1 0x158 0 32 .rc 0 .all,  -- TX_BYTES_HI.CNT
  f1 0x15c 0 32 .rc 0 .all,  -- TX_STOMP_CNT.CNT
  f1 0x160 0 32 .rc 0 .all,  -- TX_FLUSH_CNT.CNT
  f1 0x164 0 32 .rc 0 .all,  -- TX_DOWN_DROP_CNT.CNT
  f1 0x168 0 32 .rc 0 .all,  -- LINK_DOWN_CNT.CNT
  f1 0x400 0 32 .rw 2 .all,  -- PRT_VLAN_MEMBER0–127.MEMBER
  fa 0x404 127 4 0 32 .rw 0 .all,  -- PRT_VLAN_MEMBER0–127.MEMBER
  f1 0x600 0 32 .rw 2 .all,  -- PRT_VLAN_UNTAG0–127.UNTAG
  fa 0x604 127 4 0 32 .rw 0 .all]  -- PRT_VLAN_UNTAG0–127.UNTAG

/-- Registers of a PRT page. -/
def tabPrt : List Fld := tabPrt0 ++ tabPrt1

/-- Registers of SWC, part 0. -/
def tabSwc0 : List Fld := [
  f1 0x40 0 1 .rw 1 .all,  -- SWC_CFG.UC_FLOOD
  f1 0x40 1 1 .rw 0 .all,  -- SWC_CFG.MC_FLOOD
  f1 0x44 0 20 .rw 0x12c (.u 0xa 0xf4240 1),  -- SWC_FDB_AGE.FDB_AGE
  f1 0x48 0 17 .rw 0x2000 (.u 0 0x10000 1),  -- SWC_HI_RESERVE.HI_RESERVE
  f1 0x4c 0 18 .rw 0x3333 (.u 0 0x20000 1),  -- SWC_FREE_ALARM.FREE_ALARM
  fa 0x50 4 4 0 18 .rw 0x1000 (.u 16 131072 1),  -- SWC_QLIM0–7.QLIM
  fa 0x60 4 4 0 18 .rw 0x800 (.u 16 131072 1),  -- SWC_QLIM0–7.QLIM
  f1 0x70 0 32 .rw 0xffffffff .all,  -- SWC_LEARN_LO.MAP
  f1 0x74 0 32 .rw 0xffffffff .all,  -- SWC_LEARN_HI.MAP
  f1 0x78 0 32 .rw 0 .all,  -- SWC_CT_PORT_LO.MAP
  f1 0x7c 0 32 .rw 0 .all,  -- SWC_CT_PORT_HI.MAP
  f1 0x80 0 8 .rw 0 .all,  -- SWC_CT_CLASS.CLASS
  f1 0x84 0 2 .rw 0 (.u 0 0 1),  -- SWC_IPORT_CFG.FLOOD
  f1 0x84 2 1 .rw 0 .all,  -- SWC_IPORT_CFG.FLOOD
  f1 0x84 3 1 .rw 0 .all,  -- SWC_IPORT_CFG.FLOOD
  f1 0x84 4 2 .rw 0 (.u 0 0 1),  -- SWC_IPORT_CFG.LEARN
  f1 0x84 6 1 .rw 0 .all,  -- SWC_IPORT_CFG.LEARN
  f1 0x84 7 1 .rw 0 .all,  -- SWC_IPORT_CFG.LEARN
  f1 0x100 0 32 .rw 0 .all,  -- SWC_FDB_KEY_LO.MAC
  f1 0x104 0 16 .rw 0 .all,  -- SWC_FDB_KEY_HI.MAC
  f1 0x104 16 12 .rw 0 .all,  -- SWC_FDB_KEY_HI.VID
  f1 0x108 0 2 .rw 0 .all,  -- SWC_FDB_DATA.DTYPE
  f1 0x108 2 10 .rw 0 .dyn,  -- SWC_FDB_DATA.DEST
  f1 0x108 16 1 .rw 1 .all,  -- SWC_FDB_DATA.STATIC
  f1 0x108 17 1 .ro 0 .all,  -- SWC_FDB_DATA.HIT
  f1 0x108 31 1 .ro 0 .all,  -- SWC_FDB_DATA.VALID
  f1 0x10c 0 3 .rw 0 (.en [1, 2, 3, 4, 5, 6] 3),  -- SWC_FDB_CMD.OP
  f1 0x10c 8 7 .rw 0 (.u 0 0x43 1),  -- SWC_FDB_CMD.FLUSH_ARG
  f1 0x10c 31 1 .rw 0 .all,  -- SWC_FDB_CMD.GO
  f1 0x110 0 1 .ro 0 .all,  -- SWC_FDB_STAT.BUSY
  f1 0x110 1 3 .ro 0 .all,  -- SWC_FDB_STAT.RESULT
  f1 0x114 0 16 .ro 0 .all,  -- SWC_FDB_OCC.TOTAL
  f1 0x114 16 16 .ro 0 .all,  -- SWC_FDB_OCC.STATIC
  f1 0x140 0 12 .rw 0 .all,  -- SWC_CLS_SEL.INDEX
  f1 0x144 0 16 .rw 0 .all,  -- SWC_CLS_W0
  f1 0x144 16 16 .rw 0 .all,  -- SWC_CLS_W0
  f1 0x148 0 16 .rw 0 .all,  -- SWC_CLS_W1
  f1 0x148 16 16 .rw 0 .all,  -- SWC_CLS_W1
  f1 0x14c 0 32 .rw 0 .all,  -- SWC_CLS_W2
  f1 0x150 0 16 .rw 0 .all]  -- SWC_CLS_W3

/-- Registers of SWC, part 1. -/
def tabSwc1 : List Fld := [
  f1 0x150 16 6 .rw 0 (.u 0 48 1),  -- SWC_CLS_W3
  f1 0x154 0 12 .rw 0 .all,  -- SWC_CLS_W4
  f1 0x154 16 12 .rw 0 .all,  -- SWC_CLS_W4
  f1 0x158 0 7 .rw 0 (.u 0 67 1),  -- SWC_CLS_W5
  f1 0x158 7 1 .rw 0 .all,  -- SWC_CLS_W5
  f1 0x15c 0 4 .rw 0 .all,  -- SWC_CLS_W6
  f1 0x15c 4 1 .rw 0 .all,  -- SWC_CLS_W6
  f1 0x15c 8 2 .rw 0 .all,  -- SWC_CLS_W6
  f1 0x15c 10 1 .rw 0 .all,  -- SWC_CLS_W6
  f1 0x15c 31 1 .rw 0 .all,  -- SWC_CLS_W6
  f1 0x160 0 2 .rw 0 (.en [1, 2, 3] 2),  -- SWC_CLS_CMD.OP
  f1 0x160 31 1 .rw 0 .all,  -- SWC_CLS_CMD.GO
  f1 0x164 0 1 .ro 0 .all,  -- SWC_CLS_STAT.BUSY
  f1 0x168 0 32 .rc 0 .all,  -- SWC_CLS_HIT.CNT
  f1 0x180 0 10 .rw 0 .all,  -- SWC_GRP_SEL.INDEX
  f1 0x184 0 32 .rw 0 .all,  -- SWC_GRP_MASK0.MASK
  f1 0x188 0 32 .rw 0 .all,  -- SWC_GRP_MASK1.MASK
  f1 0x18c 0 4 .rw 0 .all,  -- SWC_GRP_MASK2.MASK
  f1 0x190 0 2 .rw 0 (.en [1, 2] 2),  -- SWC_GRP_CMD.OP
  f1 0x190 31 1 .rw 0 .all,  -- SWC_GRP_CMD.GO
  f1 0x1c0 0 18 .ro 0x20000 .all,  -- SWC_BOWL_FREE.FREE
  f1 0x1c4 0 18 .rc 0x20000 .all,  -- SWC_BOWL_MINFREE.MIN
  fa 0x1d0 16 4 0 14 .ro 0x2000 .all,  -- SWC_BANK_FREE0–15.FREE
  f1 0x210 0 7 .rw 0 (.u 0 0x43 1),  -- SWC_QOCC_SEL.PORT
  f1 0x210 8 3 .rw 0 .all,  -- SWC_QOCC_SEL.QUEUE
  f1 0x214 0 18 .ro 0 .all,  -- SWC_QOCC.BILLETS
  f1 0x218 0 18 .ro 0 .all,  -- SWC_QOCC_FRM.FRAMES
  f1 0x300 0 32 .rc 0 .all,  -- SWC_NOBUF_CNT.CNT
  f1 0x304 0 32 .rc 0 .all,  -- SWC_QLIM_CNT.CNT
  f1 0x308 0 32 .rc 0 .all,  -- SWC_NO_DEST_CNT.CNT
  f1 0x30c 0 32 .rc 0 .all,  -- SWC_STOMP_CNT.CNT
  f1 0x310 0 32 .rc 0 .all,  -- SWC_LATE_DISC_CNT.CNT
  f1 0x314 0 32 .rc 0 .all,  -- SWC_CT_CNT.CNT
  f1 0x318 0 32 .rc 0 .all,  -- SWC_LEARN_FULL_CNT.CNT
  f1 0x31c 0 32 .rc 0 .all,  -- SWC_MOVE_CNT.CNT
  f1 0x320 0 32 .rc 0 .all,  -- SWC_FDB_AGEOUT_CNT.CNT
  fa 0x400 4 0x20 0 1 .ro 0 .all,  -- SWC_IP_STAT.LINK
  fa 0x404 4 0x20 0 32 .rc 0 .all,  -- IP RX_OK_CNT
  fa 0x408 4 0x20 0 32 .rc 0 .all,  -- IP TX_OK_CNT
  fa 0x40c 4 0x20 0 32 .rc 0 .all]  -- IP TX_DOWN_DROP_CNT

/-- Registers of SWC, part 2. -/
def tabSwc2 : List Fld := [
  fa 0x410 4 0x20 0 32 .rc 0 .all,  -- IP TX_FLUSH_CNT
  fa 0x9000 16 4 0 6 .rw 0 .all,  -- SWC_RED_PAIR0–15.PORT_A
  fa 0x9000 16 4 8 6 .rw 0 .all,  -- SWC_RED_PAIR0–15.PORT_B
  fa 0x9000 16 4 16 1 .rw 0 .all,  -- SWC_RED_PAIR0–15.MODE
  fa 0x9000 16 4 31 1 .rw 0 .dyn,  -- SWC_RED_PAIR0–15.EN
  f1 0x9040 0 12 .rw 0x190 (.u 0xa 0xfa0 1),  -- SWC_DD_CFG.DD_AGE
  f1 0x9044 0 15 .ro 0 .all,  -- SWC_DD_OCC.OCC
  f1 0x9048 0 32 .rc 0 .all,  -- SWC_DD_DISC_CNT.CNT
  f1 0x904c 0 32 .rc 0 .all,  -- SWC_DD_EVICT_CNT.CNT
  f1 0x9050 0 32 .rc 0 .all]  -- SWC_DD_AGE_CNT.CNT

/-- Registers of SWC. -/
def tabSwc : List Fld := tabSwc0 ++ tabSwc1 ++ tabSwc2

/-- Registers of SVS, part 0. -/
def tabSvs0 : List Fld := [
  f1 0x40 0 13 .rw 0x1f4 (.u 0x32 0xfa0 1),  -- SVS_CFG.WINDOW
  f1 0x40 16 1 .rw 0 .all,  -- SVS_CFG.SIM_ACCEPT
  f1 0x40 24 8 .rw 0x10 (.u 2 0xff 1),  -- SVS_CFG.LOST_SAMPLES
  f1 0x44 0 10 .rw 4 (.u 1 0x3e8 1),  -- SVS_GOOSE_CFG.TAL_MIN
  f1 0x80 0 12 .rw 0 (.u 0 0x9ff 1),  -- SVS_SUB_SEL.INDEX
  f1 0x84 0 32 .rw 0 .all,  -- SVS_SUB_W0
  f1 0x88 0 16 .rw 0 .all,  -- SVS_SUB_W1
  f1 0x88 16 12 .rw 0 (.u 0 4094 1),  -- SVS_SUB_W1
  f1 0x88 31 1 .rw 0 .all,  -- SVS_SUB_W1
  f1 0x8c 0 16 .rw 0 .all,  -- SVS_SUB_W2
  f1 0x8c 16 16 .rw 0 .dyn,  -- SVS_SUB_W2
  f1 0x90 0 32 .rw 0 .all,  -- SVS_SUB_W3
  f1 0x94 0 32 .rw 0 .all,  -- SVS_SUB_W4
  f1 0x98 0 1 .rw 0 .all,  -- SVS_SUB_W5
  f1 0x98 1 1 .rw 0 .all,  -- SVS_SUB_W5
  f1 0x98 2 1 .rw 0 .all,  -- SVS_SUB_W5
  f1 0x98 3 2 .rw 0 (.en [0, 1, 2] 1),  -- SVS_SUB_W5
  f1 0x98 8 6 .rw 0 .all,  -- SVS_SUB_W5
  f1 0x98 16 6 .rw 0 .all,  -- SVS_SUB_W5
  f1 0x98 24 2 .rw 0 .all,  -- SVS_SUB_W5
  f1 0x9c 0 32 .rw 0 .dyn,  -- SVS_SUB_W6
  f1 0xa0 0 32 .rw 0 .all,  -- SVS_SUB_W7
  f1 0xa4 0 2 .rw 0 (.en [1, 2, 3] 2),  -- SVS_SUB_CMD.OP
  f1 0xa4 31 1 .rw 0 .all,  -- SVS_SUB_CMD.GO
  f1 0xa8 0 1 .ro 0 .all,  -- SVS_SUB_STAT.BUSY
  f1 0xa8 1 2 .ro 0 .all,  -- SVS_SUB_STAT.STATE
  f1 0xa8 3 1 .ro 0 .all,  -- SVS_SUB_STAT.LOCAL_SYNC
  f1 0xa8 4 1 .ro 0 .all,  -- SVS_SUB_STAT.EST_VALID
  f1 0xac 0 32 .ro 0 .all,  -- SVS_SUB_OFFSET.O
  f1 0xc0 0 32 .rc 0 .all,  -- SUB_RX_CNT.CNT
  f1 0xc4 0 32 .rc 0 .all,  -- SUB_SIM_CNT.CNT
  f1 0xc8 0 32 .rc 0 .all,  -- SUB_AUTH_CNT.CNT
  f1 0xcc 0 32 .rc 0 .all,  -- SUB_FORMAT_CNT.CNT
  f1 0xd0 0 32 .rc 0 .all,  -- SUB_REPEAT_CNT.CNT
  f1 0xd4 0 32 .rc 0 .all,  -- SUB_GAP_CNT.CNT
  f1 0xd8 0 32 .rc 0 .all,  -- SUB_LATE_CNT.CNT
  f1 0xdc 0 32 .rc 0 .all,  -- SUB_CONF_CNT.CNT
  f1 0xe0 0 32 .rc 0 .all,  -- SUB_STALE_CNT.CNT
  f1 0xe4 0 32 .rc 0 .all,  -- SUB_DROP_CNT.CNT
  f1 0x100 0 6 .rw 0 .all]  -- SVS_SLC_SEL.SLICE

/-- Registers of SVS, part 1. -/
def tabSvs1 : List Fld := [
  f1 0x104 12 20 .rw 0 .all,  -- SVS_SLC_BASE_LO.BASE
  f1 0x108 0 32 .rw 0 .all,  -- SVS_SLC_BASE_HI.BASE
  f1 0x10c 0 1 .rw 0 .all,  -- SVS_SLC_CFG.EN
  f1 0x10c 1 4 .rw 4 (.u 1 0xc 1),  -- SVS_SLC_CFG.LOG2N
  f1 0x10c 5 1 .rw 0 .all,  -- SVS_SLC_CFG.DIV
  f1 0x10c 8 10 .rw 1 (.u 1 0x200 1),  -- SVS_SLC_CFG.NCH
  f1 0x110 0 15 .rw 0 .all,  -- SVS_SLC_LIST.LIST_BASE
  f1 0x114 12 20 .rw 0 .all,  -- SVS_SLC_GBASE_LO.BASE
  f1 0x118 0 32 .rw 0 .all,  -- SVS_SLC_GBASE_HI.BASE
  f1 0x11c 0 1 .rw 0 .all,  -- SVS_SLC_GCFG.EN
  f1 0x11c 1 4 .rw 4 (.u 1 0xc 1),  -- SVS_SLC_GCFG.LOG2N
  f1 0x120 0 1 .ro 0 .all,  -- SVS_SLC_STAT.FAULT
  f1 0x120 1 1 .ro 0 .all,  -- SVS_SLC_STAT.GFAULT
  f1 0x140 0 15 .rw 0 .all,  -- SVS_CHL_SEL.INDEX
  f1 0x144 0 13 .rw 0 (.u 0 0x1017 1),  -- SVS_CHL_DATA.CHANNEL
  f1 0x300 0 32 .rc 0 .all,  -- SVS_NOMATCH_CNT.CNT
  f1 0x304 0 32 .rc 0 .all,  -- SVS_ID_MISMATCH_CNT.CNT
  f1 0x308 0 32 .rc 0 .all,  -- SVS_AUTH_OVF_CNT.CNT
  f1 0x30c 0 32 .rc 0 .all,  -- SVS_SET_CNT.CNT
  f1 0x310 0 32 .rc 0 .all,  -- SVS_SET_WINDOW_CNT.CNT
  f1 0x314 0 32 .rc 0 .all,  -- SVS_RING_FAULT_CNT.CNT
  fa 0x320 6 4 0 32 .rc 0 .all]  -- SVS_AUTH_REASON_CNT0–5.CNT

/-- Registers of SVS. -/
def tabSvs : List Fld := tabSvs0 ++ tabSvs1

/-- Registers of ACQ, part 0. -/
def tabAcq0 : List Fld := [
  f1 0x40 0 6 .rw 0 .all,  -- ACQ_CFG.MCLK_EN
  f1 0x44 0 24 .rw 0x888888 .all,  -- ACQ_MDPH.SAMPLE_PHASE of set s at [4s+3:4s]
  f1 0x48 0 10 .rw 0x100 (.u 0x20 0x3ff 1),  -- ACQ_STUCK.STUCK_LEN
  f1 0x4c 0 10 .rw 0x40 (.u 2 0x3fe 2),  -- ACQ_CAL_CFG.CAL_REPS
  f1 0x4c 16 8 .rw 8 (.u 5 0xff 1),  -- ACQ_CAL_CFG.CAL_PERIOD
  f1 0x50 0 1 .ro 0 .all,  -- ACQ_CAL_STAT.CAL_BUSY
  f1 0x50 8 24 .ro 0 .all,  -- ACQ_CAL_STAT.VALID
  f1 0x54 0 2 .ro 0 .all,  -- ACQ_BANK_STAT.INUSE
  f1 0x54 2 1 .w1c 0 .all,  -- ACQ_BANK_STAT.WR_REFUSED
  f1 0x58 0 18 .ro 0 .all,  -- ACQ_GD_MAX.GD
  f1 0x60 0 9 .rw 1 (.u 1 0x100 1),  -- ACQ_BANKA_CFG.NTAPS
  f1 0x60 16 8 .rw 0x14 (.u 1 0xfa 1),  -- ACQ_BANKA_CFG.D
  f1 0x64 0 9 .rw 1 (.u 1 256 1),  -- ACQ_BANKB_CFG.NTAPS
  f1 0x64 16 8 .rw 0x14 (.u 1 250 1),  -- ACQ_BANKB_CFG.D
  fa 0x100 24 0x40 0 1 .rw 0 .all,  -- CH_CFG.EN
  fa 0x100 24 0x40 1 1 .rw 0 .all,  -- CH_CFG.OUT_RATE
  fa 0x100 24 0x40 2 1 .rw 0 .all,  -- CH_CFG.BANK
  fa 0x100 24 0x40 3 1 .rw 0 .dyn,  -- CH_CFG.TW_EN
  fa 0x100 24 0x40 4 4 .rw 4 (.u 0 0xa 1),  -- CH_CFG.FADE_N
  fa 0x100 24 0x40 8 9 .rw 0x19 (.u 4 0x100 1),  -- CH_CFG.OSR
  fa 0x104 24 0x40 0 5 .rw 5 .all,  -- CH_SHIFT.SH1
  fa 0x104 24 0x40 8 5 .rw 0x10 .all,  -- CH_SHIFT.SH2
  fa 0x104 24 0x40 16 5 .rw 0x10 .all,  -- CH_SHIFT.SH3
  fa 0x104 24 0x40 24 5 .rw 0x18 .all,  -- CH_SHIFT.SH4
  fa 0x108 24 0x40 0 16 .rw 0 (.s (-16384) 16383),  -- CH_SKEW.SKEW
  fa 0x10c 24 0x40 0 16 .rw 0 (.s (-2560) 2560),  -- CH_CALPATH.CAL_PATH
  fa 0x110 24 0x40 0 2 .rw 0 (.en [0, 1, 2] 0),  -- CH_RANGE.RANGE_MODE
  fa 0x110 24 0x40 4 10 .rw 0x64 (.u 1 0x3e8 1),  -- CH_RANGE.UP_HOLD
  fa 0x110 24 0x40 16 12 .rw 0x3a .all,  -- CH_RANGE.RANGE_BLANK
  fa 0x114 24 0x40 0 15 .rw 0x7333 (.u 0x2000 0x7fff 1),  -- CH_THRESH.HI_THRESH
  fa 0x114 24 0x40 16 15 .rw 0x5c2 (.u 0 0x666 1),  -- CH_THRESH.LO_THRESH
  fa 0x118 24 0x40 0 32 .rw 0x10000000 (.u 0x8000000 0x20000000 1),  -- CH_GAIN16.GAIN_RATIO
  fa 0x11c 24 0x40 0 10 .rw 0x30 (.u 0x10 0x29a 1),  -- CH_SCS.SCS_RATIO
  fa 0x11c 24 0x40 16 5 .rw 0x10 .all,  -- CH_SCS.SCS_SH
  fa 0x120 24 0x40 0 32 .rw 0x10000 (.u 1 0xffffffff 1),  -- CH_SCS_MUL.SCS_MUL
  fa 0x124 24 0x40 0 1 .ro 0 .all,  -- CH_STAT.ACTIVE
  fa 0x124 24 0x40 1 1 .ro 0 .all,  -- CH_STAT.RANGE16
  fa 0x124 24 0x40 2 1 .ro 0 .all,  -- CH_STAT.SETTLING
  fa 0x124 24 0x40 3 1 .ro 0 .all,  -- CH_STAT.FADING
  fa 0x124 24 0x40 4 1 .ro 0 .all]  -- CH_STAT.CFG_FAULT

/-- Registers of ACQ, part 1. -/
def tabAcq1 : List Fld := [
  fa 0x124 24 0x40 5 1 .ro 0 .all,  -- CH_STAT.MD_FAULT
  fa 0x124 24 0x40 8 8 .ro 0 .all,  -- CH_STAT.SETTLE_LEFT
  fa 0x128 24 0x40 0 18 .ro 0 .all,  -- CH_GD.GD
  fa 0x128 24 0x40 24 8 .ro 0 .all,  -- CH_GD.F
  fa 0x12c 24 0x40 0 16 .ro 0 .all,  -- CH_CALMEAS.LAG
  fa 0x12c 24 0x40 31 1 .ro 0 .all,  -- CH_CALMEAS.VALID
  fa 0x130 24 0x40 0 15 .ro 0x5c2 .all,  -- CH_LO_EFF.LO_EFF
  fa 0x134 24 0x40 0 32 .rc 0 .all,  -- CH_SAT_CNT.CNT
  fa 0x138 24 0x40 0 32 .rc 0 .all,  -- CH_RSW_CNT.CNT
  fa 0x13c 24 0x40 0 32 .rc 0 .all,  -- CH_MISS_CNT.CNT
  fa 0x1000 256 4 0 32 .rw 0 .all,  -- ACQ_BANKA_COEF0–255.COEF
  fa 0x1400 256 4 0 32 .rw 0 .all]  -- ACQ_BANKB_COEF0–255.COEF

/-- Registers of ACQ. -/
def tabAcq : List Fld := tabAcq0 ++ tabAcq1

/-- Registers of PHX, part 0. -/
def tabPhx0 : List Fld := [
  f1 0x40 0 1 .rw 0 .all,  -- PHX_CFG.FNOM
  f1 0x40 1 1 .rw 1 .all,  -- PHX_CFG.FADAPT
  f1 0x40 16 9 .rw 0x48 (.u 1 0x120 1),  -- PHX_CFG.FD_SPAN
  f1 0x44 0 11 .rw 0x3c0 (.u 0x60 0x3e8 2),  -- PHX_MFILT.M_N
  f1 0x44 16 12 .rw 0x1f4 (.u 0x64 0x960 1),  -- PHX_MFILT.M_FFR
  f1 0x48 0 10 .rw 0x1f4 (.u 0xa 0x3e8 1),  -- PHX_FA.FA_LIM
  f1 0x4c 0 31 .rw 0x10000 .all,  -- PHX_FMIN.FMIN
  f1 0x50 0 14 .rw 0x90 (.u 1 0x3840 1),  -- PHX_PSEQ.PSEQ_HOLD
  f1 0x54 0 31 .rw 0x10000 .all,  -- PHX_PSEQ_MIN.PSEQ_MIN
  f1 0x58 0 8 .rw 0x1a (.u 1 0xff 1),  -- PHX_NM.NM_RATIO
  f1 0x58 16 14 .rw 0x5a0 (.u 1 0x3840 1),  -- PHX_NM.NM_HOLD
  f1 0x5c 0 1 .rw 0 .all,  -- PHX_HRM.HRM_EN
  f1 0x60 0 4 .rw 4 (.u 1 0xe 1),  -- PHX_TQ.HOLD_TQ
  f1 0x80 0 11 .ro 0x167 .all,  -- PHX_REFDLY.LAT_P
  f1 0x80 16 11 .ro 0x228 .all,  -- PHX_REFDLY.LAT_M
  f1 0x84 0 11 .ro 0 .all,  -- PHX_RESTART.LEFT
  f1 0x100 0 6 .rw 0 .all,  -- PHX_SLC_SEL.SLICE
  f1 0x104 12 20 .rw 0 .all,  -- PHX_SLC_BASE_LO.BASE
  f1 0x108 0 32 .rw 0 .all,  -- PHX_SLC_BASE_HI.BASE
  f1 0x10c 0 1 .rw 0 .all,  -- PHX_SLC_CFG.EN
  f1 0x10c 1 4 .rw 4 (.u 1 0xc 1),  -- PHX_SLC_CFG.LOG2N
  f1 0x10c 5 2 .rw 0 (.en [0, 1, 2] 0),  -- PHX_SLC_CFG.DIV
  f1 0x10c 8 10 .rw 0 (.u 0 0x200 1),  -- PHX_SLC_CFG.NCH
  f1 0x10c 20 9 .rw 0 (.u 0 0x100 1),  -- PHX_SLC_CFG.NGRP
  f1 0x110 0 15 .rw 0 .all,  -- PHX_SLC_LIST.LIST_BASE
  f1 0x114 0 13 .rw 0 .all,  -- PHX_SLC_GLIST.GLIST_BASE
  f1 0x118 12 20 .rw 0 .all,  -- PHX_SLC_HBASE_LO.BASE
  f1 0x11c 0 32 .rw 0 .all,  -- PHX_SLC_HBASE_HI.BASE
  f1 0x120 0 1 .rw 0 .all,  -- PHX_SLC_HCFG.EN
  f1 0x120 1 4 .rw 4 (.u 1 0xc 1),  -- PHX_SLC_HCFG.LOG2N
  f1 0x120 8 8 .rw 0 .all,  -- PHX_SLC_HCFG.HFIRST
  f1 0x120 16 9 .rw 0 (.u 0 0x100 1),  -- PHX_SLC_HCFG.HCOUNT
  f1 0x124 0 1 .ro 0 .all,  -- PHX_SLC_STAT.FAULT
  f1 0x124 1 1 .ro 0 .all,  -- PHX_SLC_STAT.HFAULT
  f1 0x140 0 15 .rw 0 .all,  -- PHX_CHL_SEL.INDEX
  f1 0x144 0 13 .rw 0 (.u 0 0x1017 1),  -- PHX_CHL_DATA.CHANNEL
  f1 0x148 0 13 .rw 0 .all,  -- PHX_GL_SEL.INDEX
  f1 0x14c 0 10 .rw 0 .all,  -- PHX_GL_DATA.GROUP
  f1 0x180 0 10 .rw 0 .all,  -- PHX_GRP_SEL.INDEX
  f1 0x184 0 13 .rw 0 (.u 0 0x1017 1)]  -- PHX_GRP_W0.CH_A

/-- Registers of PHX, part 1. -/
def tabPhx1 : List Fld := [
  f1 0x184 16 13 .rw 0 (.u 0 0x1017 1),  -- PHX_GRP_W0.CH_B
  f1 0x188 0 13 .rw 0 (.u 0 0x1017 1),  -- PHX_GRP_W1.CH_C
  f1 0x188 16 13 .rw 0 (.u 0 0x1017 1),  -- PHX_GRP_W1.CH_N
  f1 0x18c 0 1 .rw 0 .all,  -- PHX_GRP_W2.EN
  f1 0x18c 1 1 .rw 0 .all,  -- PHX_GRP_W2.ROT
  f1 0x18c 3 1 .rw 0 .all,  -- PHX_GRP_W2.HAS_N
  f1 0x190 0 2 .rw 0 (.en [1, 2, 3] 2),  -- PHX_GRP_CMD.OP
  f1 0x190 31 1 .rw 0 .all,  -- PHX_GRP_CMD.GO
  f1 0x194 0 1 .ro 0 .all,  -- PHX_GRP_STAT.BUSY
  f1 0x194 1 1 .ro 0 .all,  -- PHX_GRP_STAT.REVERSE
  f1 0x194 2 1 .ro 0 .all,  -- PHX_GRP_STAT.NEUTRAL
  f1 0x194 3 1 .ro 0 .all,  -- PHX_GRP_STAT.CLASS_MIX
  f1 0x1c0 0 8 .rw 0 .all,  -- PHX_HL_SEL.INDEX
  f1 0x1c4 0 13 .rw 0 (.u 0 0x1017 1),  -- PHX_HL_DATA.CHANNEL
  f1 0x1c4 16 10 .rw 0 .all,  -- PHX_HL_DATA.SYNC_GRP
  f1 0x1c4 31 1 .rw 0 .all,  -- PHX_HL_DATA.VALID
  f1 0x200 0 6 .rw 0 .all,  -- PHX_PUB_SEL.STREAM
  f1 0x204 0 2 .ro 0 .all,  -- PHX_PUB_STAT.STATE
  f1 0x204 4 4 .ro 0 .all,  -- PHX_PUB_STAT.REASON
  f1 0x208 0 32 .rc 0 .all,  -- PHX_PUB_TX_CNT.CNT
  f1 0x20c 0 32 .rc 0 .all,  -- PHX_PUB_CMD_CNT.CNT
  f1 0x210 0 32 .rc 0 .all,  -- PHX_PUB_REJ_CNT.CNT
  f1 0x300 0 32 .rc 0 .all,  -- PHX_SET_CNT.CNT
  f1 0x304 0 32 .rc 0 .all,  -- PHX_RING_FAULT_CNT.CNT
  f1 0x308 0 32 .rc 0 .all,  -- PHX_HWIN_CNT.CNT
  f1 0x30c 0 32 .rc 0 .all,  -- PHX_HMISS_CNT.CNT
  fa 0x1000 128 4 0 32 .rw 0 .all,  -- PHX_CLASS0–127.CLASS
  f1 0x1200 0 24 .rw 0 .all,  -- PHX_CLASS128.CLASS
  fa 0x2000 64 0x20 0 1 .rw 0 .all,  -- PHX_PUB_TAB EN
  fa 0x2000 64 0x20 1 1 .rw 0 .all,  -- PHX_PUB_TAB CMD_EN
  fa 0x2000 64 0x20 16 16 .rw 0 .all,  -- PHX_PUB_TAB CFG2 offset
  fa 0x2004 64 0x20 0 16 .rw 0 .all,  -- PHX_PUB_TAB CFG2 length
  fa 0x2004 64 0x20 16 8 .rw 0 .all,  -- PHX_PUB_TAB first PMU block
  fa 0x2004 64 0x20 24 8 .rw 0 .all,  -- PHX_PUB_TAB CFG_PERIOD
  fa 0x2008 64 0x20 0 32 .rw 0 .all,  -- PHX_PUB_TAB destination IPv4
  fa 0x200c 64 0x20 0 32 .rw 0 .all,  -- PHX_PUB_TAB source IPv4
  fa 0x2010 64 0x20 0 16 .rw 0 .all,  -- PHX_PUB_TAB dst port
  fa 0x2010 64 0x20 16 16 .rw 0 .all,  -- PHX_PUB_TAB src port
  fa 0x2014 64 0x20 0 32 .rw 0 .all,  -- PHX_PUB_TAB dst MAC 0-3
  fa 0x2018 64 0x20 0 16 .rw 0 .all,  -- PHX_PUB_TAB dst MAC 4-5
  fa 0x2018 64 0x20 16 12 .rw 0 .all]  -- PHX_PUB_TAB VID

/-- Registers of PHX, part 2. -/
def tabPhx2 : List Fld := [
  fa 0x2018 64 0x20 28 3 .rw 0 .all,  -- PHX_PUB_TAB PCP
  fa 0x2018 64 0x20 31 1 .rw 0 .all,  -- PHX_PUB_TAB TAGGED
  fa 0x201c 64 0x20 0 32 .ro 0 .all,  -- PHX_PUB_TAB reserved
  fa 0x2800 256 8 0 13 .rw 0 .all,  -- PHX_PMU_TAB source
  fa 0x2800 256 8 13 1 .rw 0 .all,  -- PHX_PMU_TAB group
  fa 0x2800 256 8 16 16 .rw 0 (.u 0 4095 1),  -- PHX_PMU_TAB first slot
  fa 0x2804 256 8 0 32 .ro 0 .all,  -- PHX_PMU_TAB reserved
  fa 0x4000 4096 8 0 13 .rw 0 .all,  -- PHX_SLOT_TAB source
  fa 0x4000 4096 8 14 2 .rw 0 .all,  -- PHX_SLOT_TAB kind
  fa 0x4004 4096 8 0 32 .rw 0 .all,  -- PHX_SLOT_TAB SCALE
  fa 0x10000 16384 4 0 32 .rw 0 .all]  -- PHX_CFGMEM

/-- Registers of PHX. -/
def tabPhx : List Fld := tabPhx0 ++ tabPhx1 ++ tabPhx2

/-- Registers of NRG, part 0. -/
def tabNrg0 : List Fld := [
  f1 0x40 0 12 .rw 0x3c (.u 1 0xe10 1),  -- NRG_CFG.SAVE_PERIOD
  f1 0x44 12 20 .rw 0 .all,  -- NRG_QRING_BASE_LO.BASE
  f1 0x48 0 32 .rw 0 .all,  -- NRG_QRING_BASE_HI.BASE
  f1 0x4c 0 1 .rw 0 .all,  -- NRG_QRING_CFG.EN
  f1 0x4c 1 4 .rw 8 (.u 1 0xc 1),  -- NRG_QRING_CFG.LOG2N
  f1 0x4c 8 1 .ro 0 .all,  -- NRG_QRING_CFG.FAULT
  f1 0x50 0 7 .rw 0 (.u 0 0x42 1),  -- NRG_SNAP_CTL.METER
  f1 0x50 31 1 .rw 0 .all,  -- NRG_SNAP_CTL.GO
  f1 0x54 0 1 .ro 0 .all,  -- NRG_SNAP_STAT.BUSY
  f1 0x54 16 16 .ro 0 .all,  -- NRG_SNAP_STAT.SEQ
  f1 0x58 0 32 .ro 0 .all,  -- NRG_SNAP_SEC_LO.SEC
  f1 0x5c 0 32 .ro 0 .all,  -- NRG_SNAP_SEC_HI.SEC
  f1 0x60 0 32 .ro 0 .all,  -- NRG_SNAP_NS.NS
  f1 0x64 0 16 .ro 0 .all,  -- NRG_SNAP_FRAC.FRAC
  fa 0x80 20 4 0 32 .ro 0 .all,  -- NRG_SNAP_ACC0–9.LO, HI
  f1 0xd0 0 32 .ro 0 .all,  -- NRG_SNAP_MISS.MISS
  f1 0xd4 0 32 .rc 0 .all,  -- NRG_GAP_NS.NS
  f1 0xd8 0 32 .ro 0 .all,  -- NRG_SAVE_SEQ.SEQ
  f1 0xdc 0 32 .rc 0 .all,  -- NRG_SAVE_FAIL_CNT.CNT
  fa 0x400 67 0x40 0 1 .rw 0 .all,  -- M_CFG.EN
  fa 0x400 67 0x40 1 1 .rw 0 .all,  -- M_CFG.SIGNED
  fa 0x400 67 0x40 2 1 .rw 0 .all,  -- M_CFG.HRM_MODE
  fa 0x400 67 0x40 3 1 .rw 0 .all,  -- M_CFG.QUAL_EN
  fa 0x404 67 0x40 0 10 .rw 0 .all,  -- M_GRP.VGRP
  fa 0x404 67 0x40 16 10 .rw 0 .all,  -- M_GRP.IGRP
  fa 0x408 67 0x40 0 32 .rw 0x3f800000 .dyn,  -- M_KV.KV
  fa 0x40c 67 0x40 0 32 .rw 0x3f800000 .dyn,  -- M_KI.KI
  fa 0x410 67 0x40 0 24 .rw 1 (.u 1 0xffffff 1),  -- M_PMAX.PMAX
  fa 0x414 67 0x40 0 20 .rw 0xf815 (.u 1 0xf4240 1),  -- M_UDIN.UDIN
  fa 0x418 67 0x40 0 8 .rw 0x5a (.u 0x32 0x63 1),  -- M_QTH.DIP_TH
  fa 0x418 67 0x40 8 8 .rw 0x6e (.u 0x65 0xc8 1),  -- M_QTH.SWELL_TH
  fa 0x418 67 0x40 16 8 .rw 5 (.u 1 0x14 1),  -- M_QTH.INT_TH
  fa 0x418 67 0x40 24 8 .rw 2 (.u 1 0xa 1),  -- M_QTH.HYST
  fa 0x41c 67 0x40 0 1 .ro 0 .all,  -- M_STAT.ACTIVE
  fa 0x41c 67 0x40 1 1 .ro 0 .all,  -- M_STAT.CFG_FAULT
  fa 0x41c 67 0x40 2 3 .ro 0 .all,  -- M_STAT.REASON
  fa 0x41c 67 0x40 5 1 .ro 0 .all,  -- M_STAT.HRM_GAP
  fa 0x41c 67 0x40 6 1 .ro 0 .all,  -- M_STAT.DIP
  fa 0x41c 67 0x40 7 1 .ro 0 .all,  -- M_STAT.SWELL
  fa 0x41c 67 0x40 8 1 .ro 0 .all]  -- M_STAT.INTERRUPT

/-- Registers of NRG, part 1. -/
def tabNrg1 : List Fld := [
  fa 0x420 67 0x40 0 32 .ro 0 .all,  -- M_MISS_CNT.CNT
  fa 0x424 67 0x40 0 32 .ro 0 .all,  -- M_UNSAVED_LO.BOUND
  fa 0x428 67 0x40 0 32 .ro 0 .all,  -- M_UNSAVED_HI.BOUND
  fa 0x42c 67 0x40 0 32 .rc 0 .all]  -- M_EVT_CNT.CNT

/-- Registers of NRG. -/
def tabNrg : List Fld := tabNrg0 ++ tabNrg1

/-- Registers of TWV, part 0. -/
def tabTwv0 : List Fld := [
  f1 0x40 0 4 .rw 2 (.u 1 8 1),  -- TWV_CFG.LAG
  f1 0x40 4 4 .rw 3 (.u 1 8 1),  -- TWV_CFG.SETTLE
  f1 0x40 8 8 .rw 0x80 (.u 0x20 0xe0 1),  -- TWV_CFG.FRAC
  f1 0x40 16 8 .rw 4 (.u 2 0xff 1),  -- TWV_CFG.BLIND
  f1 0x44 0 14 .rw 0x800 (.u 0x100 0x2000 256),  -- TWV_REFL.REFL_LEN
  f1 0x44 16 11 .rw 0x80 (.u 0x10 0x400 1),  -- TWV_REFL.REFL_PRE
  f1 0x48 0 16 .rw 0x49b7 (.u 1 0xffff 1),  -- TWV_RX.RX_PORT
  f1 0x48 16 1 .rw 1 .all,  -- TWV_RX.RX_AUTH_REQ
  f1 0x4c 0 6 .rw 0 .all,  -- TWV_KEY.TX_KEY
  f1 0x4c 8 6 .rw 0 .all,  -- TWV_KEY.RX_KEY
  fa 0x100 24 0x10 0 1 .rw 0 .all,  -- TC_CFG.DET_EN
  fa 0x100 24 0x10 4 3 .rw 0 .all,  -- TC_CFG.LINE
  fa 0x100 24 0x10 8 2 .rw 3 .all,  -- TC_CFG.ROLE
  fa 0x104 24 0x10 0 22 .rw 0x199a (.u 0x100 0x1fffff 1),  -- TC_TH.SLEW_TH
  fa 0x108 24 0x10 0 32 .rw 0x3f800000 .dyn,  -- TC_SCALE.SCALE
  fa 0x10c 24 0x10 0 1 .ro 0 .all,  -- TC_STAT.ARMED
  fa 0x10c 24 0x10 1 1 .ro 0 .all,  -- TC_STAT.INVALID
  fa 0x10c 24 0x10 16 16 .ro 0 .all,  -- TC_STAT.DET_CNT
  fa 0x400 8 0x40 0 1 .rw 0 .all,  -- TL_CFG.REPORT_EN
  fa 0x400 8 0x40 1 1 .rw 1 .all,  -- TL_CFG.AUTH
  fa 0x400 8 0x40 2 2 .rw 1 .all,  -- TL_CFG.REPEAT
  fa 0x400 8 0x40 4 2 .rw 3 .all,  -- TL_CFG.QUEUE
  fa 0x400 8 0x40 8 7 .rw 0x14 (.u 2 0x50 1),  -- TL_CFG.EVT_WIN
  fa 0x400 8 0x40 16 10 .rw 2 (.u 0 0x3e8 1),  -- TL_CFG.REARM
  fa 0x404 8 0x40 0 32 .rw 0 .all,  -- TL_ID.LINE_ID
  fa 0x408 8 0x40 0 32 .rw 0 .all,  -- TL_REM_ID.REM_ID
  fa 0x40c 8 0x40 0 32 .rw 0 .all,  -- TL_DIP.DIP
  fa 0x410 8 0x40 0 32 .rw 0 .all,  -- TL_SIP.SIP
  fa 0x414 8 0x40 0 16 .rw 0x49b7 (.u 1 0xffff 1),  -- TL_PORTS.DPORT
  fa 0x414 8 0x40 16 16 .rw 0x49b7 (.u 1 0xffff 1),  -- TL_PORTS.SPORT
  fa 0x418 8 0x40 0 32 .rw 0 .all,  -- TL_DMAC_LO.MAC
  fa 0x41c 8 0x40 0 16 .rw 0 .all,  -- TL_DMAC_HI.MAC
  fa 0x420 8 0x40 0 12 .rw 1 (.u 1 0xffe 1),  -- TL_VLAN.VID
  fa 0x420 8 0x40 12 3 .rw 6 .all,  -- TL_VLAN.PCP
  fa 0x420 8 0x40 15 1 .rw 1 .all,  -- TL_VLAN.TAGGED
  fa 0x424 8 0x40 0 1 .ro 0 .all,  -- TL_STAT.BUSY
  fa 0x428 8 0x40 0 32 .ro 0 .all,  -- TL_EVT_SEQ.SEQ
  fa 0x42c 8 0x40 0 32 .rc 0 .all,  -- TL_EVT_CNT.CNT
  fa 0x430 8 0x40 0 32 .rc 0 .all,  -- TL_SUPP_CNT.CNT
  fa 0x434 8 0x40 0 32 .rc 0 .all]  -- TL_RX_OK_CNT.CNT

/-- Registers of TWV, part 1. -/
def tabTwv1 : List Fld := [
  fa 0x438 8 0x40 0 32 .rc 0 .all,  -- TL_RX_REJ_CNT.CNT
  fa 0x43c 8 0x40 0 32 .rc 0 .all,  -- TL_RX_DUP_CNT.CNT
  f1 0x600 0 6 .rw 0 .all,  -- TWV_SLC_SEL.SLICE
  f1 0x604 12 20 .rw 0 .all,  -- TWV_SLC_BASE_LO.BASE
  f1 0x608 0 32 .rw 0 .all,  -- TWV_SLC_BASE_HI.BASE
  f1 0x60c 0 1 .rw 0 .all,  -- TWV_SLC_CFG.EN
  f1 0x60c 1 4 .rw 4 (.u 1 0xc 1),  -- TWV_SLC_CFG.LOG2N
  f1 0x60c 8 8 .rw 0 .all,  -- TWV_SLC_CFG.LINES
  f1 0x610 12 20 .rw 0 .all,  -- TWV_SLC_RBASE_LO.BASE
  f1 0x614 0 32 .rw 0 .all,  -- TWV_SLC_RBASE_HI.BASE
  f1 0x618 0 1 .rw 0 .all,  -- TWV_SLC_RCFG.EN
  f1 0x618 1 4 .rw 2 (.u 1 8 1),  -- TWV_SLC_RCFG.LOG2N
  f1 0x620 0 1 .ro 0 .all,  -- TWV_SLC_STAT.FAULT
  f1 0x620 1 1 .ro 0 .all]  -- TWV_SLC_STAT.RFAULT

/-- Registers of TWV. -/
def tabTwv : List Fld := tabTwv0 ++ tabTwv1

/-- Registers of GGE, part 0. -/
def tabGge0 : List Fld := [
  f1 0x40 0 1 .rw 0 .all,  -- GGE_CFG.ARM
  f1 0x40 1 1 .rw 0 .all,  -- GGE_CFG.STORE_MODE
  f1 0x40 2 1 .rw 1 .all,  -- GGE_CFG.RETRIG
  f1 0x44 0 12 .rw 0x5a0 (.u 0 0xb40 1),  -- GGE_PRE.PRE_G
  f1 0x48 0 18 .rw 0xb40 (.u 0x90 0x23280 1),  -- GGE_POST.POST_G
  f1 0x4c 0 19 .rw 0x3840 (.u 0x120 0x69780 1),  -- GGE_LIMIT.LIMIT_G
  f1 0x50 0 14 .rw 0x64 (.u 0 0x2710 1),  -- GGE_REARM.REARM
  f1 0x54 0 14 .rw 0x2d0 (.u 0 0x3840 1),  -- GGE_TW.TW_PRE
  f1 0x54 16 16 .rw 0xe10 (.u 0 0xa8c0 1),  -- GGE_TW.TW_POST
  f1 0x58 0 24 .rw 0 .dyn,  -- GGE_TWMASK.TW_CH
  f1 0x5c 0 12 .rw 0x120 (.u 0x90 0xb40 1),  -- GGE_MEAS.MEAS_LEN
  f1 0x60 0 3 .rwl 0 .dyn,  -- GGE_STORE.BASE_GIB
  f1 0x64 0 9 .rw 0 (.u 0 0x100 1),  -- GGE_NUM.NA
  f1 0x64 16 7 .rw 0 (.u 0 0x40 1),  -- GGE_NUM.NP
  f1 0x64 24 4 .rw 0 (.u 0 0xc 1),  -- GGE_NUM.ND
  fa 0x68 3 4 0 5 .rw 0 .all,  -- GGE_DECW.WORD
  fa 0x68 3 4 8 5 .rw 0 .all,  -- GGE_DECW.WORD
  fa 0x68 3 4 16 5 .rw 0 .all,  -- GGE_DECW.WORD
  fa 0x68 3 4 24 5 .rw 0 .all,  -- GGE_DECW.WORD
  f1 0x80 0 1 .ro 0 .all,  -- GGE_STAT.FULL
  f1 0x84 0 32 .ro 0 .all,  -- GGE_REC_NEWEST.SEQ
  f1 0x88 0 32 .ro 0 .all,  -- GGE_REC_OLDEST.SEQ
  f1 0x8c 0 13 .ro 0 .all,  -- GGE_REC_COUNT.COUNT
  f1 0x90 0 18 .ro 0 .all,  -- GGE_FREE.PAGES
  f1 0xa0 0 32 .rc 0 .all,  -- GGE_REC_CNT.CNT
  f1 0xa4 0 32 .rc 0 .all,  -- GGE_SUPP_CNT.CNT
  f1 0xa8 0 32 .rc 0 .all,  -- GGE_NOSPACE_CNT.CNT
  f1 0xac 0 32 .rc 0 .all,  -- GGE_DEL_CNT.CNT
  f1 0xb0 0 32 .rc 0 .all,  -- GGE_SHORT_CNT.CNT
  fa 0x400 128 4 0 13 .rw 0 (.u 0 4119 1),  -- GGE_ACH.CH
  fa 0x400 128 4 16 13 .rw 0 (.u 0 4119 1),  -- GGE_ACH.CH
  fa 0x600 64 4 0 13 .rw 0 (.u 0 0x1017 1),  -- GGE_PQ0–63.INDEX
  fa 0x600 64 4 16 3 .rw 0 .all,  -- GGE_PQ0–63.QTY
  fa 0x1000 64 0x20 0 3 .rw 0 .dyn,  -- TG_CFG.COND
  fa 0x1000 64 0x20 4 2 .rw 0 .all,  -- TG_CFG.SRC
  fa 0x1000 64 0x20 8 1 .rw 0 .all,  -- TG_CFG.POL
  fa 0x1000 64 0x20 9 1 .rw 0 .all,  -- TG_CFG.WMODE
  fa 0x1004 64 0x20 0 13 .rw 0 .dyn,  -- TG_SRC.INDEX
  fa 0x1004 64 0x20 16 3 .rw 0 .all,  -- TG_SRC.QTY
  fa 0x1008 64 0x20 0 32 .rw 0x7fffffff .all]  -- TG_TH_HI.TH_HI

/-- Registers of GGE, part 1. -/
def tabGge1 : List Fld := [
  fa 0x100c 64 0x20 0 32 .rw 0x80000000 .all,  -- TG_TH_LO.TH_LO
  fa 0x1010 64 0x20 0 16 .rw 1 (.u 1 0xffff 1),  -- TG_W.WMIN
  fa 0x1010 64 0x20 16 16 .rw 0xffff (.u 1 0xffff 1),  -- TG_W.WMAX
  fa 0x1014 64 0x20 0 8 .rw 1 (.u 1 0xff 1),  -- TG_LAG.LAG
  fa 0x1018 64 0x20 0 1 .ro 0 .all,  -- TG_STAT.ACTIVE
  fa 0x1018 64 0x20 1 1 .ro 0 .all,  -- TG_STAT.CFG_FAULT
  fa 0x1018 64 0x20 16 16 .ro 0 .all,  -- TG_STAT.FIRE_CNT
  fa 0x101c 64 0x20 0 32 .rc 0 .all]  -- TG_SUPP_CNT.CNT

/-- Registers of GGE. -/
def tabGge : List Fld := tabGge0 ++ tabGge1

/-- Registers of DEC, part 0. -/
def tabDec0 : List Fld := [
  f1 0x40 0 1 .rw 1 .all,  -- DEC_CFG.CLR_ON_PART
  f1 0x44 0 16 .rw 0 .all,  -- DEC_BO_SAFE.SAFE
  fa 0x80 8 4 0 7 .rw 0x7f (.en owners 127),  -- DEC_WOWN.OWNER
  fa 0x80 8 4 8 7 .rw 0x7f (.en owners 127),  -- DEC_WOWN.OWNER
  fa 0x80 8 4 16 7 .rw 0x7f (.en owners 127),  -- DEC_WOWN.OWNER
  fa 0x80 8 4 24 7 .rw 0x7f (.en owners 127),  -- DEC_WOWN.OWNER
  fa 0x100 32 4 0 32 .ro 0 .all,  -- DEC_WORD0–31.WORD
  fa 0x180 32 4 0 32 .ro 0 .all,  -- DEC_SUBST0–31.SUBST
  f1 0x200 0 16 .ro 0 .all,  -- DEC_TRIP_OUT.OUT
  f1 0x204 0 16 .ro 0 .all,  -- DEC_TRIP_PIN.PIN
  f1 0x208 0 16 .ro 0 .all,  -- DEC_BO_OUT.OUT
  f1 0x20c 0 16 .ro 0 .all,  -- DEC_BO_PIN.PIN
  f1 0x214 0 32 .w1c 0 .all,  -- DEC_GATED_HIST.HIST
  f1 0x220 0 32 .ro 0 .all,  -- DEC_BI.BI
  f1 0x224 0 32 .ro 0 .all,  -- DEC_BI_RAW.RAW
  f1 0x228 0 32 .w1c 0 .all,  -- DEC_BI_CHG.CHG
  f1 0x230 0 32 .rc 0 .all,  -- DEC_DENY_CNT.CNT
  f2 0x400 32 0x20 4 4 0 10 .rw 0 .all,  -- TM_SRC0–3.BIT
  f2 0x400 32 0x20 4 4 15 1 .rw 0 .all,  -- TM_SRC0–3.VALID
  f2 0x400 32 0x20 4 4 16 10 .rw 0 .all,  -- TM_SRC0–3.BIT
  f2 0x400 32 0x20 4 4 31 1 .rw 0 .all,  -- TM_SRC0–3.VALID
  fa 0x410 16 0x20 0 14 .rw 0x96 (.u 1 10000 1),  -- TM_HOLD.PULSE_MIN
  fa 0x610 16 0x20 0 14 .rw 0 (.u 0 10000 1),  -- TM_HOLD.PULSE_MIN
  fa 0x800 32 4 0 15 .rw 0x7d0 (.u 0 0x4e20 1),  -- BI_CFG.DEB
  fa 0x800 32 4 16 1 .rw 0 .all,  -- BI_CFG.INVERT
  fa 0x1000 128 0x60 0 1 .rw 0 .all,  -- PUB_CFG.EN
  fa 0x1000 128 0x60 1 1 .rw 0 .all,  -- PUB_CFG.TEST
  fa 0x1000 128 0x60 2 1 .rw 0 .all,  -- PUB_CFG.SIM
  fa 0x1000 128 0x60 3 1 .rw 1 .all,  -- PUB_CFG.QUAL_EN
  fa 0x1000 128 0x60 8 6 .rw 1 (.u 1 0x20 1),  -- PUB_CFG.NMEM
  fa 0x1004 128 0x60 0 16 .rw 0x3e8 (.u 0x64 0xea60 1),  -- PUB_TIME.T0
  fa 0x1004 128 0x60 16 10 .rw 2 (.u 1 0x3e8 1),  -- PUB_TIME.T1
  fa 0x1008 128 0x60 0 2 .ro 0 .all,  -- PUB_STAT.STATE
  fa 0x1008 128 0x60 2 1 .ro 0 .all,  -- PUB_STAT.GATED
  fa 0x1008 128 0x60 4 4 .ro 0 .all,  -- PUB_STAT.REASON
  fa 0x100c 128 0x60 0 32 .ro 0 .all,  -- PUB_STNUM.STNUM
  fa 0x1010 128 0x60 0 32 .ro 0 .all,  -- PUB_SQNUM.SQNUM
  fa 0x1014 128 0x60 0 32 .rc 0 .all,  -- PUB_TX_CNT.CNT
  fa 0x1018 128 0x60 0 32 .rc 0 .all,  -- PUB_MERGE_CNT.CNT
  f2 0x1020 128 0x60 16 4 0 10 .rw 0 .all]  -- PUB_MEM0–15.BIT

/-- Registers of DEC, part 1. -/
def tabDec1 : List Fld := [
  f2 0x1020 128 0x60 16 4 16 10 .rw 0 .all,  -- PUB_MEM0–15.BIT
  fa 0x8000 8192 4 0 32 .rw 0 .all]  -- PUB_TMPL

/-- Registers of DEC. -/
def tabDec : List Fld := tabDec0 ++ tabDec1

/-- Registers of APC (R261, R262; the IOMMU page is assumption 19), part 0. -/
def tabApc0 : List Fld := [
  f1 0x40 0 16 .rw 1 (.u 1 0xffff 1),  -- APC_CORE_EN.EN
  f1 0x44 0 16 .ro 1 .all,  -- APC_CORE_STAT.RUNNING
  f1 0x44 16 16 .ro 0 .all,  -- APC_CORE_STAT.WFI
  f1 0x48 0 32 .rw 0 .all,  -- APC_CORE_SCPART.PART
  fa 0x50 4 4 0 16 .rw 0xffff .all,  -- APC_SC_MASK0–3.MASK
  fa 0x400 64 0x10 2 30 .rw 0 .all,  -- APC_SLC_MSI_LO.ADDR
  fa 0x404 64 0x10 0 32 .rw 0 .all,  -- APC_SLC_MSI_HI.ADDR
  fa 0x408 64 0x10 0 32 .rw 0 .all,  -- APC_SLC_MSI_DATA.DATA
  f1 0x10000 0 32 .ro 0x60610 .all,  -- IOMMU capabilities
  f1 0x10004 0 32 .ro 0x124 .all,  -- IOMMU capabilities high
  f1 0x10008 0 3 .rw 0 (.u 0 0 1),  -- IOMMU fctl
  f1 0x10010 0 4 .rw 0 (.en [0, 1, 2] 0),  -- IOMMU ddtp.mode
  f1 0x10010 4 1 .ro 0 .all,  -- IOMMU ddtp.busy
  f1 0x10010 10 22 .rw 0 .all,  -- IOMMU ddtp.PPN
  f1 0x10014 0 22 .rw 0 .all,  -- IOMMU ddtp.PPN high
  f1 0x10018 0 5 .rw 0 .all,  -- IOMMU cqb.LOG2SZ
  f1 0x10018 10 22 .rw 0 .all,  -- IOMMU cqb.PPN
  f1 0x1001c 0 22 .rw 0 .all,  -- IOMMU cqb.PPN high
  f1 0x10020 0 32 .ro 0 .all,  -- IOMMU cqh
  f1 0x10024 0 32 .rw 0 .all,  -- IOMMU cqt
  f1 0x10028 0 5 .rw 0 .all,  -- IOMMU fqb.LOG2SZ
  f1 0x10028 10 22 .rw 0 .all,  -- IOMMU fqb.PPN
  f1 0x1002c 0 22 .rw 0 .all,  -- IOMMU fqb.PPN high
  f1 0x10030 0 32 .rw 0 .all,  -- IOMMU fqh
  f1 0x10034 0 32 .ro 0 .all,  -- IOMMU fqt
  f1 0x10038 0 32 .rw 0 (.u 0 0 1),  -- IOMMU pq
  f1 0x1003c 0 32 .rw 0 (.u 0 0 1),  -- IOMMU pq
  f1 0x10040 0 32 .rw 0 (.u 0 0 1),  -- IOMMU pq
  f1 0x10044 0 32 .rw 0 (.u 0 0 1),  -- IOMMU pq
  f1 0x10048 0 1 .rw 0 .all,  -- IOMMU cqcsr.cqen
  f1 0x10048 1 1 .rw 0 .all,  -- IOMMU cqcsr.cie
  f1 0x10048 8 1 .w1c 0 .all,  -- IOMMU cqcsr.cqmf
  f1 0x10048 9 1 .w1c 0 .all,  -- IOMMU cqcsr.cmd_to
  f1 0x10048 10 1 .w1c 0 .all,  -- IOMMU cqcsr.cmd_ill
  f1 0x10048 11 1 .ro 0 .all,  -- IOMMU cqcsr.fence_w_ip
  f1 0x10048 16 1 .ro 0 .all,  -- IOMMU cqcsr.cqon
  f1 0x10048 17 1 .ro 0 .all,  -- IOMMU cqcsr.busy
  f1 0x1004c 0 1 .rw 0 .all,  -- IOMMU fqcsr.fqen
  f1 0x1004c 1 1 .rw 0 .all,  -- IOMMU fqcsr.fie
  f1 0x1004c 8 1 .w1c 0 .all]  -- IOMMU fqcsr.fqmf

/-- Registers of APC (R261, R262; the IOMMU page is assumption 19), part 1. -/
def tabApc1 : List Fld := [
  f1 0x1004c 9 1 .w1c 0 .all,  -- IOMMU fqcsr.fqof
  f1 0x1004c 16 1 .ro 0 .all,  -- IOMMU fqcsr.fqon
  f1 0x1004c 17 1 .ro 0 .all,  -- IOMMU fqcsr.busy
  f1 0x10050 0 32 .rw 0 (.u 0 0 1),  -- IOMMU pqcsr
  f1 0x10054 0 1 .w1c 0 .all,  -- IOMMU ipsr.cip
  f1 0x10054 1 1 .w1c 0 .all,  -- IOMMU ipsr.fip
  fa 0x10058 2 4 0 32 .rw 0 (.u 0 0 1),  -- IOMMU iocntovf, iocntinh
  fa 0x10060 126 4 0 32 .rw 0 (.u 0 0 1),  -- IOMMU performance monitor
  fa 0x10258 6 4 0 32 .rw 0 (.u 0 0 1),  -- IOMMU tr_req
  f1 0x102f8 0 4 .rw 0 .all,  -- IOMMU icvec
  f1 0x102f8 4 4 .rw 0 .all,  -- IOMMU icvec
  f1 0x102f8 8 4 .rw 0 (.u 0 0 1),  -- IOMMU icvec.pmiv
  f1 0x102f8 12 4 .rw 0 (.u 0 0 1),  -- IOMMU icvec.piv
  fa 0x10300 16 0x10 2 30 .rw 0 .all,  -- IOMMU msi_addr
  fa 0x10304 16 0x10 0 24 .rw 0 .all,  -- IOMMU msi_addr high
  fa 0x10308 16 0x10 0 32 .rw 0 .all,  -- IOMMU msi_data
  fa 0x1030c 16 0x10 0 1 .rw 0 .all]  -- IOMMU msi_vec_ctl.M

/-- Registers of APC (R261, R262; the IOMMU page is assumption 19). -/
def tabApc : List Fld := tabApc0 ++ tabApc1

/-- Registers of SLC, part 0. -/
def tabSlc0 : List Fld := [
  fa 0x1000 64 0x80 0 1 .rw 0 .dyn,  -- S_CFG.EN
  fa 0x1000 64 0x80 2 2 .rw 0 .all,  -- S_CFG.SCPART
  fa 0x1000 64 0x80 4 1 .rw 0 .all,  -- S_CFG.RATE_EN
  fa 0x1000 64 0x80 5 1 .rw 0 .all,  -- S_CFG.BCAST
  fa 0x1004 64 0x80 0 20 .rw 0 .all,  -- S_PSCID.PSCID
  fa 0x1008 64 0x80 0 32 .rw 0 .all,  -- S_GATP_LO.PPN
  fa 0x100c 64 0x80 0 12 .rw 0 .all,  -- S_GATP_HI.PPN
  fa 0x100c 64 0x80 12 14 .rw 0 .all,  -- S_GATP_HI.VMID
  fa 0x100c 64 0x80 28 4 .rw 9 (.en [8, 9] 9),  -- S_GATP_HI.MODE
  fa 0x1010 64 0x80 12 20 .rw 0 .all,  -- S_SQ_BASE_LO.BASE
  fa 0x1014 64 0x80 0 32 .rw 0 .all,  -- S_SQ_BASE_HI.BASE
  fa 0x1018 64 0x80 12 20 .rw 0 .all,  -- S_CQ_BASE_LO.BASE
  fa 0x101c 64 0x80 0 32 .rw 0 .all,  -- S_CQ_BASE_HI.BASE
  fa 0x1020 64 0x80 12 20 .rw 0 .all,  -- S_RQ_BASE_LO.BASE
  fa 0x1024 64 0x80 0 32 .rw 0 .all,  -- S_RQ_BASE_HI.BASE
  fa 0x1028 64 0x80 0 4 .rw 6 (.u 4 0xc 1),  -- S_QCFG.SQ_LOG2
  fa 0x1028 64 0x80 4 4 .rw 6 (.u 4 0xc 1),  -- S_QCFG.RQ_LOG2
  fa 0x1030 64 0x80 0 8 .rw 0x10 (.u 1 0xff 1),  -- S_SCHED.WEIGHT
  fa 0x1034 64 0x80 0 15 .rw 0x5dc0 (.u 1 0x5dc0 1),  -- S_RATE.RATE
  fa 0x1038 64 0x80 0 15 .rw 0x40 (.u 0x10 0x4000 1),  -- S_BURST.BURST
  fa 0x103c 64 0x80 0 32 .rw 0 .all,  -- S_MAC_LO.MAC
  fa 0x1040 64 0x80 0 16 .rw 0 .all,  -- S_MAC_HI.MAC
  fa 0x1044 64 0x80 0 14 .rw 0x64 (.u 1 0x2710 1),  -- S_PART_TMO.PART_TMO
  fa 0x1048 64 0x80 12 20 .rw 0 .all,  -- S_LOG_GPA_LO.GPA
  fa 0x104c 64 0x80 0 32 .rw 0 .all,  -- S_LOG_GPA_HI.GPA
  fa 0x1050 64 0x80 3 29 .rw 0 .all,  -- S_LOG_BASEA_LO.BASE
  fa 0x1054 64 0x80 0 32 .rw 0 .all,  -- S_LOG_BASEA_HI.BASE
  fa 0x1058 64 0x80 3 29 .rw 0 .all,  -- S_LOG_BASEB_LO.BASE
  fa 0x105c 64 0x80 0 32 .rw 0 .all,  -- S_LOG_BASEB_HI.BASE
  fa 0x1060 64 0x80 0 22 .rw 1 (.u 1 0x200000 1),  -- S_LOG_PAGES.PAGES
  fa 0x1064 64 0x80 0 4 .rw 0 (.en [1, 2, 3, 4, 5, 6, 7, 8] 3),  -- S_OP.OP
  fa 0x1064 64 0x80 31 1 .rw 0 .all,  -- S_OP.GO
  fa 0x1068 64 0x80 0 3 .ro 0 .all,  -- S_STAT.STATE
  fa 0x1068 64 0x80 3 1 .ro 0 .all,  -- S_STAT.BUSY
  fa 0x1068 64 0x80 4 1 .ro 0 .all,  -- S_STAT.PEND
  fa 0x1068 64 0x80 5 1 .ro 0 .all,  -- S_STAT.LOG
  fa 0x1068 64 0x80 6 1 .ro 0 .all,  -- S_STAT.ACT
  fa 0x1068 64 0x80 7 1 .ro 0 .all,  -- S_STAT.ESCALATED
  fa 0x1068 64 0x80 16 16 .ro 0 .all,  -- S_STAT.OUTST
  fa 0x106c 64 0x80 0 32 .ro 0 .all]  -- S_TOKENS.TOKENS

/-- Registers of SLC, part 1. -/
def tabSlc1 : List Fld := [
  fa 0x1070 64 0x80 0 32 .rc 0 .all,  -- S_GATED_CNT.CNT
  fa 0x1074 64 0x80 0 32 .rc 0 .all,  -- S_DESC_CNT.CNT
  fa 0x1078 64 0x80 0 32 .rc 0 .all,  -- S_LOG_OOR_CNT.CNT
  fa 0x107c 64 0x80 0 32 .rc 0 .all]  -- S_MIG_ERR_CNT.CNT

/-- Registers of SLC. -/
def tabSlc : List Fld := tabSlc0 ++ tabSlc1

/-- Registers of SPN, part 0. -/
def tabSpn0 : List Fld := [
  f1 0x40 0 1 .rw 1 .all,  -- SPN_CFG.RUN_AT_START
  f1 0x40 1 1 .rw 0 .all,  -- SPN_CFG.STOP_OUT
  f1 0x44 0 14 .rw 0x64 (.u 1 0x2710 1),  -- SPN_WD.WD_TIME
  f1 0x80 0 2 .ro 0 .all,  -- SPN_STAT.STATE
  f1 0x80 2 1 .ro 0 .all,  -- SPN_STAT.PENDING
  f1 0x80 3 1 .ro 0 .all,  -- SPN_STAT.FORCED
  f1 0x80 4 1 .ro 0 .all,  -- SPN_STAT.RET_MISMATCH
  f1 0x80 5 1 .ro 0 .all,  -- SPN_STAT.RET_TORN
  f1 0x80 6 1 .ro 0 .all,  -- SPN_STAT.SWITCHING
  f1 0x84 0 32 .ro 0 .all,  -- SPN_IMG.SERIAL
  f1 0x88 0 32 .ro 0 .all,  -- SPN_PEND_IMG.SERIAL
  f1 0x8c 0 32 .ro 0 .all,  -- SPN_CYC_CNT.CNT
  f1 0x90 0 32 .ro 0 .all,  -- SPN_CYC_LAST.NS
  f1 0x94 0 32 .rc 0xffffffff .all,  -- SPN_CYC_MIN.NS
  f1 0x98 0 32 .rc 0 .all,  -- SPN_CYC_MAX.NS
  f1 0x9c 0 32 .ro 0 .all,  -- SPN_SWITCH_GAP.NS
  f1 0xa0 0 9 .ro 0 .all,  -- SPN_FRC_COUNT.COUNT
  f1 0xb0 0 32 .rc 0 .all,  -- SPN_WD_CNT.CNT
  f1 0xb4 0 32 .rc 0 .all,  -- SPN_ERRQ_LOST_CNT.CNT
  f1 0xb8 0 32 .rc 0 .all,  -- SPN_DECODE_ERR_CNT.CNT
  f1 0xbc 0 32 .rc 0 .all,  -- SPN_RET_COMMIT_CNT.CNT
  f1 0xc0 0 32 .rc 0 .all,  -- SPN_RET_DEFER_CNT.CNT
  f1 0x100 0 8 .rw 0 .all,  -- SPN_FRC_SEL.INDEX
  f1 0x104 0 32 .ro 0 .all,  -- SPN_FRC_ID.ID
  f1 0x108 0 32 .ro 0 .all,  -- SPN_FRC_MASK_LO.MASK
  f1 0x10c 0 32 .ro 0 .all,  -- SPN_FRC_MASK_HI.MASK
  f1 0x110 0 32 .ro 0 .all,  -- SPN_FRC_VAL_LO.VALUE
  f1 0x114 0 32 .ro 0 .all,  -- SPN_FRC_VAL_HI.VALUE
  f1 0x118 0 1 .ro 0 .all,  -- SPN_FRC_STAT.VALID
  fa 0x1000 128 0x40 0 1 .rw 0 .all,  -- SP_CFG.EN
  fa 0x1000 128 0x40 1 1 .rw 0 .all,  -- SP_CFG.TEST
  fa 0x1000 128 0x40 2 1 .rw 0 .all,  -- SP_CFG.SIM
  fa 0x1000 128 0x40 3 1 .rw 1 .all,  -- SP_CFG.QUAL_EN
  fa 0x1004 128 0x40 0 16 .rw 0x3e8 (.u 0x64 0xea60 1),  -- SP_TIME.T0
  fa 0x1004 128 0x40 16 10 .rw 2 (.u 1 0x3e8 1),  -- SP_TIME.T1
  fa 0x1008 128 0x40 0 2 .ro 0 .all,  -- SP_STAT.STATE
  fa 0x1008 128 0x40 2 1 .ro 0 .all,  -- SP_STAT.GATED
  fa 0x1008 128 0x40 4 4 .ro 0 .all,  -- SP_STAT.REASON
  fa 0x1008 128 0x40 8 6 .ro 0 .all,  -- SP_STAT.NMEM
  fa 0x100c 128 0x40 0 32 .ro 0 .all]  -- SP_STNUM.STNUM

/-- Registers of SPN, part 1. -/
def tabSpn1 : List Fld := [
  fa 0x1010 128 0x40 0 32 .ro 0 .all,  -- SP_SQNUM.SQNUM
  fa 0x1014 128 0x40 0 32 .rc 0 .all,  -- SP_TX_CNT.CNT
  fa 0x1018 128 0x40 0 32 .rc 0 .all,  -- SP_MERGE_CNT.CNT
  fa 0x8000 8192 4 0 32 .rw 0 .all]  -- SP_TMPL

/-- Registers of SPN. -/
def tabSpn : List Fld := tabSpn0 ++ tabSpn1

/-- Registers of SFI, part 0. -/
def tabSfi0 : List Fld := [
  f1 0x40 0 32 .rwl 0 .all,  -- SFI_PAR_CRC.PAR_CRC
  f1 0x44 0 11 .rwl 0x1e0 (.u 1 0x5a0 1),  -- SFI_DEG.DEG_TIME
  f1 0x48 0 14 .rwl 0x3e8 (.u 0x64 0x2710 1),  -- SFI_TP.TP_PERIOD
  f1 0x48 16 12 .rwl 0xc8 (.u 0x32 0x7d0 1),  -- SFI_TP.TP_WIDTH
  f1 0x4c 0 10 .rwl 0x64 (.u 0xa 0x3e8 1),  -- SFI_RB.RB_DELAY
  f1 0x50 0 5 .rwl 3 (.u 0 0x14 1),  -- SFI_SI.SI_FILT
  f1 0x50 16 10 .rwl 0x64 (.u 5 0x3e8 1),  -- SFI_SI.DISC_TIME
  f1 0x80 16 16 .ro 0 .all,  -- SFI_STAT.DEG_LEFT
  f1 0x84 0 8 .ro 0 .all,  -- SFI_FAULT.CODE1
  f1 0x84 8 3 .ro 0 .all,  -- SFI_FAULT.DRIVE1
  f1 0x84 16 8 .ro 0 .all,  -- SFI_FAULT.CODE2
  f1 0x84 24 3 .ro 0 .all,  -- SFI_FAULT.DRIVE2
  f1 0x88 0 8 .ro 0 .all,  -- SFI_SO.CMD
  f1 0x88 8 8 .ro 0 .all,  -- SFI_SO.PAD
  f1 0x88 16 8 .ro 0 .all,  -- SFI_SO.RB
  f1 0x8c 0 16 .ro 0 .all,  -- SFI_SIN.SI
  f1 0x90 0 32 .rc 0 .all,  -- SFI_ECC_CNT.CNT
  f1 0x94 0 32 .rc 0 .all,  -- SFI_FAULT_CNT.CNT
  fa 0x100 4 0x40 0 1 .rwl 0 .all,  -- D_CFG.EN
  fa 0x100 4 0x40 1 1 .rwl 0 .all,  -- D_CFG.OPERM_EN
  fa 0x100 4 0x40 2 1 .rwl 0 .all,  -- D_CFG.CPERM_EN
  fa 0x100 4 0x40 8 4 .rwl 0 .all,  -- D_CFG.CLOSE_MASK
  fa 0x104 4 0x40 0 10 .rwl 0 .all,  -- D_REQ.OPEN_BIT
  fa 0x104 4 0x40 16 10 .rwl 0 .all,  -- D_REQ.CLOSE_BIT
  fa 0x108 4 0x40 0 10 .rwl 0 .all,  -- D_PERM.OPEN_PERM_BIT
  fa 0x108 4 0x40 16 10 .rwl 0 .all,  -- D_PERM.CLOSE_PERM_BIT
  fa 0x10c 4 0x40 0 14 .rwl 0x2710 (.u 0x64 0x3e80 1),  -- D_TRAVEL.TRAVEL_MAX
  fa 0x10c 4 0x40 16 13 .rwl 0x3e8 (.u 0x32 0x1388 1),  -- D_TRAVEL.START_TIME
  fa 0x110 4 0x40 0 16 .rwl 0x190 (.u 1 0xffff 1),  -- D_CNT.TRAVEL_CNT
  fa 0x110 4 0x40 16 8 .rwl 8 .all,  -- D_CNT.CNT_TOL
  fa 0x110 4 0x40 24 4 .rwl 2 .all,  -- D_CNT.REV_TOL
  fa 0x114 4 0x40 0 16 .rwl 0x32 (.u 1 0xffff 1),  -- D_EDGE.EDGE_MIN
  fa 0x114 4 0x40 16 16 .rwl 0x7d0 (.u 1 0xffff 1),  -- D_EDGE.EDGE_MAX
  fa 0x118 4 0x40 0 32 .rwl 0 (.u 0 0 1),  -- D_RSV.—
  fa 0x120 4 0x40 0 3 .ro 0 .all,  -- D_STAT.DSTATE
  fa 0x120 4 0x40 4 2 .ro 0 .all,  -- D_STAT.POS
  fa 0x120 4 0x40 6 1 .ro 0 .all,  -- D_STAT.PROVEN_OPEN
  fa 0x120 4 0x40 7 1 .ro 0 .all,  -- D_STAT.PROVEN_CLOSE
  fa 0x124 4 0x40 0 32 .rc 0 .all,  -- D_OPS_CNT.CNT
  fa 0x128 4 0x40 0 32 .rc 0 .all]  -- D_REFUSE_CNT.CNT

/-- Registers of SFI, part 1. -/
def tabSfi1 : List Fld := [
  fa 0x12c 4 0x40 0 4 .ro 0 .all,  -- D_LAST.REASON
  fa 0x12c 4 0x40 16 16 .ro 0 .all,  -- D_LAST.TRAVEL
  fa 0x130 4 0x40 0 32 .ro 0 .all]  -- D_POS_CNT.CNT

/-- Registers of SFI. -/
def tabSfi : List Fld := tabSfi0 ++ tabSfi1

/-- Registers of RDN, part 0. -/
def tabRdn0 : List Fld := [
  f1 0x40 0 1 .rwl 0 .all,  -- RDN_CFG.ROLE
  f1 0x40 1 1 .rwl 0 .all,  -- RDN_CFG.SIDE
  f1 0x40 2 1 .rw 0 .all,  -- RDN_CFG.PREFERRED
  f1 0x40 3 1 .rw 1 .all,  -- RDN_CFG.AUTO_TAKEBACK
  f1 0x40 8 3 .rw 5 .all,  -- RDN_CFG.HEALTH_MASK
  f1 0x44 0 12 .rw 0x3c (.u 1 0xe10 1),  -- RDN_HOLDOFF.HOLDOFF
  f1 0x48 0 32 .rwl 0 .all,  -- RDN_PAIR_ID.PAIR_ID
  f1 0x4c 0 6 .rwl 0 .all,  -- RDN_KEY.ARB_KEY
  f1 0x4c 8 6 .rwl 0 .all,  -- RDN_KEY.ELADE_KEY
  f1 0x50 0 32 .rw 0 .all,  -- RDN_ARB_MAC_LO.MAC
  f1 0x54 0 16 .rw 0 .all,  -- RDN_ARB_MAC_HI.MAC
  f1 0x58 0 32 .rw 0 .all,  -- RDN_MAC_LO.MAC
  f1 0x5c 0 16 .rw 0 .all,  -- RDN_MAC_HI.MAC
  f1 0x60 0 12 .rw 1 (.u 1 0xffe 1),  -- RDN_ARB_VLAN.VID
  f1 0x60 12 3 .rw 7 .all,  -- RDN_ARB_VLAN.PCP
  f1 0x60 15 1 .rw 1 .all,  -- RDN_ARB_VLAN.TAGGED
  f1 0x80 0 4 .ro 0 .all,  -- RDN_STAT.MSTATE
  f1 0x80 4 1 .ro 0 .all,  -- RDN_STAT.TOK_IN
  f1 0x80 5 1 .ro 0 .all,  -- RDN_STAT.HB_ALIVE
  f1 0x80 6 1 .ro 0 .all,  -- RDN_STAT.LINK_UP
  f1 0x80 7 1 .ro 0 .all,  -- RDN_STAT.LANE0
  f1 0x80 8 1 .ro 0 .all,  -- RDN_STAT.LANE1
  f1 0x80 9 1 .ro 0 .all,  -- RDN_STAT.IN_WINDOW
  f1 0x80 10 1 .ro 0 .all,  -- RDN_STAT.PEER_HEALTHY
  f1 0x80 11 1 .ro 0 .all,  -- RDN_STAT.PEER_TOKEN
  f1 0x80 12 1 .ro 0 .all,  -- RDN_STAT.PEER_FORCED
  f1 0x80 13 1 .ro 0 .all,  -- RDN_STAT.MIRROR_OK
  f1 0x80 14 1 .ro 0 .all,  -- RDN_STAT.HB_PATH_FAULT
  f1 0x84 0 8 .ro 0 .all,  -- RDN_HEALTH.HEALTH
  f1 0x88 0 32 .ro 0 .all,  -- RDN_EPOCH.EPOCH
  f1 0x8c 0 32 .ro 0 .all,  -- RDN_PEER_LOT.LOT
  f1 0x90 0 24 .ro 0 .all,  -- RDN_PEER_DIE.DIE
  f1 0x90 24 1 .ro 0 .all,  -- RDN_PEER_DIE.SIDE
  f1 0x94 0 12 .ro 0 .all,  -- RDN_HOLD_LEFT.LEFT
  f1 0x98 0 8 .ro 0 .all,  -- RDN_WIN_LEFT.LEFT
  f1 0x9c 0 32 .ro 0 .all,  -- RDN_LAST_GAP.GAP
  f1 0xa0 0 32 .rc 0 .all,  -- RDN_SWITCH_CNT.CNT
  f1 0xa4 0 32 .rc 0 .all,  -- RDN_DENY_CNT.CNT
  f1 0xa8 0 32 .rc 0 .all,  -- RDN_ARB_REJ_CNT.CNT
  f1 0xac 0 32 .rc 0 .all]  -- RDN_LINK_DOWN_CNT.CNT

/-- Registers of RDN, part 1. -/
def tabRdn1 : List Fld := [
  f1 0xb0 0 32 .rc 0 .all,  -- RDN_RETX_CNT.CNT
  f1 0xb4 0 32 .rc 0 .all,  -- RDN_HB_PATH_CNT.CNT
  f1 0xb8 0 32 .rc 0 .all,  -- RDN_TOK_STUCK_CNT.CNT
  f1 0xbc 0 32 .rc 0 .all]  -- RDN_HELLO_REJ_CNT.CNT

/-- Registers of RDN. -/
def tabRdn : List Fld := tabRdn0 ++ tabRdn1

/-- Registers of CHK. -/
def tabChk : List Fld := [
  f1 0x40 0 1 .rwl 0 .all,  -- CHK_CFG.ATT_MODE
  f1 0x40 8 6 .rwl 0 .all,  -- CHK_CFG.ATT_KEY
  f1 0x44 0 2 .rwl 0 .all,  -- CHK_VERIFY.CFG_KEY
  f1 0x44 4 2 .rwl 0 .all,  -- CHK_VERIFY.SPN_KEY
  f1 0x80 0 1 .ro 0 .all,  -- CHK_STAT.SEALED
  f1 0x80 1 1 .ro 0 .all,  -- CHK_STAT.DEBUG
  f1 0x80 2 1 .ro 0 .all,  -- CHK_STAT.DEBUG_PENDING
  f1 0x80 3 1 .ro 0 .all,  -- CHK_STAT.ROOT1_VALID
  f1 0x80 4 1 .ro 0 .all,  -- CHK_STAT.RECOVERY
  f1 0x80 5 1 .ro 0 .all,  -- CHK_STAT.FW_SLOT
  f1 0x80 6 1 .ro 0 .all,  -- CHK_STAT.UNCONFIRMED
  f1 0x84 0 32 .ro 0 .all,  -- CHK_KEY_CTR_LO.CTR
  f1 0x88 0 32 .ro 0 .all,  -- CHK_KEY_CTR_HI.CTR
  f1 0x8c 0 32 .ro 0 .all,  -- CHK_MIN_SVN.SVN
  f1 0x90 0 32 .ro 0 .all,  -- CHK_FW_SVN.SVN
  f1 0x94 0 32 .ro 0 .all,  -- CHK_FW_SERIAL.SERIAL
  f1 0x98 0 32 .ro 0 .all,  -- CHK_SYM_BAD_LO.BAD
  f1 0x9c 0 32 .ro 0 .all,  -- CHK_SYM_BAD_HI.BAD
  f1 0xa0 0 4 .ro 0 .all,  -- CHK_ASYM_BAD.BAD
  f1 0xa0 4 2 .ro 0 .all,  -- CHK_ASYM_BAD.ROOT_BAD
  f1 0xa4 0 32 .ro 0 .all,  -- CHK_SYM_VALID_LO.VALID
  f1 0xa8 0 32 .ro 0 .all,  -- CHK_SYM_VALID_HI.VALID
  f1 0xb0 0 32 .rc 0 .all,  -- CHK_UPD_REJ_CNT.CNT
  f1 0xb4 0 32 .rc 0 .all,  -- CHK_VERIFY_FAIL_CNT.CNT
  f1 0xb8 0 32 .rc 0 .all,  -- CHK_TAG_FAIL_CNT.CNT
  f1 0xc0 0 3 .rw 5 (.u 5 7 1),  -- CHK_EXT_SEL.SEL
  fa 0xc4 8 4 0 32 .wo 0 .all,  -- CHK_EXT_DATA0–7.DATA
  f1 0xe4 0 1 .rw 0 .all,  -- CHK_EXT_GO.GO
  fa 0x100 64 4 0 32 .ro 0 .all,  -- CHK_MEAS0–7.MEAS
  fa 0x200 8 4 0 32 .ro 0 .all]  -- CHK_ID_DIGEST.DIGEST

/-- Registers of EVR. -/
def tabEvr : List Fld := [
  f1 0x40 0 21 .ro 0 .all,  -- EVR_COUNT.COUNT
  f1 0x44 0 11 .ro 0 .all,  -- EVR_GEN.GEN
  f1 0x48 0 14 .ro 0 .all,  -- EVR_BUF.BUF
  f1 0x4c 0 32 .ro 0 .all,  -- EVR_LOST_CNT.CNT
  f1 0x50 0 32 .rc 0 .all,  -- EVR_DROP_CNT.CNT
  f1 0x54 0 32 .rc 0 .all]  -- EVR_FLUSH_CNT.CNT

/-- MEM has its faceplate only (R28). -/
def tabMem : List Fld := []


/-- Registers of the slice window (R265). -/
def tabSw : List Fld := [
  f1 0x40 0 3 .ro 0 .all,  -- SW_STATE.STATE
  f1 0x44 0 16 .rw 0 .all,  -- SQ_TAIL.TAIL
  f1 0x48 0 16 .ro 0 .all,  -- SQ_HEAD.HEAD
  f1 0x4c 0 4 .ro 0 .all,  -- SQ_REFUSE.CAUSE
  f1 0x50 0 32 .rc 0 .all,  -- SQ_REFUSE_CNT.CNT
  f1 0x54 0 16 .rw 0 .all,  -- CQ_HEAD.HEAD
  f1 0x58 0 16 .ro 0 .all,  -- CQ_TAIL.TAIL
  f1 0x5c 0 16 .rw 0 .all,  -- RQ_TAIL.TAIL
  f1 0x60 0 16 .ro 0 .all,  -- RQ_HEAD.HEAD
  f1 0x64 0 32 .rc 0 .all,  -- RQ_DROP_CNT.CNT
  f1 0x70 0 1 .rw 0 .all,  -- SW_CMD_CTL.GO
  f1 0x74 0 1 .ro 0 .all,  -- SW_CMD_STAT.BUSY
  f1 0x74 1 1 .w1c 0 .all,  -- SW_CMD_STAT.RSP_VALID
  fa 0x800 32 0x10 0 32 .rw 0 .all,  -- DW_VAL
  fa 0x804 32 0x10 0 32 .wo 0 .all,  -- DW_SET
  fa 0x808 32 0x10 0 32 .wo 0 .all,  -- DW_CLR
  f1 0xa00 0 32 .ro 0 .all,  -- DW_BI
  fa 0x1000 1024 4 0 32 .rw 0 .all,  -- MBX_REQ
  fa 0x2000 1024 4 0 32 .ro 0 .all]  -- MBX_RSP

end Sys2Proof.Machine
end

