-- ==== Sys2Proof/Machine/Ops.lean ====
section
/-!
DEFINITION. The shared operations: sparse maps, memory in its canonical form, the register file, counters and
interrupts, islands, time units and stamps, output, and `runOn`, the one way a meaning makes its next state.
-/

namespace Sys2Proof.Machine

/-! ### Sparse maps -/

/-- The value listed for a key. -/
def findK {α : Type} : List (Nat × α) → Nat → Option α
  | [], _ => none
  | (a, b) :: m, k => if a = k then some b else findK m k

/-- The map with a key set, keys rising. -/
def putK {α : Type} : List (Nat × α) → Nat → α → List (Nat × α)
  | [], k, v => [(k, v)]
  | (a, b) :: m, k, v =>
    if a = k then (k, v) :: m else if k < a then (k, v) :: (a, b) :: m else (a, b) :: putK m k v

/-- The map without a key. -/
def delK {α : Type} (m : List (Nat × α)) (k : Nat) : List (Nat × α) := m.filter fun e => e.1 ≠ k

/-! ### Memory -/

/-- The byte at an address of stored memory; an unlisted address reads as 0 (assumption 3). -/
def memRead (m : List Host.Cell) (a : Nat) : Byte := (findK m a).getD 0

/-- Stored memory with one byte written, in its canonical form. -/
def memWrite : List Host.Cell → Nat → Byte → List Host.Cell
  | [], k, v => if v = 0 then [] else [(k, v)]
  | (a, b) :: m, k, v =>
    if a = k then (if v = 0 then m else (k, v) :: m)
    else if k < a then (if v = 0 then (a, b) :: m else (k, v) :: (a, b) :: m)
    else (a, b) :: memWrite m k v

/-- The bytes of `w`, newest first, written into memory oldest first. -/
def memWriteAll (m : List Host.Cell) (w : List Host.Cell) : List Host.Cell :=
  w.foldr (fun c m => memWrite m c.1 c.2) m

/-- Addresses strictly rising and no entry equal to what an unlisted address reads as. -/
def Memory.wf : List Host.Cell → Bool
  | [] => true
  | [c] => decide (c.2 ≠ 0)
  | c :: d :: m => decide (c.2 ≠ 0) && decide (c.1 < d.1) && Memory.wf (d :: m)

/-- The byte at an address as the step sees it: writes of this step first. -/
def rdByte (s : State) (a : Nat) : Byte := (findK s.wr a).getD (memRead s.mem a)

def rdBytes (s : State) (a n : Nat) : List Byte := (List.range n).map fun i => rdByte s (a + i)

/-- A little-endian number read from memory. -/
def rdNum (s : State) (a n : Nat) : Nat := ofLe (rdBytes s a n)

/-- Bytes written at rising addresses; newest first in `wr`. -/
def pushBytes : List Host.Cell → Nat → List Byte → List Host.Cell
  | w, _, [] => w
  | w, a, b :: bs => pushBytes ((a, b) :: w) (a + 1) bs

def wrBytes (s : State) (a : Nat) (bs : List Byte) : State := { s with wr := pushBytes s.wr a bs }

def wrNum (s : State) (a n v : Nat) : State := wrBytes s a (le n v)

/-- Every byte of a range written 0: those that are not 0. -/
def zeroRange (s : State) (lo hi : Nat) : State :=
  let z (l : List Host.Cell) : List Host.Cell :=
    (l.filter fun c => decide (lo ≤ c.1) && decide (c.1 < hi)).map fun c => (c.1, 0)
  { s with wr := z s.mem ++ z s.wr ++ s.wr }

/-! ### The step's frame -/

/-- Fuses are burnt and never restored: the identity stays, the seal stays once set (R2, R347, R351). -/
def Fuses.burn (old new : Fuses) : Fuses := { old with sealed := old.sealed || new.sealed, debug := new.debug }

/-- The end of a step that began in `s` and whose effect is `t`: the queue as it was, the bytes written placed in memory, the
fuses burnt. -/
def stepEnd (s t : State) : State :=
  { t with pending := s.pending, mem := memWriteAll s.mem t.wr, wr := [], fuse := Fuses.burn s.fuse t.fuse }

/-- The next state of a meaning. Every meaning of the model is of this form. -/
def runOn (f : State → State) (s : State) : Host.Outcome State Fault Refusal := .next (stepEnd s (f s))

/-- Something sent out of the block. -/
def emit (s : State) (o : Out) : State := { s with out := s.out ++ [o] }

/-! ### Registers -/

/-- The table of a block. -/
def Blk.table : Blk → List Fld
  | .aon => tabAon | .clk => tabClk | .tim => tabTim | .cmd => tabCmd | .prt => tabPrt | .swc => tabSwc | .svs => tabSvs
  | .acq => tabAcq | .phx => tabPhx | .nrg => tabNrg | .twv => tabTwv | .gge => tabGge | .dec => tabDec | .apc => tabApc
  | .slc => tabSlc | .spn => tabSpn | .sfi => tabSfi | .rdn => tabRdn | .chk => tabChk | .evr => tabEvr | .mem => tabMem
  | .sw => tabSw

/-- The fields of the register at an offset, lowest bit first. -/
def fieldsOf (b : Blk) (o : Nat) : List Fld :=
  (if o < 0x40 then tabFace else b.table).filter fun f => f.hits o

/-- EN of PG_CTL resets to 1, and stays 1, in these blocks. -/
def Blk.alwaysOn : Blk → Bool
  | .aon | .clk | .tim | .cmd | .chk | .evr | .mem => true
  | _ => false

/-- The reset value of a word: of its table, and the two cases that depend on the block or the port. -/
def resetWord (b : Blk) (i o : Nat) : Nat :=
  if o = 8 then 4 + ofBit b.alwaysOn 0
  else if b = .prt ∧ o = 0x40 ∧ 48 ≤ i then 3 + 1536 * 2 ^ 16
  else (fieldsOf b o).foldl (fun a f => a + f.rst * 2 ^ f.lsb) 0

/-- The selector that banks a register, when one does. -/
def bankSel (b : Blk) (o : Nat) : Option Nat :=
  match b with
  | .svs =>
    if 0xC0 ≤ o ∧ o < 0xE8 then some 0x80 else if 0x104 ≤ o ∧ o < 0x124 then some 0x100
    else if o = 0x144 then some 0x140 else none
  | .swc => if o = 0x168 then some 0x140 else none
  | .phx =>
    if 0x104 ≤ o ∧ o < 0x128 then some 0x100 else if o = 0x144 then some 0x140 else if o = 0x14C then some 0x148
    else if o = 0x1C4 then some 0x1C0 else if 0x204 ≤ o ∧ o < 0x214 then some 0x200 else none
  | .twv => if 0x604 ≤ o ∧ o < 0x624 then some 0x600 else none
  | _ => none

/-- The key of a register of bank `k`. -/
def bankKey (b : Blk) (i o k : Nat) : Nat := b.base i + o + k * 2 ^ 40

/-- The key under which a register stands in the file: its address, and its bank above bit 40. -/
def regKey (s : State) (b : Blk) (i o : Nat) : Nat :=
  match bankSel b o with
  | none => b.base i + o
  | some so => bankKey b i o ((findK s.regs (b.base i + so)).getD 0).toNat

/-- The stored word of a register, of a given bank. -/
def regB (s : State) (b : Blk) (i o k : Nat) : Nat :=
  match findK s.regs (bankKey b i o k) with
  | some w => w.toNat
  | none => resetWord b i o

def setRegB (s : State) (b : Blk) (i o k v : Nat) : State :=
  { s with regs := putK s.regs (bankKey b i o k) (BitVec.ofNat 32 v) }

/-- The stored word of a register. -/
def reg (s : State) (b : Blk) (i o : Nat) : Nat :=
  match findK s.regs (regKey s b i o) with
  | some w => w.toNat
  | none => resetWord b i o

def setReg (s : State) (b : Blk) (i o v : Nat) : State :=
  { s with regs := putK s.regs (regKey s b i o) (BitVec.ofNat 32 v) }

/-- A field of the register of instance 0 of a block. -/
def fld (s : State) (b : Blk) (o lsb w : Nat) : Nat := getBits (reg s b 0 o) lsb w

def fldI (s : State) (b : Blk) (i o lsb w : Nat) : Nat := getBits (reg s b i o) lsb w

def flag (s : State) (b : Blk) (o n : Nat) : Bool := bit (reg s b 0 o) n

def setFld (s : State) (b : Blk) (o lsb w v : Nat) : State := setReg s b 0 o (setBits (reg s b 0 o) lsb w v)

/-- A 64-bit value in two registers, low word first. -/
def reg2 (s : State) (b : Blk) (i o : Nat) : Nat := reg s b i o + reg s b i (o + 4) * 2 ^ 32

def setReg2 (s : State) (b : Blk) (i o v : Nat) : State := setReg (setReg s b i o v) b i (o + 4) (v / 2 ^ 32)

/-- Registers of a block, every page and bank, back to their reset values, but for those that are kept. -/
def clearRegs (s : State) (drop : Nat → Bool) : State := { s with regs := s.regs.filter fun e => !drop e.1 }

/-- Is the key one of a register of the block's pages? The offset within the page. -/
def keyIn (b : Blk) (i key : Nat) : Option Nat :=
  let a := key % 2 ^ 40
  if b.base i ≤ a ∧ a < b.base i + b.size then some (a - b.base i) else none

/-! ### Counters and interrupts -/

/-- A saturating counter increased by `n`. -/
def cntBy (s : State) (b : Blk) (i o n : Nat) : State := setReg s b i o (min (reg s b i o + n) 0xFFFFFFFF)

def cnt (s : State) (b : Blk) (i o : Nat) : State := cntBy s b i o 1

/-- The same for a counter of a bank. -/
def cntB (s : State) (b : Blk) (o k : Nat) : State := setRegB s b 0 o k (min (regB s b 0 o k + 1) 0xFFFFFFFF)

/-- An interrupt event of a block (R431): its pulse sets the pending bit while it is enabled. -/
def irqI (s : State) (b : Blk) (i n : Nat) : State :=
  if bit (reg s b i 0x14) n then setReg s b i 0x18 (Nat.lor (reg s b i 0x18) (2 ^ n)) else s

def irq (s : State) (b : Blk) (n : Nat) : State := irqI s b 0 n

/-- EN of a block. -/
def enabled (s : State) (b : Blk) : Bool := flag s b 8 0

/-! ### Islands -/

def islNum : Island → Nat
  | .aon => 0 | .time => 1 | .portA => 2 | .portB => 3 | .switch => 4 | .stream => 5 | .acq => 6 | .phasor => 7
  | .app => 8 | .rt => 9 | .safety => 10 | .security => 11 | .memory => 12

def islands : List Island :=
  [.aon, .time, .portA, .portB, .switch, .stream, .acq, .phasor, .app, .rt, .safety, .security, .memory]

/-- What a source island discards at a crossing into an island that is down, counted in its own block (R15); no register shows the
count (assumption 102). -/
def crossDrop (s : State) (b : Blk) (i : Nat) : State :=
  let k := b.code * 64 + i
  { s with drops := putK s.drops k ((findK s.drops k).getD 0 + 1) }

/-- Is the island held in reset? -/
def held (s : State) (i : Island) : Bool := s.aon.inReset.toNat.testBit (islNum i)

/-- The Acquisition clock, steered by the Time island, is stopped while that is not on REFCLK (R373, R378). -/
def acqStopped (s : State) : Bool := s.clk.sysOnRc || s.clk.refclk.failed || !s.clk.lock.toNat.testBit 1

/-- Is the island held in reset or its clock stopped (R15)? -/
def isDown (s : State) (i : Island) : Bool := held s i || (i == .acq && acqStopped s)

def isUp (s : State) (i : Island) : Bool := !isDown s i

/-- A module is blank until the application of a configuration image has ended (R10), and in RECOVERY (R352). -/
def blank (s : State) : Bool := !s.aon.blankLeft

/-- The island of an external port (R11). -/
def portIsland (p : Nat) : Island := if p < 32 then .portA else .portB

/-! ### Time -/

/-- One nanosecond in the units of the timebase, 2^-47 ns. -/
def nsU : Nat := 2 ^ 47

def secU : Nat := 1000000000 * nsU

/-- The timestamp of an instant, truncated to the fraction (R46). -/
def stampOf (t q e : Nat) : Stamp :=
  { sec := t / secU, ns := t % secU / nsU, frac := t % nsU / 2 ^ 31, quality := q, epoch := e }

/-- The timestamp of the present instant. -/
def nowStamp (s : State) : Stamp := stampOf s.tim.time s.tim.quality s.tim.epoch

/-- What one cycle of the Time island adds to the timebase (R61), on the RC oscillator at its nominal rate (R378). -/
def cycleU (s : State) : Nat := if s.clk.sysOnRc then 2 ^ 48 else (2 ^ 48 + s.tim.freq).toNat

/-- The value that the timebase had at an instant counted back from its present value, with the quality and the epoch in force
(R53): an instant before a step has the value, the quality and the epoch from before it. -/
def wayBack : List StepRec → (t : Int) → (q e : Nat) → Int × Nat × Nat
  | [], t, q, e => (t, q, e)
  | r :: l, t, q, e => if t < r.new then wayBack l ((r.old : Int) - ((r.new : Int) - t)) r.quality r.epoch else (t, q, e)

/-- The stamp captured at an instant counted back from now, less the fixed delays (R51, R53, R81). -/
def stampAt (s : State) (t delay : Int) : Stamp :=
  let (t, q, e) := wayBack s.tim.steps t s.tim.quality s.tim.epoch
  stampOf (t - delay).toNat q e

/-- The timestamp an event a few cycles ago took (R51): `dt` timebase cycles before now. -/
def stampBefore (s : State) (dt : Nat) : Stamp := stampAt s ((s.tim.time : Int) - dt * (cycleU s : Int)) 0

/-- Time that no step moves, in 2^-47 ns. -/
def mono (s : State) : Nat := ((s.tim.time : Int) - s.tim.stepSum).toNat

/-- The instant of a stamp in 2^-16 ns. -/
def Stamp.units (t : Stamp) : Nat := (t.sec * 1000000000 + t.ns) * 65536 + t.frac

/-- The 16-byte form of a timestamp (R47). -/
def Stamp.bytes (t : Stamp) : List Byte :=
  le 8 t.sec ++ le 4 (t.ns + t.quality * 2 ^ 30) ++ le 2 t.frac ++ le 2 (ofBit t.soft 0 + t.epoch % 4 * 2)

/-- Nanoseconds of the timebase, from its epoch. -/
def nowNs (s : State) : Nat := s.tim.time / nsU

/-- Nanoseconds of the time that no step moves; durations outside the Time island are counted in it. -/
def elapsedNs (s : State) : Nat := mono s / nsU

def nowSec (s : State) : Nat := s.tim.time / secU

/-! ### Grains in time (R49) -/

/-- The label's instant of grain `g`, counted from second 0, in 2^-16 ns. -/
def grainUnits (g : Nat) : Nat := g / 14400 * 1000000000 * 65536 + g % 14400 * 625000 * 65536 / 9

/-- Grains with their labelled instant before time `t` (2^-47 ns). -/
def grainsBefore (t : Nat) : Nat :=
  let g := t * 9 / (625000 * nsU)
  g + ofBit (decide (grainUnits g * 2 ^ 31 < t)) 0 + ofBit (decide (grainUnits (g + 1) * 2 ^ 31 < t)) 0

/-- The nanosecond of the strobe of grain `k` after the top of the second. -/
def strobeNs (k : Nat) : Nat := (k * 625000 + 4) / 9

/-- The first grain from `g` on that no forward step has jumped over (R20); the ranges stand in rising order. -/
def pastGaps : List (Nat × Nat) → Nat → Nat
  | [], g => g
  | (a, b) :: l, g => pastGaps l (if a ≤ g ∧ g < b then b else g)

/-- The number of the next grain: after the last one generated but for those jumped over, and with none generated the first not yet
passed. -/
def nextGrain (s : State) : Nat :=
  match s.tim.lastGrain with
  | some (sec, k) => pastGaps s.tim.gaps (sec * 14400 + k + 1)
  | none => grainsBefore s.tim.time

/-! ### Lists -/

/-- The list with its n-th element replaced by a function of it. -/
def modAt {α : Type} (l : List α) (n : Nat) (f : α → α) : List α :=
  l.mapIdx fun i a => if i = n then f a else a

/-- Apply a state change for each element. -/
def forEach {α : Type} (l : List α) (s : State) (f : State → α → State) : State := l.foldl f s

/-- The indices below `n` whose bit is set. -/
def bitsOf (v n : Nat) : List Nat := (List.range n).filter fun i => v.testBit i

end Sys2Proof.Machine
end

