-- ==== Sys2Proof/Machine/EventRec.lean ====
section
/-!
DEFINITION. The event recorder (R361 to R369): records, the buffer and its flushes, drops, the high-water mark and
the full log, and the rebuilding of the log at a start.
-/

namespace Sys2Proof.Machine

/-- The number of records the log and the buffer hold, and the high-water mark (R364, R366). -/
def evrMax : Nat := 1048576
def evrHighMark : Nat := 943719
def evrBufMax : Nat := 8192

/-- Where record `n` of the log lies (R361). -/
def evrAddr (n : Nat) : Nat := 0x50570000 + (n - 1) * 32

/-- The bytes of a record with its sequence, generation and time (R361). -/
def evrBytes (seq gen : Nat) (t : Stamp) (r : EvRec) : List Byte :=
  withCrc (le 4 (seq % 2 ^ 21 + gen * 2 ^ 21) ++ le 4 t.sec ++ le 4 (t.ns + t.quality * 2 ^ 30) ++
    le 2 r.code.toNat ++
    [BitVec.ofNat 8 (ofBit (r.soft || t.soft) 0 + t.epoch % 4 * 2 + r.sev.toNat * 8), 0] ++ le 2 r.inst.toNat ++
    le 2 r.a.toNat ++ le 8 r.b.toNat)

/-- The position of the first record of the buffer. -/
def evrFirstBuf (s : State) : Nat := s.evr.count - s.evr.buf.length + 1

/-- The buffer's records written to MRAM in sequence order. -/
def evrWriteOut (s : State) : State :=
  let s := wrBytes s (evrAddr (evrFirstBuf s)) s.evr.buf.flatten
  { s with evr := { s.evr with buf := [] } }

/-- A flush (R364): an empty buffer makes none. -/
def evrFlush (s : State) : State :=
  if s.evr.buf = [] then s else cnt (evrWriteOut s) .evr 0 0x54

/-- A record takes the next sequence number and enters the buffer. -/
def evrPush (s : State) (t : Stamp) (r : EvRec) : State :=
  let n := s.evr.count + 1
  let s := { s with evr := { s.evr with count := n, buf := s.evr.buf ++ [evrBytes n s.evr.gen t r] } }
  if n = evrMax then irq { s with evr := { s.evr with full := true } } .evr 2 else s

/-- A record at the recorder, the buffer having room (R365, R366): first the record of those dropped before, then the
record itself, then the high-water record. -/
def evrAccept (s : State) (t : Stamp) (r : EvRec) : State :=
  let s :=
    if s.evr.dropped > 0 ∧ s.evr.buf.length + 1 < evrBufMax ∧ s.evr.count + 1 < evrMax then
      let d := s.evr.dropped
      let s := { s with evr := { s.evr with dropped := 0 } }
      evrPush s t { code := 0x1412, sev := 1, inst := 0, a := 0, b := BitVec.ofNat 64 d }
    else s
  let s := evrPush s t r
  if s.evr.high = false ∧ s.evr.count ≥ evrHighMark then
    let s := irq { s with evr := { s.evr with high := true } } .evr 1
    if s.evr.count < evrMax then
      evrPush s t { code := 0x1411, sev := 1, inst := 0, a := 0, b := BitVec.ofNat 64 s.evr.count }
    else s
  else s

/-- The events that firmware of a small core detects carry a grade 1 stamp (R54, R361): the start records and those
of CMD, SPN, SFI and CHK (assumption 26). -/
def softCode (code : Nat) : Bool :=
  code == 0x0110 || code == 0x0111 || code / 256 == 4 || code / 256 == 16 || code / 256 == 17 || code / 256 == 19

/-- An event record reaches the recorder (R361 to R366). -/
def evtRec (s : State) (r : EvRec) : State :=
  let t := nowStamp s
  if isDown s .memory then { s with evr := { s.evr with aonDrop := min (s.evr.aonDrop + 1) 0xFFFFFFFF } }
  else if s.evr.count ≥ evrMax then { s with evr := { s.evr with lost := min (s.evr.lost + 1) 0xFFFFFFFF } }
  else if s.evr.buf.length ≥ evrBufMax then
    irq (cnt { s with evr := { s.evr with dropped := s.evr.dropped + 1 } } .evr 0 0x50) .evr 3
  else
    let s := evrAccept s t r
    if s.aon.pf then evrWriteOut s
    else if r.sev = 2 ∨ s.evr.buf.length ≥ 4096 then evrFlush s
    else s

/-- An event by its code, severity, instance and arguments (R363). -/
def evt (s : State) (code sev inst a b : Nat) : State :=
  evtRec s { code := BitVec.ofNat 16 code, sev := BitVec.ofNat 2 sev, inst := BitVec.ofNat 16 inst,
             a := BitVec.ofNat 16 a, b := BitVec.ofNat 64 b, soft := softCode code }

/-- The release of the Memory island: the records dropped at the crossing are counted and stated (R365). -/
def evrRelease (s : State) : State :=
  let d := s.evr.aonDrop
  if d = 0 then s
  else
    let s := cntBy { s with evr := { s.evr with aonDrop := 0 } } .evr 0 0x50 d
    evt s 0x1412 1 0 0 d

/-- A record of the log is valid at its position (R367): CRC, generation and sequence. -/
def evrValid (s : State) (n : Nat) : Bool :=
  let bs := rdBytes s (evrAddr n) 32
  crcOk bs && decide (numAt bs 0 4 % 2 ^ 21 = n)

def evrGenAt (s : State) (n : Nat) : Nat := rdNum s (evrAddr n) 4 / 2 ^ 21

/-- How far the log runs from position `n` (R367). -/
def evrRun : (fuel : Nat) → State → (gen n : Nat) → Nat
  | 0, _, _, n => n - 1
  | f + 1, s, g, n => if evrValid s n && evrGenAt s n == g then evrRun f s g (n + 1) else n - 1

/-- A clear (R368): generation, the record at position 1, counters and flags. -/
def evrClearWith (s : State) (gen portClass idx a0 removed lost : Nat) : State :=
  let s := { s with evr := { s.evr with gen := gen % 2048, count := 0, buf := [], lost := 0, high := false, full := false } }
  let t := nowStamp s
  let s := evrPush s t { code := 0x1410, sev := 1, inst := BitVec.ofNat 16 (portClass + idx * 16),
                         a := BitVec.ofNat 16 a0, b := BitVec.ofNat 64 (removed + lost * 2 ^ 32), soft := true }
  evrFlush s

/-- The log rebuilt from MRAM at a start (R367), an interrupted clear completed. -/
def evrRebuild (s : State) : State :=
  let s := { s with evr := { s.evr with buf := [], full := false, high := false, dropped := 0 } }
  if evrValid s 1 then
    let g := evrGenAt s 1
    let n := evrRun evrMax s g 2
    { s with evr := { s.evr with gen := g, count := n, full := decide (n ≥ evrMax), high := decide (n ≥ evrHighMark) } }
  else if !crcOk (rdBytes s (evrAddr 1) 32) && evrValid s 2 then
    evrClearWith s (evrGenAt s 2 + 1) 7 0 1 0xFFFFFFFF s.evr.lost
  else { s with evr := { s.evr with gen := 0, count := 0 } }

end Sys2Proof.Machine
end

