-- ==== Sys2Proof/Machine/Chuck.lean ====
section
/-!
DEFINITION. Chuck's slots: copies, shares, tags, loads into working keys and commits (R343 to R346, R350, R358), and
the keys that images are verified under (R355).
-/

namespace Sys2Proof.Machine

def xorBytes (a b : List Byte) : List Byte := List.zipWith (fun x y => x ^^^ y) a b

/-- The unmasked value of a copy (R344). -/
def Key.value (k : Key) : List Byte := xorBytes k.share k.mask

/-- The 16 bytes of metadata of a copy: identifier, usage, length, version (R344; their order is assumption 27). -/
def Key.meta (k : Key) : List Byte :=
  le 4 k.id.toNat ++ le 2 k.usage.toNat ++ le 2 k.share.length ++ le 4 k.version.toNat ++ le 4 0

/-- The integrity tag of a copy (R345). -/
def keyTag (kind slot : Nat) (k : Key) : List Byte :=
  shake256 (Config.tagSecret ++ le 1 kind ++ le 1 slot ++ k.meta ++ k.value) 16

/-- A copy made of a value with a fresh mask (R344), its tag set (R345). Public keys are not masked. -/
def mkKey (mask : List Byte) (kind slot : Nat) (value : List Byte) (id : BitVec 32) (usage : BitVec 16)
    (version : BitVec 32) : Key :=
  let m := if kind = 0 then mask else List.replicate value.length 0
  let k : Key := { share := xorBytes value m, mask := m, id := id, usage := usage, version := version, tag := [] }
  { k with tag := keyTag kind slot k }

/-- Bytes of the random bit generator (assumption 25). -/
def draw (s : State) (n : Nat) : List Byte × State :=
  (le n (Config.rbg s.chk.rbg), { s with chk := { s.chk with rbg := s.chk.rbg + 1 } })

def Slot.empty : Slot := { a := none, b := none, active := false, valid := false, bad := false }

/-- A slot written at manufacture: asymmetric slot 0 and ROOT0 (R343). -/
def Slot.made (kind n : Nat) (v : List Byte) : Slot :=
  { a := some (mkKey [] kind n v 0 0 1), b := none, active := false, valid := true, bad := false }

/-- The slot of a kind and number. -/
def slotOf (s : State) (kind n : Nat) : Slot :=
  match (s.chk.slots.find? fun e => e.1 == (kind, n)).map (·.2) with
  | some x => x
  | none =>
    if kind = 1 ∧ n = 0 then Slot.made 1 0 Config.devicePublic
    else if kind = 2 ∧ n = 0 then Slot.made 2 0 Config.root0
    else Slot.empty

def setSlot (s : State) (kind n : Nat) (x : Slot) : State :=
  { s with chk := { s.chk with slots := ((kind, n), x) :: s.chk.slots.filter fun e => e.1 != (kind, n) } }

/-- The active copy. -/
def Slot.key (x : Slot) : Option Key := if x.valid then (if x.active then x.b else x.a) else none

def Slot.inactive (x : Slot) : Option Key := if x.active then x.a else x.b

/-- Is a kind and number a slot of R343? -/
def slotExists (kind n : Nat) : Bool :=
  (kind == 0 && decide (n < 64)) || (kind == 1 && decide (n < 4)) || (kind == 2 && decide (n < 2))

/-- A slot whose active copy failed its tag (R345). -/
def tagFailed (s : State) (kind n : Nat) : State :=
  let x := slotOf s kind n
  let s := setSlot s kind n { x with bad := true }
  let s := irq (cnt s .chk 0 0xB8) .chk 1
  let s := if kind = 2 ∨ (kind = 1 ∧ n = 0) then { s with chk := { s.chk with recoveryNext := true } } else s
  evt s 0x1310 2 (n + kind * 256) 0 0

/-- Is the slot as it was written at manufacture? Its tag is right by construction (`made_tag` in Laws). -/
def asMade (s : State) (kind n : Nat) : Bool := !(s.chk.slots.any fun e => e.1 == (kind, n))

/-- The check of a slot's active copy (R345): the state after it, and whether the slot may be used. -/
def checkSlot (s : State) (kind n : Nat) : State × Option Key :=
  let x := slotOf s kind n
  match x.key with
  | none => (s, none)
  | some k =>
    if x.bad then (s, none)
    else if asMade s kind n then (s, some k)
    else if k.tag = keyTag kind n k then (s, some k) else (tagFailed s kind n, none)

/-- The load of a symmetric slot into a working-key register by a consumer with a usage bit (R343, R346): under debug
the volatile test slots take the slots' place (R358). -/
def loadSym (s : State) (n usageBit : Nat) : State × Option (List Byte) :=
  if s.fuse.debug then
    match findK s.chk.test n with
    | some k => (s, if k.usage.toNat.testBit usageBit then some k.value else none)
    | none => (s, none)
  else
    match checkSlot s 0 n with
    | (s, some k) => (s, if k.usage.toNat.testBit usageBit then some k.value else none)
    | (s, none) => (s, none)

/-- The public key of an asymmetric or root slot, when it may be used. -/
def loadPub (s : State) (kind n : Nat) : State × Option (List Byte) :=
  match checkSlot s kind n with
  | (s, some k) => (s, some k.value)
  | (s, none) => (s, none)

/-- The key that an image is verified under (R355): 0 ROOT1, else the asymmetric slot; the test root under debug. -/
def verifyKey (s : State) (sel : Nat) : State × Option (List Byte) :=
  if s.fuse.debug then (s, some Config.testRoot)
  else if sel = 0 then loadPub s 2 1 else loadPub s 1 sel

/-- The identity digest (R351). -/
def idDigest (f : Fuses) : List Byte :=
  shake256 (ascii "ASDAR-ID" ++ le 4 f.lot.toNat ++ [f.wafer, f.dieX, f.dieY] ++ Config.devicePublic) 32

/-- The length of an ML-DSA-65 signature and public key. -/
def sigLen : Nat := 3309
def pubLen : Nat := 1952

/-- A commit record (R350). -/
def commitBytes (seq kind slot copy op minSvn ctr : Nat) (tag : List Byte) : List Byte :=
  withCrc (le 4 0x54434D43 ++ le 4 seq ++ le 1 kind ++ le 1 slot ++ le 1 copy ++ le 1 op ++ le 4 minSvn ++ le 8 ctr ++
    padTo 16 tag ++ List.replicate 20 0)

/-- Where commit record `seq` lies in the ring of 256 (R344). -/
def commitAddr (seq : Nat) : Nat := 0x5053_0000 + 0x1A000 + (seq - 1) % 256 * 64

/-- The regions of the key shadow partition by kind: base, size and number of cells (R344). -/
def cellRegion (kind : Nat) : Nat × Nat × Nat :=
  if kind = 0 then (0x50530000, 128, 128) else if kind = 1 then (0x50534000, 10240, 8) else (0x50548000, 2048, 4)

/-- The number within its region of the cell that holds copy `c` of slot `n` (R344). -/
def cellNum (kind n : Nat) (c : Bool) : Nat := Config.cellPerm kind (2 * n + ofBit c 0) % (cellRegion kind).2.2

def cellAddr (kind n : Nat) (c : Bool) : Nat := (cellRegion kind).1 + (cellRegion kind).2.1 * cellNum kind n c

/-- What the cell of a copy holds (R344): shares, or the public key alone, and metadata, under the keystream, then the tag. -/
def cellBytes (kind n : Nat) (c : Bool) (k : Key) : List Byte :=
  let plain := (if kind = 0 then k.share ++ k.mask else k.value) ++ k.meta
  xorBytes plain (kmac256 Config.scrambleSecret (le 4 (cellNum kind n c) ++ le 4 k.version.toNat) plain.length
    (ascii "ASDAR-CELL")) ++ k.tag

/-- A slot with one of its copies replaced. -/
def Slot.withCopy (x : Slot) (c : Bool) (k : Key) : Slot := if c then { x with b := some k } else { x with a := some k }

/-- A commit begins: its copy stands in the shadow partition, its record is to come (R350). -/
def commitStart (s : State) (kind n op : Nat) (copy erase : Bool) (tag : List Byte) (minSvn : BitVec 32) (ctr : Nat) : State :=
  { s with chk := { s.chk with upd := some {
      kind := kind, slot := n, op := op, copy := copy, erase := erase, tag := tag, minSvn := minSvn, ctr := BitVec.ofNat 64 ctr,
      phase := 0, result := none } } }

/-- The version that the next copy of a slot takes (R350). -/
def Slot.nextVersion (x : Slot) : BitVec 32 :=
  match x.key with
  | some k => k.version + 1
  | none => (match x.inactive with | some k => k.version + 1 | none => 1)

/-- Steps 1 and 2 of R350: the inactive copy written into its cell and read back; none when it does not read back as written. -/
def commitKey (s : State) (kind n op ctr : Nat) (value : List Byte) (id : BitVec 32) (usage : BitVec 16) : Option State :=
  let x := slotOf s kind n
  let (m, s) := if kind = 0 then draw s value.length else ([], s)
  let k := mkKey m kind n value id usage x.nextVersion
  let c := !x.active
  let s := wrBytes (setSlot s kind n (x.withCopy c k)) (cellAddr kind n c) (cellBytes kind n c k)
  if isUp s .memory && rdBytes s (cellAddr kind n c) (cellBytes kind n c k).length == cellBytes kind n c k then
    some (commitStart s kind n op c false k.tag s.chk.minSvn ctr)
  else none

/-- The erase of a slot begins (R347, R350): no copy is written. -/
def commitErase (s : State) (kind n op ctr : Nat) : Option State :=
  if isUp s .memory then some (commitStart s kind n op (!(slotOf s kind n).active) true [] s.chk.minSvn ctr) else none

/-- A commit that names no slot begins: the operations 6 and 7 of R348, and 8, the SVN advance. -/
def commitBare (s : State) (op : Nat) (minSvn : BitVec 32) (ctr : Nat) : Option State :=
  if isUp s .memory then some (commitStart s 3 0 op false true [] minSvn ctr) else none

/-- The record of a commit in progress. -/
def Upd.record (s : State) (u : Upd) : List Byte :=
  commitBytes (s.chk.commitSeq + 1) u.kind u.slot (ofBit u.copy 0) u.op u.minSvn.toNat u.ctr.toNat u.tag

/-- MEAS register `i` extended with the digest of an object (R354). -/
def extend (s : State) (i : Nat) (obj : List Byte) : State :=
  { s with chk := { s.chk with
      meas := modAt s.chk.meas i fun m => shake256 (m ++ shake256 obj 32) 32 } }

end Sys2Proof.Machine
end

