-- ==== Sys2Proof/Machine/Ports.lean ====
section
/-!
DEFINITION. External ports: speeds, delays and stamps (R70, R81), pairs (R86), VLAN acceptance and steering (R76, R78),
the duplicate-discard table (R89 to R91), and the timestamp queues (R52).
-/

namespace Sys2Proof.Machine

/-- An address from its two registers, first byte in [7:0] of the low word. -/
def macOf (lo hi : Nat) : Mac := BitVec.ofNat 48 (ofBe (le 4 lo ++ le 2 hi))

def macBytes (m : Mac) : List Byte := be 6 m.toNat

def isMulticast (m : Mac) : Bool := m.toNat.testBit 40

def broadcast : Mac := 0xFFFFFFFFFFFF

/-- The module's address at a port. -/
def portMac (s : State) (p : Nat) : Mac := macOf (reg s .prt p 0x68) (reg s .prt p 0x6C)

/-- Is the port on the part (R72)? -/
def portPresent (s : State) (p : Nat) : Bool :=
  match s.fuse.variant with
  | .n => decide (p < 12) || (decide (48 ≤ p) && decide (p < 52))
  | _ => decide (p < 64)

def portUp (s : State) (p : Nat) : Bool := s.ports.link.toNat.testBit p

/-- The speed code of a port: 0 1 Gbit/s, 1 2.5, 2 10, 3 25. -/
def speedOf (s : State) (p : Nat) : Nat := fldI s .prt p 0x40 0 2

def fecOf (s : State) (p : Nat) : Nat := fldI s .prt p 0x40 4 2

/-- Fixed receive and transmit delays in 0.01 ns (R81). -/
def rxDelay (speed fec : Nat) : Nat :=
  if speed = 0 then 11840 else if speed = 1 then 4960
  else if speed = 2 then (if fec = 0 then 3680 else 24160)
  else if fec = 0 then 2240 else if fec = 1 then 10400 else 24320

def txDelay (speed fec : Nat) : Nat :=
  if speed = 0 then 7680 else if speed = 1 then 3120
  else if speed = 2 then (if fec = 0 then 2400 else 3040)
  else if fec = 0 then 1600 else if fec = 1 then 1920 else 2880

/-- Byte time in 0.01 ns (R103). -/
def byteTime (speed : Nat) : Nat := if speed = 0 then 800 else if speed = 1 then 320 else if speed = 2 then 80 else 32

/-- RX_ADJ and TX_ADJ in 0.1 ns. -/
def rxAdj (s : State) (p : Nat) : Int := toSigned 16 (fldI s .prt p 0x64 0 16)
def txAdj (s : State) (p : Nat) : Int := toSigned 16 (fldI s .prt p 0x64 16 16)

/-- 0.01 ns in the units of the timebase. -/
def centiU (v : Int) : Int := v * (nsU : Int) / 100

/-- The stamp of a frame received at a port, `dt` timebase cycles ago at the PCS, and of one sent now (R51, R53, R81). -/
def rxStamp (s : State) (p dt : Nat) : Stamp :=
  stampAt s ((s.tim.time : Int) - dt * (cycleU s : Int)) (centiU (rxDelay (speedOf s p) (fecOf s p)) + centiU (10 * rxAdj s p))

/-- The stamp of a frame sent with its timestamp point at an instant of the timebase (R51, R53, R81). -/
def txStamp (s : State) (p : Nat) (t : Int) : Stamp :=
  stampAt s t (-(centiU (txDelay (speedOf s p) (fecOf s p)) + centiU (10 * txAdj s p)))

/-! ### Pairs -/

/-- The word of pair `n`. -/
def pairWord (s : State) (n : Nat) : Nat := reg s .swc 0 (0x9000 + 4 * n)

def pairA (w : Nat) : Nat := getBits w 0 6
def pairB (w : Nat) : Nat := getBits w 8 6
def pairHsr (w : Nat) : Bool := bit w 16
def pairEn (w : Nat) : Bool := bit w 31

/-- The enabled pair of a port: its number and word. -/
def pairOf (s : State) (p : Nat) : Option (Nat × Nat) :=
  ((List.range 16).map fun n => (n, pairWord s n)).find? fun e =>
    pairEn e.2 && (pairA e.2 == p || pairB e.2 == p)

/-- The other port of a pair. -/
def pairOther (w p : Nat) : Nat := if pairA w = p then pairB w else pairA w

/-- May EN of a pair word be 1 (R86)? `n` is the pair. -/
def pairLegal (s : State) (n w : Nat) : Bool :=
  let a := pairA w
  let b := pairB w
  a != b && speedOf s a == speedOf s b && portPresent s a && portPresent s b &&
    (List.range 16).all fun m => m == n || !pairEn (pairWord s m) ||
      (pairA (pairWord s m) != a && pairB (pairWord s m) != a && pairA (pairWord s m) != b && pairB (pairWord s m) != b)

/-- The pair that holds the port, when it is of the mode. -/
def inHsr (s : State) (p : Nat) : Bool :=
  match pairOf s p with
  | some (_, w) => pairHsr w
  | none => false

/-- Is the port in an enabled PRP pair? -/
def inPrp (s : State) (p : Nat) : Bool :=
  match pairOf s p with
  | some (_, w) => !pairHsr w
  | none => false

/-! ### Duplicate discard -/

/-- Outcome of the duplicate-discard table (R89). -/
def ddLookup (s : State) (pair : Nat) (src : Mac) (seq : BitVec 16) (onA : Bool) : State × Bool :=
  let same (e : Dd) : Bool := e.pair == pair && e.src == src && e.seq == seq
  let born := elapsedNs s
  let fresh : Dd := { pair := pair, src := src, seq := seq, seenA := onA, seenB := !onA, born := born }
  match s.swc.dd.find? same with
  | none =>
    let set := Config.ddSet pair src.toNat seq.toNat % 4096
    let inSet := s.swc.dd.filter fun e => Config.ddSet e.pair e.src.toNat e.seq.toNat % 4096 == set
    let s := if inSet.length ≥ 4 then
        match inSet with
        | [] => s
        | o :: r =>
          let old := r.foldl (fun a b => if b.born < a.born then b else a) o
          cnt { s with swc := { s.swc with dd := s.swc.dd.filter fun e => e != old } } .swc 0 0x904C
      else s
    ({ s with swc := { s.swc with dd := s.swc.dd ++ [fresh] } }, true)
  | some e =>
    let rest := s.swc.dd.filter fun x => !same x
    if (if onA then e.seenA else e.seenB) then
      ({ s with swc := { s.swc with dd := rest ++ [fresh] } }, true)
    else (cnt { s with swc := { s.swc with dd := rest } } .swc 0 0x9048, false)

/-- Removal of a pair's entries and sequence counter (R92). -/
def pairRestart (s : State) (n : Nat) : State :=
  { s with swc := { s.swc with dd := s.swc.dd.filter (fun e => e.pair != n), pairSeq := delK s.swc.pairSeq n } }

/-! ### VLAN and steering -/

/-- VID and PCP of a received frame (R76). -/
def vidOf (s : State) (p : Nat) (f : Frame) : Nat × Nat :=
  let w := reg s .prt p 0x48
  match f.vlan with
  | none => (getBits w 0 12, getBits w 12 3)
  | some (v, c) => (if v.toNat = 0 then getBits w 0 12 else v.toNat, c.toNat)

/-- Bit of a VID in the member or untag words of a port. -/
def vlanBit (s : State) (p base vid : Nat) : Bool := bit (reg s .prt p (base + 4 * (vid / 32))) (vid % 32)

def isMember (s : State) (p vid : Nat) : Bool := vlanBit s p 0x400 vid
def isUntag (s : State) (p vid : Nat) : Bool := vlanBit s p 0x600 vid

/-- VLAN acceptance (R76). -/
def vlanAccept (s : State) (p : Nat) (f : Frame) : Bool :=
  let w := reg s .prt p 0x48
  let vid := (vidOf s p f).1
  let prio : Bool := match f.vlan with
    | none => true
    | some (v, _) => v.toNat == 0
  let acc := getBits w 16 2
  vid != 4095 && !(acc == 1 && prio) && !(acc == 2 && !prio) && (!bit w 18 || isMember s p vid)

/-- The receive queue of an accepted frame, none where an entry discards it (R78). -/
def steer (s : State) (p : Nat) (f : Frame) : Option Nat :=
  let e := f.etype.toNat
  if e = 0x88F7 then some 7 else if e = 0x88B8 then some 6 else if e = 0x88BA then some 5 else if e = 0x88B5 then some 4
  else
    match ((List.range 4).map fun i => reg s .prt p (0x50 + 4 * i)).find? (fun w => bit w 31 && getBits w 0 16 == e) with
    | some w => if bit w 20 then none else some (getBits w 16 2)
    | none => some (fldI s .prt p 0x4C (3 * (vidOf s p f).2) 3)

/-! ### Timestamp queues -/

/-- Stamps of a tile waiting for the time core (R52). -/
def tsqLen (s : State) (tile : Nat) : Nat := (s.tim.tsq.filter fun e => e.1 / 4 == tile).length

/-- A stamp that finds its tile's queue full is dropped (R52). -/
def tsqLost (s : State) (p : Nat) : State :=
  let s := setReg s .tim 0 0xA8 (Nat.lor (reg s .tim 0 0xA8) (2 ^ (p / 4)))
  irq (cnt s .tim 0 0xAC) .tim 6

/-- A receive error is counted and raises the port's interrupt (R95). -/
def rxErr (s : State) (p o n : Nat) : State := irqI (cntBy s .prt p o n) .prt p 4

/-- A 64-bit byte counter increased, saturating. -/
def bytesUp (s : State) (p o n : Nat) : State := setReg2 s .prt p o (min (reg2 s .prt p o + n) (2 ^ 64 - 1))

end Sys2Proof.Machine
end

