-- ==== Sys2Proof/Machine/Switch.lean ====
section
/-!
DEFINITION. The switch: billets and banks (R97, R98), admission (R101), forwarding (R109 to R113), cut-through and
late errors (R102 to R105), copies (R106 to R108), transmission (R77, R79, R87), link state (R82 to R84) and the
operations of its tables (R114, R115).
-/

namespace Sys2Proof.Machine

/-! ### Billets -/

/-- Billets of a frame of stored length `l` (R97). -/
def billets (l : Nat) : Nat := 1 + (l - 64 + 127) / 128

/-- The stored bytes up to the end of billet `k` of a frame of length `l`. -/
def billetEnd (l k : Nat) : Nat := min l (64 + 128 * k)

/-- The tile of a port; internal port 64 + i is on tile i (R12, R70). -/
def tileOf (p : Nat) : Nat := if p < 64 then p / 4 else p - 64

/-- The byte time of a port in 2^-47 ns. -/
def byteU (s : State) (p : Nat) : Nat := byteTime (speedOf s p) * nsU / 100

/-- A slot is 4 ns (R98). -/
def slotU : Nat := 4 * nsU

/-- The slot of an instant of the time that no step moves, counted from the release of the Switch island (R98). -/
def slotAt (s : State) (t : Nat) : Nat := (t - s.swc.t0) / slotU

/-- The first slot that starts at or after an instant. -/
def slotFrom (s : State) (t : Nat) : Nat := (t - s.swc.t0 + (slotU - 1)) / slotU

/-- Every live copy: queued, or in transmission. -/
def liveCopies (s : State) : List Copy := s.swc.copies ++ s.ports.tx

/-- The billets that the egress buffer of a port holds (R99). -/
def bufOf (s : State) (p : Nat) : List Nat := (findK s.swc.buf p).getD []

/-- How many billets a copy has passed (R106): at an external port those whose last byte the MAC has handed to the PCS, at an
internal port those that have entered the crossing, in frame order. -/
def passed (s : State) (fr : SFrame) (c : Copy) : Nat :=
  if c.sent.isNone then 0
  else if c.port < 64 then
    ((List.range fr.ptrs.length).filter fun k =>
      decide (c.start + (8 + billetEnd fr.frame.len k) * byteU s c.port ≤ mono s)).length
  else (fr.ptrs.takeWhile fun p => (bufOf s c.port).contains p).length

/-- The reference count of billet `k` of a frame (R106): its live copies that have not passed the billet. -/
def refCount (s : State) (fr : SFrame) (k : Nat) : Nat :=
  ((liveCopies s).filter fun c => c.frame == fr.id && decide (passed s fr c ≤ k)).length

/-- The pointers of a frame whose count is not 0. -/
def heldPtrs (s : State) (fr : SFrame) : List Nat :=
  fr.ptrs.zipIdx.filterMap fun e => if refCount s fr e.2 = 0 then none else some e.1

/-- Every pointer that is not on a free list. -/
def usedPtrs (s : State) : List Nat := s.swc.frames.flatMap fun f => heldPtrs s f

def bankFree (s : State) (b : Nat) : Nat := 8192 - ((usedPtrs s).filter fun p => p / 8192 == b).length

/-- Unreserved free billets: a frame holds the billets it needs once it has ended (R101). -/
def freeBillets (s : State) : Nat := 131072 - (usedPtrs s).length

/-- The lowest pointer from `p` on that is not taken, within `fuel` rows. -/
def findRow (taken : List Nat) : (fuel p : Nat) → Option Nat
  | 0, _ => none
  | n + 1, p => if taken.contains p then findRow taken n (p + 1) else some p

/-- The lowest free row of a bank (assumption 11). -/
def freeRow (taken : List Nat) (b : Nat) : Option Nat := findRow taken 8192 (b * 8192)

/-- Pointer and slot of each billet that an input tile writes (R98), newest first: `ready` holds the first slot of each billet. In
each slot that no other billet of the tile takes, the bank the schedule offers, unless it is one of the last `h` of the
frame or has no free row. -/
def allocate (taken : List Nat) (busy : Nat → Bool) (tile h : Nat) : (fuel : Nat) → (ready : List Nat) → (t : Nat) →
    List (Nat × Nat) → List (Nat × Nat)
  | 0, _, _, acc => acc
  | _, [], _, acc => acc
  | f + 1, r :: rs, t, acc =>
    let t := max t r
    let b := (tile + t) % 16
    if busy t || (acc.take h).any (fun e => e.1 / 8192 == b) then allocate taken busy tile h f (r :: rs) (t + 1) acc
    else match freeRow (acc.map (fun e => e.1) ++ taken) b with
      | some p => allocate taken busy tile h f rs (t + 1) ((p, t) :: acc)
      | none => allocate taken busy tile h f (r :: rs) (t + 1) acc

/-- The instants at which the billets of a received frame are ready (R98): all their bytes have passed the MAC, and the decision
is bound 16 ns after the first (R110). `pcs` is the instant of the first bit after the start-of-frame delimiter. -/
def boundAt (s : State) (p pcs len : Nat) : Nat := pcs + min len 64 * byteU s p + 16 * nsU

def readyTimes (s : State) (p pcs len : Nat) : List Nat :=
  (List.range (billets len)).map fun k => max (boundAt s p pcs len) (pcs + billetEnd len k * byteU s p)

/-! ### Queues -/

/-- Copies queued for or in transmission at an egress port and queue. -/
def copiesAt (s : State) (e q : Nat) : List Copy := (liveCopies s).filter fun c => c.port == e && c.queue == q

def frameOf (s : State) (id : Nat) : Option SFrame := s.swc.frames.find? fun f => f.id == id

/-- The occupancy of a queue in billets; it falls as its copies pass their billets (R101). -/
def occ (s : State) (e q : Nat) : Nat :=
  (copiesAt s e q).foldl (fun n c => n + (match frameOf s c.frame with | some f => f.ptrs.length - passed s f c | none => 0)) 0

/-- Frames without a live copy leave the Bowl (R106), and a port's egress buffer drops what no copy of the port needs (R107). -/
def release (s : State) : State :=
  let cs := liveCopies s
  let fs := s.swc.frames.filter fun f => cs.any fun c => c.frame == f.id
  { s with swc := { s.swc with
      frames := fs,
      buf := s.swc.buf.map fun e =>
        (e.1, e.2.filter fun p => fs.any fun f => f.ptrs.contains p && cs.any fun c => c.frame == f.id && c.port == e.1) } }

/-- The internal ports' islands (R12). -/
def ipIsland (p : Nat) : Island :=
  if p = 64 then .stream else if p = 65 then .time else if p = 66 then .security else .app

/-- The block that counts what an internal port's island discards at the crossing into the switch (R15). -/
def ipBlk (p : Nat) : Blk := if p = 64 then .svs else if p = 65 then .tim else if p = 66 then .cmd else .apc

/-- Is an internal port up (R15, R116)? -/
def ipUp (s : State) (p : Nat) : Bool := enabled s .swc && isUp s .switch && isUp s (ipIsland p)

def anyUp (s : State) (p : Nat) : Bool := if p < 64 then portUp s p else ipUp s p

/-- A counter of an internal port's group (R117) or of a port's page. -/
def downDrop (s : State) (p : Nat) : State :=
  if p < 64 then cnt s .prt p 0x164 else cnt s .swc 0 (0x400 + (p - 64) * 0x20 + 0x0C)

def flushCnt (s : State) (p n : Nat) : State :=
  if p < 64 then cntBy s .prt p 0x160 n else cntBy s .swc 0 (0x400 + (p - 64) * 0x20 + 0x10) n

/-- Does an egress port take a copy into queue `q` (R80, R83, R84)? -/
def takes (s : State) (e q : Nat) : Bool :=
  anyUp s e && (decide (64 ≤ e) || (!(s.ports.flushing.toNat.testBit e) && bit (reg s .prt e 0x60) q))

/-- The watch on free billets as they fall from `before` to `now`: the lowest value, and the alarm (R117). -/
def freeWatch (before now : Nat) (s : State) : State :=
  let s := if now < reg s .swc 0 0x1C4 then setReg s .swc 0 0x1C4 now else s
  let alarm := fld s .swc 0x4C 0 18
  if alarm ≤ before ∧ now < alarm then irq s .swc 1 else s

/-! ### Admission -/

/-- A destination of a frame: egress port, the instant from which a cut-through copy may start, the pair whose next number its copy
carries, and the field that the copy around the ring keeps. -/
structure Dest where
  port : Nat
  ct : Option Nat := none
  pair : Option Nat := none
  keep : Option RedOut := none
  deriving DecidableEq, Repr

/-- The field that a copy into a pair leaves with (R87): the next number of the pair's counter. -/
def pairField (s : State) (n port : Nat) : RedOut :=
  let w := pairWord s n
  { hsr := pairHsr w, lan := if pairHsr w then 0 else if pairA w = port then 0xA else 0xB,
    seq := (findK s.swc.pairSeq n).getD 0 }

/-- The counter of each pair into which a frame is enqueued goes up once (R87). -/
def pairsNext (s : State) (ds : List Dest) : State :=
  forEach ((List.range 16).filter fun n => ds.any fun d => d.pair == some n) s fun s n =>
    { s with swc := { s.swc with pairSeq := putK s.swc.pairSeq n ((findK s.swc.pairSeq n).getD 0 + 1) } }

/-- Admission of a frame and its copies (R101); `n` is the reservation, `ready` says when each billet is ready, `good` that the
frame will be enqueued: a frame that proves bad takes no number. The frame is stored with the copies that were
admitted, and the copies that their port does not take are counted there (R84). -/
def takeIn (s : State) (fr : SFrame) (n : Nat) (ready : List Nat) (good : Bool) (ds : List Dest) : State :=
  let q := fr.queue
  let taken := usedPtrs s
  let free := 131072 - taken.length
  if ds = [] then cnt s .swc 0 0x308
  else if (List.range 16).any (fun b => decide (bankFree s b < 1536)) || decide (free < n) ||
      (decide (q ≤ 3) && decide (free < n + fld s .swc 0x48 0 17)) then cnt s .swc 0 0x300
  else
    let lim := fld s .swc (0x50 + 4 * q) 0 18
    let ok := ds.filter fun d => decide (occ s d.port q + n ≤ lim)
    let s := cntBy s .swc 0 0x304 (ds.length - ok.length)
    if ok = [] then s
    else
      let s := freeWatch free (free - n) s
      let s := forEach (ok.filter fun d => !takes s d.port q) s fun s d => downDrop s d.port
      let live := ok.filter fun d => takes s d.port q
      if live = [] then s
      else
        let id := s.swc.nextId
        let tile := tileOf fr.inPort
        let nb := billets fr.frame.len
        let busy (t : Nat) : Bool := s.swc.used.contains (tile, t)
        let r := allocate taken busy tile (if tile ≤ 11 then 3 else 7) (64 * (nb + s.swc.used.length + 1))
          ((ready.take nb).map fun t => slotFrom s t) 0 []
        let fr := { fr with id := id, ptrs := (r.map fun e => e.1).reverse }
        let cs : List Copy := live.map fun d =>
          { frame := id, port := d.port, queue := q, ct := d.ct.isSome, start := d.ct.getD 0,
            red := match d.keep with
              | some k => some k
              | none => d.pair.map fun k => pairField s k d.port }
        let s := if good then pairsNext s live else s
        let old := slotAt s (mono s) - 32768
        { s with swc := { s.swc with
          frames := s.swc.frames ++ [fr], copies := s.swc.copies ++ cs, nextId := id + 1,
          used := (s.swc.used ++ r.map fun e => (tile, e.2)).filter fun e => decide (old ≤ e.2) } }

/-! ### Reading billets out (R98, R99) -/

/-- What an external port may need next, in order: the copy in transmission and the heads of its enabled queues. -/
def needs (s : State) (p : Nat) : List Copy :=
  (s.ports.tx.filter fun c => c.port == p) ++ (((List.range 8).map fun i => 7 - i).filterMap fun q =>
    if bit (reg s .prt p 0x60) q then s.swc.copies.find? fun c => c.port == p && c.queue == q else none)

/-- The read-ahead of an external port: up to 8 billets of each frame, with the instant at which each must be there. -/
def readAhead (s : State) (p : Nat) : List (Nat × Nat) :=
  let b := byteU s p
  ((needs s p).foldl (fun (acc : List (Nat × Nat) × Nat) c =>
    match frameOf s c.frame with
    | none => acc
    | some fr =>
      let base := if c.sent.isSome then c.start else max acc.2 (mono s)
      let l := (fr.ptrs.zipIdx.drop (passed s fr c)).take 8
      (acc.1 ++ l.map (fun e => (e.1, base + (8 + (if e.2 = 0 then 0 else billetEnd fr.frame.len (e.2 - 1))) * b)),
       base + (8 + fr.frame.len) * b)) ([], 0)).1

/-- The billets of the read-ahead that are not in the egress buffer, if that has room. -/
def unread (s : State) (p : Nat) : List (Nat × Nat) :=
  if (bufOf s p).length ≥ 16 then [] else (readAhead s p).filter fun e => !(bufOf s p).contains e.1

/-- The billets of the frame that an internal port is delivering, not yet read. -/
def delivering (s : State) (p : Nat) : List Nat :=
  match s.ports.tx.find? fun c => c.port == p with
  | some c => (match frameOf s c.frame with
    | some fr => fr.ptrs.filter fun x => !(bufOf s p).contains x
    | none => [])
  | none => []

/-- The read priority of an output tile in a slot (R99). -/
def readChoice (s : State) (j t : Nat) : Option Nat :=
  let inBank (p : Nat) : Bool := p / 8192 == (j + t) % 16
  let ext := (List.range 4).map fun i => 4 * j + i
  let ct := (s.ports.tx.filter fun c => c.ct && ext.contains c.port).filterMap fun c =>
    ((unread s c.port).head?).map fun e => e.1
  match ct.find? inBank with
  | some p => some p
  | none =>
    match (if j < 2 then (delivering s (64 + j)).find? inBank else none) with
    | some p => some p
    | none =>
      match (ext.flatMap fun p => (unread s p).filter fun e => inBank e.1) with
      | e :: l => some (l.foldl (fun a b => if b.2 < a.2 then b else a) e).1
      | [] => if 2 ≤ j ∧ j < 4 then (delivering s (64 + j)).find? inBank else none

/-- Stage two of a slot: each output tile reads its billet into every egress buffer of the tile whose read-ahead holds it. -/
def readSlot (s : State) (t : Nat) : State :=
  forEach (List.range 16) s fun s j =>
    match readChoice s j t with
    | none => s
    | some y =>
      let ps := ((List.range 4).map (fun i => 4 * j + i)).filter (fun p => (unread s p).any fun e => e.1 == y) ++
        (if j < 4 && (delivering s (64 + j)).contains y then [64 + j] else [])
      { s with swc := { s.swc with buf := ps.foldl (fun m p => putK m p (bufOf s p ++ [y])) s.swc.buf } }

/-- Billets that the copy in transmission has passed leave the egress buffer of an external port. -/
def bufPassed (s : State) : State :=
  { s with swc := { s.swc with buf := s.swc.buf.map fun e =>
      if e.1 < 64 then
        (match s.ports.tx.find? fun c => c.port == e.1 with
         | some c => (match frameOf s c.frame with
           | some fr => (e.1, e.2.filter fun p => !(fr.ptrs.take (passed s fr c)).contains p)
           | none => e)
         | none => e)
      else e } }

/-- The slots that begin after one instant and up to another. -/
def runSlots (s : State) (before : Nat) : State :=
  if liveCopies s = [] || isDown s .switch then s
  else
    let a := slotAt s before
    bufPassed (forEach ((List.range (min 64 (slotAt s (mono s) - a))).map fun i => a + 1 + i) s readSlot)

/-! ### Forwarding -/

/-- The set of the forwarding table that a key selects (R112). -/
def fdbSet (m : Mac) (vid : Nat) : Nat := crc32 (macBytes m ++ le 2 vid) % 8192

def fdbFind (s : State) (m : Mac) (vid : Nat) : Option Fdb := s.swc.fdb.find? fun e => e.mac == m && e.vid == vid

def fdbSetFull (s : State) (m : Mac) (vid : Nat) : Bool :=
  decide ((s.swc.fdb.filter fun e => fdbSet e.mac e.vid == fdbSet m vid).length ≥ 4)

def fdbPut (s : State) (e : Fdb) : State :=
  { s with swc := { s.swc with
      fdb := s.swc.fdb.filter (fun x => !(x.mac == e.mac && x.vid == e.vid)) ++ [e] } }

/-- The messageType nibble of a PTP message. -/
def ptpCode : PtpType → Nat
  | .sync => 0 | .pdelayReq => 2 | .pdelayResp => 3 | .followUp => 8 | .pdelayRespFollowUp => 0xA | .announce => 0xB
  | .management => 0xD | .other => 0xC

/-- The first two bytes after the EtherType (R111): of a PTP message messageType and version, of an IPv4 datagram version, header
length and type of service. -/
def appidOf (f : Frame) : Nat :=
  match f.pdu with
  | .sv p => p.appid.toNat
  | .goose p => p.appid.toNat
  | .raw bs => ofBe (slice bs 0 2)
  | .ptp m => ptpCode m.type * 256 + 2
  | .ann _ => ptpCode .announce * 256 + 2
  | .udp d => 0x4500 + d.tos.toNat

/-- Does a classification entry match (R111)? -/
def clsMatch (w : List Word) (f : Frame) (vid inPort : Nat) : Bool :=
  let g (i lsb n : Nat) : Nat := getBits (w.getD i 0).toNat lsb n
  let plen := g 3 16 6
  let em : Nat := (macOf (g 2 0 32) (g 3 0 16)).toNat
  bit (w.getD 6 0).toNat 31 &&
    Nat.land f.etype.toNat (g 0 16 16) == Nat.land (g 0 0 16) (g 0 16 16) &&
    Nat.land (appidOf f) (g 1 16 16) == Nat.land (g 1 0 16) (g 1 16 16) &&
    f.dst.toNat / 2 ^ (48 - plen) == em / 2 ^ (48 - plen) &&
    Nat.land vid (g 4 16 12) == Nat.land (g 4 0 12) (g 4 16 12) &&
    (bit (w.getD 5 0).toNat 7 || g 5 0 7 == inPort)

/-- The applying entry: the lowest index that matches (R109). -/
def clsFind (s : State) (f : Frame) (vid inPort : Nat) : Option (Nat × List Word) :=
  s.swc.cls.find? fun e => clsMatch e.2 f vid inPort

/-- Ports of a 68-bit mask. -/
def maskPorts (m : Nat) : List Nat := bitsOf m 68

/-- The flood set (R112). -/
def floodSet (s : State) (vid : Nat) : List Nat :=
  ((List.range 64).filter fun p => portUp s p && isMember s p vid) ++
    (([66, 67] : List Nat).filter fun p => bit (reg s .swc 0 0x84) (p - 64))

/-- The set a lookup gives, before removals (R112). -/
def fdbDest (s : State) (dst : Mac) (vid : Nat) : List Nat :=
  match fdbFind s dst vid with
  | some e =>
    if e.dtype = 0 then [e.dest]
    else if e.dtype = 1 then
      let w := pairWord s e.dest
      if pairEn w then [pairA w, pairB w] else []
    else if e.dtype = 2 then maskPorts ((findK s.swc.grp e.dest).getD 0).toNat
    else []
  | none =>
    if dst = broadcast then floodSet s vid
    else if isMulticast dst then (if flag s .swc 0x40 1 then floodSet s vid else [])
    else if flag s .swc 0x40 0 then floodSet s vid else []

/-- The destinations of a forwarding lookup after the removals of R112; a pair is entered by either of its ports
(R108). -/
def fdbPorts (s : State) (dst : Mac) (vid inPort : Nat) : List Nat :=
  let l := fdbDest s dst vid
  let l := if inPort < 64 then
      (match pairOf s inPort with
       | some (_, w) => l.filter fun p => p != pairA w && p != pairB w
       | none => l)
    else l
  let l := l.filter fun p => p != inPort && (decide (64 ≤ p) || isMember s p vid)
  (List.range 68).filter fun p => l.contains p ||
    (p < 64 && match pairOf s p with
      | some (_, w) => l.contains (pairOther w p) && isMember s p vid
      | none => false)

/-- The pair that numbers a copy to a port. -/
def pairNum (s : State) (p : Nat) : Option Nat := if p < 64 then (pairOf s p).map fun e => e.1 else none

/-- Destinations into pairs: of the two ports of a pair only those that are up receive a copy (R108). -/
def pairDown (s : State) (p : Nat) : Bool :=
  match pairOf s p with
  | some (_, w) => !portUp s p && portUp s (pairOther w p)
  | none => false

/-- Learning of a source address (R113). -/
def learn (s : State) (src : Mac) (vid inPort : Nat) : State :=
  let on := if inPort < 32 then bit (reg s .swc 0 0x70) inPort
    else if inPort < 64 then bit (reg s .swc 0 0x74) (inPort - 32)
    else bit (reg s .swc 0 0x84) (inPort - 64 + 4)
  if isMulticast src then s
  else
    let (dt, d) : Nat × Nat := if inPort < 64 then
        (match pairOf s inPort with
         | some (n, _) => (1, n)
         | none => (0, inPort))
      else (0, inPort)
    match fdbFind s src vid with
    | some e =>
      if !on then fdbPut s { e with hit := true }
      else if e.static then fdbPut s { e with hit := true }
      else if e.dtype = dt ∧ e.dest = d then fdbPut s { e with hit := true }
      else cnt (fdbPut s { e with dtype := dt, dest := d, hit := true }) .swc 0 0x31C
    | none =>
      if !on then s
      else if fdbSetFull s src vid then irq (cnt s .swc 0 0x318) .swc 2
      else fdbPut s { mac := src, vid := vid, dtype := dt, dest := d, static := false, hit := true }

/-! ### Cut-through -/

def inMap64 (s : State) (o p : Nat) : Bool :=
  if p < 32 then bit (reg s .swc 0 o) p else bit (reg s .swc 0 (o + 4)) (p - 32)

/-- Is a copy cut through (R102)? `red` says that it adds a trailer or a tag. -/
def ctEligible (s : State) (inPort e q : Nat) (red : Bool) : Bool :=
  decide (e < 64) && inMap64 s 0x78 inPort && inMap64 s 0x78 e && bit (reg s .swc 0 0x80) q &&
    decide (speedOf s e ≤ speedOf s inPort) && !(inPrp s inPort) && !red

/-- L_ct in whole ns (R103). -/
def latencyCt (s : State) (i e : Nat) : Nat :=
  let rxd := rxDelay (speedOf s i) (fecOf s i)
  let txd := txDelay (speedOf s e) (fecOf s e)
  let w := if tileOf i ≤ 11 then 3600 else 6800
  let bi := byteTime (speedOf s i)
  let be' := byteTime (speedOf s e)
  let head := rxd + 72 * bi + 1600 + w + 6800 + 400 + txd
  let body := rxd + w + 7200 + txd + 200 * bi - 72 * be'
  (max head body + 99) / 100

/-- The instant from which a cut-through copy may start at the MAC (R103): its first preamble bit leaves the pins L_ct after that
of the frame reached them. -/
def ctStart (s : State) (i e pcs : Nat) : Nat :=
  pcs + latencyCt s i e * nsU -
    (rxDelay (speedOf s i) (fecOf s i) + 8 * byteTime (speedOf s i) + txDelay (speedOf s e) (fecOf s e)) * nsU / 100

/-- Is it a cut-through copy's turn at an instant: it may start, its port transmits nothing, and no other frame stands before it? -/
def ctTurn (s : State) (t : Nat) (c : Copy) : Bool :=
  c.ct && decide (c.start ≤ t) && !(s.ports.tx.any fun x => x.port == c.port) &&
    !(s.swc.copies.any fun x => x.port == c.port && x.frame != c.frame && decide (c.queue ≤ x.queue))

/-- Is a cut-through copy in transmission at a port of the tile (R103)? -/
def tileCt (s : State) (p : Nat) : Bool := s.ports.tx.any fun c => c.ct && tileOf c.port == tileOf p

/-- Of the copies whose turn has come at an instant, those that start: one in each tile (R103). -/
def ctBegun (s : State) (id t : Nat) : List Copy :=
  ((s.swc.copies.filter fun c => c.frame == id && ctTurn s t c).foldl (fun l c =>
    if tileCt s c.port || l.any (fun x => tileOf x.port == tileOf c.port) then l else l ++ [c]) [])

/-! ### Frames as they leave -/

/-- The bytes that a valid trailer or tag of a pair takes of a received frame (R73, R88). -/
def redBytes (s : State) (p : Nat) (f : Frame) : Nat :=
  match f.red with
  | .plain => 0
  | .hsr _ ok => if ok && inHsr s p then 6 else 0
  | .prp _ _ ok => if ok && inPrp s p then 6 else 0

/-- A stored frame as a copy of it leaves at an egress port (R77, R87): VLAN tag, trailer or HSR tag, padding. -/
def egressFrame (s : State) (fr : SFrame) (c : Copy) : Frame :=
  let f := fr.frame
  let body := f.len - fr.strip - (if f.vlan.isSome then 4 else 0)
  let untag := decide (c.port < 64) && isUntag s c.port fr.vid
  let vlan : Option (BitVec 12 × BitVec 3) :=
    if untag then none else some (BitVec.ofNat 12 fr.vid, BitVec.ofNat 3 fr.pcp)
  let red : RedTag :=
    match c.red with
    | some r => if r.hsr then .hsr r.seq true else .prp r.seq r.lan true
    | none => if fr.strip = 0 then f.red else .plain
  let core := max 64 (body + (if vlan.isSome then 4 else 0))
  { f with vlan := vlan, red := red, len := core + (if c.red.isSome then 6 else 0),
           stampLost := decide (64 ≤ c.port) && fr.stamp.isNone }

/-! ### Link state -/

/-- Removal of copies that satisfy a test; the frames they held are released. -/
def dropCopies (s : State) (p : Copy → Bool) : State :=
  release { s with swc := { s.swc with copies := s.swc.copies.filter fun c => !p c },
                   ports := { s.ports with tx := s.ports.tx.filter fun c => !p c } }

/-- A port goes down (R82, R83): its copies are removed and counted, learned entries that lead to it alone go (R114),
FLUSHING rises. The frame in reception is the row's (assumption 103). -/
def portDown (s : State) (p : Nat) : State :=
  if !portUp s p then s
  else
    let m : BitVec 64 := BitVec.ofNat 64 (2 ^ p)
    let n := ((s.swc.copies ++ s.ports.tx).filter fun c => c.port == p).length
    let s := flushCnt s p n
    let s := dropCopies s fun c => c.port == p
    let s := { s with
      ports := { s.ports with link := s.ports.link &&& ~~~m, flushing := s.ports.flushing ||| m,
                              anDone := s.ports.anDone &&& ~~~m }
      tim := { s.tim with
        tsq := s.tim.tsq.filter (fun e => e.1 != p), foreign := s.tim.foreign.filter (fun e => e.port != p),
        left := s.tim.left &&& ~~~m, masters := s.tim.masters &&& ~~~m,
        slavePort := if s.tim.slavePort = some p then none else s.tim.slavePort } }
    let gone (e : Fdb) : Bool := !e.static && ((e.dtype == 0 && e.dest == p) ||
      (e.dtype == 1 && (match pairOf s p with
        | some (k, w) => k == e.dest && !portUp s (pairA w) && !portUp s (pairB w)
        | none => false)))
    let s := { s with swc := { s.swc with fdb := s.swc.fdb.filter fun e => !gone e } }
    let s := irqI (cnt s .prt p 0x168) .prt p 2
    evt s 0x0511 1 p 0 0

/-- The flush has ended (R83); a soft reset of the page ends with it (R95). -/
def flushEnd (s : State) (p : Nat) : State :=
  let m : BitVec 64 := BitVec.ofNat 64 (2 ^ p)
  let soft := s.ports.softRst.toNat.testBit p
  let s := { s with ports := { s.ports with flushing := s.ports.flushing &&& ~~~m, softRst := s.ports.softRst &&& ~~~m } }
  let s := irqI s .prt p 3
  if soft then
    let s := setReg s .prt p 8 (setBits (reg s .prt p 8) 1 1 0)
    clearRegs s fun k => match keyIn .prt p k with
      | some o => decide (0x100 ≤ o) && decide (o < 0x16C)
      | none => false
  else s

/-- A port comes up (R82). -/
def portUpNow (s : State) (p : Nat) : State :=
  if portUp s p || !(bit (reg s .prt p 8) 0) || s.clk.serdes.failed || isDown s (portIsland p) || !portPresent s p then s
  else
    let m : BitVec 64 := BitVec.ofNat 64 (2 ^ p)
    let an := fldI s .prt p 0x40 3 1 = 1
    let s := { s with ports := { s.ports with link := s.ports.link ||| m,
                                              anDone := if an then s.ports.anDone ||| m else s.ports.anDone } }
    evt (irqI s .prt p 1) 0x0510 0 p 0 0

/-! ### Sending from inside -/

/-- A frame from an island as it is stored: ready as it is handed over. -/
def fromInside (ip : Nat) (f : Frame) (stamp : Option Stamp) (vid pcp q : Nat) : SFrame :=
  { id := 0, frame := f, inPort := ip, stamp := stamp, vid := vid, pcp := pcp, queue := q, strip := 0, ptrs := [] }

/-- A frame handed to the switch at an internal port (R109): entered at a port that is up, discarded at the crossing while the
Switch island is down (R15), and by a blank module (R10). -/
def enterFabric (s : State) (ip : Nat) (go : State → State) : State :=
  if isDown s .switch then crossDrop s (ipBlk ip) 0
  else if !ipUp s ip || blank s then s
  else go (cnt s .swc 0 (0x400 + (ip - 64) * 0x20 + 4))

/-- A frame for a set of destinations already known. -/
def sendTo (s : State) (ip : Nat) (f : Frame) (stamp : Option Stamp) (vid pcp q : Nat) (ds : List Dest) : State :=
  enterFabric s ip fun s =>
    takeIn s (fromInside ip f stamp vid pcp q) (billets f.len) (List.replicate (billets f.len) (mono s)) true ds

/-- A frame forwarded by the forwarding table, which never forwards EtherType 0x88F7 (R109). -/
def sendVia (s : State) (ip : Nat) (f : Frame) (vid pcp q : Nat) : State :=
  enterFabric s ip fun s =>
    let ps := if f.etype = 0x88F7 then [] else (fdbPorts s f.dst vid ip).filter fun p => !pairDown s p
    let s := takeIn s (fromInside ip f none vid pcp q) (billets f.len) (List.replicate (billets f.len) (mono s)) true
      (ps.map fun p => { port := p, pair := pairNum s p })
    learn s f.src vid ip

/-- VID and PCP of a frame from an internal port, which has no PVID and no DEF_PCP: VID 1 where the frame names none, and PCP 0
without a tag (R76, R112; DESIGN CHOICE, assumption 125). -/
def ownVlan (f : Frame) : Nat × Nat :=
  match f.vlan with
  | some (v, c) => (if v = 0 then 1 else v.toNat, c.toNat)
  | none => (1, 0)

/-- A frame from an internal port, with the VLAN that it names. -/
def sendOwn (s : State) (ip : Nat) (f : Frame) (q : Nat) : State := sendVia s ip f (ownVlan f).1 (ownVlan f).2 q

/-- The length on the wire of a frame with a payload of `n` bytes after the EtherType. -/
def frameLen (tagged : Bool) (n : Nat) : Nat := max 64 (14 + (if tagged then 4 else 0) + n + 4)

/-! ### Table operations (R115) -/

def fdbKey (s : State) : Mac × Nat := (macOf (reg s .swc 0 0x100) (reg s .swc 0 0x104), fld s .swc 0x104 16 12)

/-- An operation of the forwarding table by its code. -/
def fdbOp (s : State) (op arg : Nat) : State :=
  let (m, vid) := fdbKey s
  let d := reg s .swc 0 0x108
  let done (s : State) (r : Nat) : State := { s with swc := { s.swc with fdbBusy := true, fdbResult := r } }
  if op = 1 then
    if (fdbFind s m vid).isNone && fdbSetFull s m vid then done s 2
    else done (fdbPut s { mac := m, vid := vid, dtype := getBits d 0 2, dest := getBits d 2 10, static := bit d 16,
                          hit := true }) 0
  else if op = 2 then
    match fdbFind s m vid with
    | some _ => done { s with swc := { s.swc with fdb := s.swc.fdb.filter fun e => !(e.mac == m && e.vid == vid) } } 0
    | none => done s 1
  else if op = 3 then
    match fdbFind s m vid with
    | some e => done (setReg s .swc 0 0x108 (e.dtype + e.dest * 4 + ofBit e.static 16 + ofBit e.hit 17 + 2 ^ 31)) 0
    | none => done (setReg s .swc 0 0x108 (setBits (setBits d 31 1 0) 17 1 0)) 1
  else
    let gone (e : Fdb) : Bool := !e.static &&
      (if op = 4 then e.dtype == 0 && e.dest == arg else if op = 5 then e.vid == vid else true)
    done { s with swc := { s.swc with fdb := s.swc.fdb.filter fun e => !gone e } } 0

/-- The end of an operation of the forwarding table. -/
def fdbDone (s : State) : State :=
  if s.swc.fdbBusy then irq { s with swc := { s.swc with fdbBusy := false } } .swc 4 else s

/-- An operation of the classification table; it ends within the step. -/
def clsOp (s : State) (op : Nat) : State :=
  let i := fld s .swc 0x140 0 12
  let sh : List Word := (List.range 7).map fun k => BitVec.ofNat 32 (reg s .swc 0 (0x144 + 4 * k))
  let s :=
    if op = 1 then { s with swc := { s.swc with cls := putK s.swc.cls i sh } }
    else if op = 3 then
      { s with swc := { s.swc with cls := match findK s.swc.cls i with
          | some w => putK s.swc.cls i (modAt w 6 fun x => x &&& 0x7FFFFFFF)
          | none => s.swc.cls } }
    else
      let w := (findK s.swc.cls i).getD (List.replicate 7 0)
      forEach (List.range 7) s fun s k => setReg s .swc 0 (0x144 + 4 * k) (w.getD k 0).toNat
  irq s .swc 5

/-- An operation of the group table. -/
def grpOp (s : State) (op : Nat) : State :=
  let i := fld s .swc 0x180 0 10
  let s :=
    if op = 1 then
      let m := reg s .swc 0 0x184 + reg s .swc 0 0x188 * 2 ^ 32 + fld s .swc 0x18C 0 4 * 2 ^ 64
      { s with swc := { s.swc with grp := putK s.swc.grp i (BitVec.ofNat 68 m) } }
    else
      let m := ((findK s.swc.grp i).getD 0).toNat
      setReg (setReg (setReg s .swc 0 0x184 (getBits m 0 32)) .swc 0 0x188 (getBits m 32 32)) .swc 0 0x18C (getBits m 64 4)
  irq s .swc 6

/-- The ager's visit (R114). -/
def fdbAge (s : State) : State :=
  let old := s.swc.fdb.filter fun e => !e.static && !e.hit
  let s := cntBy s .swc 0 0x320 old.length
  { s with swc := { s.swc with
      fdb := (s.swc.fdb.filter fun e => e.static || e.hit).map fun e => if e.static then e else { e with hit := false } } }

/-! ### Resets (R116) -/

/-- The Bowl, the queues and the learned entries emptied without counting. -/
def bowlEmpty (s : State) : State :=
  { s with swc := { s.swc with frames := [], copies := [], used := [], buf := [], dd := [], pairSeq := [],
                               fdb := s.swc.fdb.filter fun e => e.static },
           ports := { s.ports with tx := [] } }

/-- SWC SOFT_RST: Bowl, queues, counters and learned entries. -/
def swcSoftReset (s : State) : State :=
  let s := bowlEmpty s
  let s := { s with swc := { s.swc with fdbBusy := false, fdbResult := 0 } }
  clearRegs s fun k => match keyIn .swc 0 k with
    | some o => (decide (0x300 ≤ o) && decide (o < 0x480)) || o == 0x168 || o == 0x1C4 || o == 0x9048 || o == 0x904C || o == 0x9050
    | none => false

end Sys2Proof.Machine
end

