-- ==== Sys2Proof/Machine/Transparent.lean ====
section
/-!
DEFINITION. The transparent clock (R56 to R58, R94): which ports a PTP message received on a PTP port goes to, and what is done to it
as it leaves (R109): the residence time and the peer delay in the correction of a Sync or of its Follow_Up, the egress
stamps of the module's own messages.
-/

namespace Sys2Proof.Machine

/-- Is the port a PTP port (R57)? -/
def isPtpPort (s : State) (p : Nat) : Bool :=
  if p < 32 then bit (reg s .tim 0 0x60) p else bit (reg s .tim 0 0x64) (p - 32)

/-- A PTP message is one of these to the transparent clock: kept at the port (peer delay, management), or forwarded, told apart by
class in R94's list. -/
inductive PtpWay where
  | stay
  | pass (k : FwdKey)
  deriving DecidableEq, Repr

/-- The class by which R94 tells forwarded messages of one key apart; none of peer delay and of management (R56, R109). -/
def fwdClass (code : Nat) : Option Nat :=
  if code = 0 then some 0 else if code = 8 then some 1 else if code = 0xB then some 2
  else if code = 2 ∨ code = 3 ∨ code = 0xA ∨ code = 0xD then none else some 3

/-- What the transparent clock reads of a PTP frame: messageType, sourcePortIdentity and sequenceId at their places in the header of
IEEE 1588-2008. -/
def ptpWay (f : Frame) : PtpWay :=
  let mk (code : Nat) (id : BitVec 64) (num seq : BitVec 16) : PtpWay :=
    match fwdClass code with
    | some c => .pass { cls := c, clockId := id, portNum := num, seqId := seq }
    | none => .stay
  match f.pdu with
  | .ptp m => mk (ptpCode m.type) m.clockId m.portNum m.seqId
  | .ann a => mk 0xB a.clockId a.portNum a.seqId
  | .raw bs =>
    mk (ofBe (slice bs 0 1) % 16) (BitVec.ofNat 64 (ofBe (slice bs 20 8))) (BitVec.ofNat 16 (ofBe (slice bs 28 2)))
      (BitVec.ofNat 16 (ofBe (slice bs 30 2)))
  | .sv _ | .goose _ | .udp _ => .stay

def tcDrop (s : State) : State := cnt s .tim 0 0xB4

/-- The other port of the pair that holds a port. -/
def pairTwin (s : State) (p : Nat) : Option (Nat × Nat × Bool) :=
  (pairOf s p).map fun e => (e.1, pairOther e.2 p, pairHsr e.2)

/-- Between the ports of one HSR pair a key passes at most once; the last 64 are kept (R94). -/
def ringOnce (s : State) (n : Nat) (k : FwdKey) : State × Bool :=
  if s.tim.fwd.contains (n, k) then (tcDrop s, false)
  else
    let mine := (s.tim.fwd.filter fun x => x.1 == n) ++ [(n, k)]
    let rest := s.tim.fwd.filter fun x => x.1 != n
    ({ s with tim := { s.tim with fwd := rest ++ mine.drop (mine.length - 64) } }, true)

/-- The other PTP ports that a message goes to (R109). To the twin of an HSR port go tagged frames, with their tag, once (R88, R94); to
that of a PRP port none (R87). -/
def ptpDests (s : State) (p : Nat) (f : Frame) (k : FwdKey) : State × List Dest :=
  let twin := pairTwin s p
  let others := (List.range 64).filter fun e => e != p && isPtpPort s e && (match twin with
    | some (_, o, _) => e != o
    | none => true)
  let ds : List Dest := (others.filter fun e => !pairDown s e).map fun e => { port := e, pair := pairNum s e }
  match twin, f.red with
  | some (n, o, true), .hsr q _ =>
    if isPtpPort s o then
      let (s, go) := ringOnce s n k
      (s, if go then ds ++ [{ port := o, keep := some { hsr := true, lan := 0, seq := q } }] else ds)
    else (s, ds)
  | _, _ => (s, ds)

/-- Has a Sync of the key been forwarded, or is it waiting to leave (R58)? -/
def syncKnown (s : State) (k : FwdKey) : Bool :=
  (s.tim.tc.any fun x => x.clockId == k.clockId && x.portNum == k.portNum && x.seqId == k.seqId) ||
    s.swc.frames.any fun f => decide (ptpWay f.frame = .pass { k with cls := 0 })

/-- The destinations of a PTP message beside port 65; a Follow_Up without its Sync is discarded and counted (R58). -/
def ptpForward (s : State) (p : Nat) (f : Frame) : State × List Dest :=
  match ptpWay f with
  | .stay => (s, [])
  | .pass k =>
    if k.cls = 1 && !syncKnown s k then (tcDrop s, [])
    else
      ptpDests s p f k

/-- A message bound by the switch: the time core, when it sees it, does not forward it again. -/
def ptpBound (s : State) (p : Nat) (f : Frame) : State :=
  match ptpWay f with
  | .stay => s
  | .pass k => { s with tim := { s.tim with bound := (s.tim.bound ++ [(p, k)]).drop (s.tim.bound.length + 1 - 256) } }

/-- The measured peer delay of a port, in 2^-16 ns. -/
def peerDelay (s : State) (p : Nat) : Option Int := findK s.tim.peer p

/-- PTP event messages take an egress stamp (R51). -/
def ptpEvent : PtpType → Bool
  | .sync | .pdelayReq | .pdelayResp => true
  | .followUp | .pdelayRespFollowUp | .announce | .management | .other => false

/-- The residence of a two-step Sync is kept for its Follow_Up: 64 entries, the oldest evicted (R58). -/
def tcKeep (s : State) (m : PtpMsg) (e inPort : Nat) (res : Int) : State :=
  let hits (x : TcEntry) : Bool := x.clockId == m.clockId && x.portNum == m.portNum && x.seqId == m.seqId
  if s.tim.tc.any hits then
    { s with tim := { s.tim with tc := s.tim.tc.map fun x =>
        if (hits x) then { x with egress := (e, inPort, res) :: x.egress } else x } }
  else
    let x : TcEntry := { clockId := m.clockId, portNum := m.portNum, seqId := m.seqId, egress := [(e, inPort, res)] }
    { s with tim := { s.tim with tc := (s.tim.tc ++ [x]).drop (s.tim.tc.length + 1 - 64) } }

/-- What a Follow_Up adds at an egress port: of its own ingress port first, else of any (assumption 104). -/
def tcFind (s : State) (m : PtpMsg) (e inPort : Nat) : Option Int :=
  match s.tim.tc.find? fun x => x.clockId == m.clockId && x.portNum == m.portNum && x.seqId == m.seqId with
  | none => none
  | some x =>
    match x.egress.find? fun r => r.1 == e && r.2.1 == inPort with
    | some r => some r.2.2
    | none => (x.egress.find? fun r => r.1 == e).map fun r => r.2.2

/-- The egress stamp of an event message, `t` its timestamp point, put into the tile's queue; lost where that is full (R52), and none
while the Time island is down. -/
def egressStamp (s : State) (p : Nat) (m : PtpMsg) (t : Int) : State × Stamp × Bool :=
  let st := txStamp s p t
  if isDown s .time then (s, st, true)
  else if tsqLen s (p / 4) ≥ 256 then (tsqLost s p, st, true)
  else ({ s with tim := { s.tim with tsq := s.tim.tsq ++ [(p, m.seqId.toNat, st)] } }, st, false)

/-- A PTP message as it leaves an external port (R52, R58, R59); none where the module discards it there. -/
def ptpLeave (s : State) (p : Nat) (fr : SFrame) (m : PtpMsg) (t : Int) : State × Option PtpMsg :=
  let own := decide (64 ≤ fr.inPort)
  if !ptpEvent m.type then
    if m.type = .followUp && !own then
      match tcFind s m p fr.inPort with
      | some r => (s, some { m with correction := m.correction + r })
      | none => (tcDrop s, none)
    else (s, some m)
  else
    let (s, st, lost) := egressStamp s p m t
    match m.type with
    | .sync =>
      if own then (s, some { m with sec := st.sec, ns := st.ns, correction := m.correction + st.frac })
      else
        match fr.stamp, peerDelay s fr.inPort with
        | some g, some d =>
          if lost || g.epoch != st.epoch then (tcDrop s, none)
          else
            let res : Int := (st.units : Int) - g.units + d
            if m.twoStep then (tcKeep s m p fr.inPort res, some m)
            else (s, some { m with correction := m.correction + res })
        | _, _ => (tcDrop s, none)
    | .pdelayResp =>
      match fr.stamp with
      | some g => (s, if g.epoch = st.epoch then some { m with correction := m.correction + ((st.units : Int) - g.units) } else none)
      | none => (s, some m)
    | _ =>
      if lost then ({ s with tim := { s.tim with pdelay := s.tim.pdelay.filter fun e => !(e.port == p && e.seqId == m.seqId) } }, some m)
      else
        ({ s with tim := { s.tim with pdelay := s.tim.pdelay.map fun e =>
            if e.port = p ∧ e.seqId = m.seqId then { e with t1 := some (st.units : Int), epoch := st.epoch } else e } }, some m)

/-- A frame as it starts at a port: what it has become, none where it is discarded there. -/
def frameLeaves (s : State) (p : Nat) (fr : SFrame) (c : Copy) (t : Int) : State × Option Frame :=
  let f := egressFrame s fr c
  match f.pdu with
  | .ptp m =>
    if p < 64 then
      match ptpLeave s p fr m t with
      | (s, some m') => (s, some { f with pdu := .ptp m' })
      | (s, none) => (s, none)
    else (s, some f)
  | _ => (s, some f)

end Sys2Proof.Machine
end

