-- ==== Sys2Proof/Machine/PortRows.lean ====
section
/-!
DEFINITION. The rows of the ports and the switch that are events: a frame received, a frame from an island, start and
end of a transmission, link and flush events, supervision, and the ageing of the tables.
-/

namespace Sys2Proof.Machine

/-! ### FRAME_RECEIVE (R73, R74, R89, R105, R109, R113) -/

def isMgmtPort (s : State) (p : Nat) : Bool :=
  if p < 32 then bit (reg s .cmd 0 0x44) p else bit (reg s .cmd 0 0x48) (p - 32)

/-- The length that stages 2 and 3 check: without a valid trailer or tag (R73). -/
def checkedLen (s : State) (p : Nat) (f : Frame) : Nat := f.len - redBytes s p f

/-- Stage 6 (R88, R89): the state after it, whether the frame goes on, and the ring copy of HSR: the other port and the field that
it keeps. -/
def redStage (s : State) (p : Nat) (f : Frame) : State × Bool × Option (Nat × RedOut) :=
  match pairOf s p with
  | none => (s, true, none)
  | some (n, w) =>
    let onA := pairA w == p
    let ptp := f.etype == 0x88F7
    if pairHsr w then
      match f.red with
      | .hsr q ok =>
        if !ok then (rxErr s p 0x12C 1, false, none)
        else if f.src = portMac s (pairA w) ∨ f.src = portMac s (pairB w) then (cnt s .prt p 0x130, false, none)
        else if ptp then (s, true, none)
        else
          let (s, acc) := ddLookup s n f.src q onA
          if acc then
            let toUs := f.dst == portMac s (pairA w) || f.dst == portMac s (pairB w)
            (s, true, if toUs then none else some (pairOther w p, { hsr := true, lan := 0, seq := q }))
          else (cnt s .prt p 0x124, false, none)
      | .plain | .prp .. => (s, true, none)
    else
      match f.red with
      | .prp q lan ok =>
        if !ok then (s, true, none)
        else
          let s := if lan = (if onA then 0xA else 0xB) then s else rxErr s p 0x128 1
          if ptp then (s, true, none)
          else
            let (s, acc) := ddLookup s n f.src q onA
            if acc then (s, true, none) else (cnt s .prt p 0x124, false, none)
      | .plain | .hsr .. => (s, true, none)

/-- Stages 5 to 8 (R73): the state after them and, when the frame goes on, its queue and its ring copy. -/
def headStages (s : State) (p : Nat) (f : Frame) : State × Option (Nat × Option (Nat × RedOut)) :=
  if f.etype = 0x8808 then (cnt s .prt p 0x120, none)
  else
    let (s, go, ring) := redStage s p f
    if !go then (s, none)
    else if !vlanAccept s p f then (cnt s .prt p 0x118, none)
    else
      match steer s p f with
      | none => (cnt s .prt p 0x11C, none)
      | some q => if f.etype = 0x88F7 && !isPtpPort s p then (cnt s .tim 0 0xB0, none) else (s, some (q, ring))

/-- The destinations of a received frame (R109) and its queue: fixed rules, classification, forwarding. Those of the transparent
clock stand beside. -/
def decide3 (s : State) (p : Nat) (f : Frame) (vid q : Nat) : State × List Nat × Nat :=
  let fixed : List Nat := if f.etype = 0x88F7 then [65] else if f.etype = 0x88B5 && isMgmtPort s p then [66] else []
  match clsFind s f vid p with
  | some (i, w) =>
    let s := cntB s .swc 0x168 i
    let w6 := (w.getD 6 0).toNat
    let ints := (List.range 4).filterMap fun k => if bit w6 k then some (64 + k) else none
    let fw := if bit w6 4 && f.etype != 0x88F7 then fdbPorts s f.dst vid p else []
    let q := if bit w6 10 && decide (q ≤ 3) then getBits w6 8 2 else q
    (s, (List.range 68).filter (fun e => fixed.contains e || ints.contains e || fw.contains e), q)
  | none =>
    let fw := if f.etype = 0x88F7 then [] else fdbPorts s f.dst vid p
    (s, (List.range 68).filter (fun e => fixed.contains e || fw.contains e), q)

/-- Does the entry that applies to a frame received at a port send it to internal port 64 + `k` (R111, R118)? -/
def classified (s : State) (p : Nat) (f : Frame) (k : Nat) : Bool :=
  match clsFind s f (vidOf s p f).1 p with
  | some (_, w) => bit (w.getD 6 0).toNat k
  | none => false

/-- A copy cut through is in transmission from its start on (R58, R103). -/
def ctGoes (s : State) (fr : SFrame) (c : Copy) : State :=
  let point : Int := (c.start : Int) + 8 * (byteU s c.port : Int) - (mono s : Int)
  let s' := { s with swc := { s.swc with copies := s.swc.copies.filter fun x => x != c } }
  match frameLeaves s' c.port fr c ((s.tim.time : Int) + point) with
  | (s, some f) => cnt { s with ports := { s.ports with tx := s.ports.tx ++ [{ c with sent := some f }] } } .swc 0 0x314
  | (s, none) => release s

/-- The end of a cut-through frame that proved bad (R105), at an instant, with the bytes written by then: started copies are stomped,
the others removed. A frame without a cut-through copy is only discarded (R107). -/
def lateError (s : State) (id n t : Nat) : State :=
  match frameOf s id with
  | none => s
  | some fr =>
    let cs := s.swc.copies.filter fun c => c.frame == id
    let drop (s : State) : State := dropCopies s fun c => c.frame == id
    if !cs.any (fun c => c.ct) then drop s
    else
      let begun := ctBegun s id t
      let s := forEach begun s fun s c =>
        emit (cnt (cnt s .prt c.port 0x15C) .swc 0 0x314) (.stomped c.port (egressFrame s fr c) n)
      let s := cntBy s .swc 0 0x310 (cs.length - begun.length)
      drop (irq (cnt s .swc 0 0x30C) .swc 3)

/-- The end of a good frame at an instant: cut-through copies that have started are in transmission; a copy whose turn came while
another of its tile was being sent so is sent store-and-forward (R103). -/
def goodEnd (s : State) (id t : Nat) : State :=
  match frameOf s id with
  | none => s
  | some fr =>
    let begun := ctBegun s id t
    let late := s.swc.copies.filter fun c => c.frame == id && ctTurn s t c && !begun.contains c
    let s := { s with swc := { s.swc with copies := s.swc.copies.map fun c => if late.contains c then { c with ct := false } else c } }
    forEach begun s fun s c => ctGoes s fr c

/-- How a frame that is handed over ends: good, or bad with the bytes written and the instant at which that is found. -/
inductive RxEnd where
  | good
  | bad (n t : Nat)
  deriving DecidableEq, Repr

/-- A frame handed to the switch (stage 9); `pcs` is the instant of its first bit after the start-of-frame delimiter. -/
def handOver (s : State) (p : Nat) (f : Frame) (stamp : Option Stamp) (pcs q : Nat) (e : RxEnd)
    (ring : Option (Nat × RedOut)) : State :=
  if !enabled s .swc || blank s then s
  else
    let (vid, pcp) := vidOf s p f
    let (s, ps, q) := decide3 s p f vid q
    let (s, ptp) := if f.etype = 0x88F7 then ptpForward (ptpBound s p f) p f else (s, [])
    let ps := ps.filter fun e => !pairDown s e && !(ptp.any fun d => d.port == e)
    let around : List Dest := match ring with
      | some (e, k) => [{ port := e, keep := some k }]
      | none => []
    let plain : List Dest := ps.map fun e => { port := e, pair := pairNum s e }
    let ds := (plain ++ ptp ++ around).map fun d =>
        { d with ct := if ctEligible s p d.port q d.pair.isSome then some (ctStart s p d.port pcs) else none }
    let n := 1 + (fldI s .prt p 0x40 16 14 + 6 - 64 + 127) / 128
    let id := s.swc.nextId
    let fr : SFrame := { fromInside p f stamp vid pcp q with strip := redBytes s p f }
    let s := takeIn s fr n (readyTimes s p pcs f.len) (e == .good) ds
    match e with
    | .good => learn (goodEnd s id (pcs + f.len * byteU s p)) f.src vid p
    | .bad n t => lateError s id n t

/-- Is a frame at the port received cut-through (R74, R102)? -/
def rxCt (s : State) (p : Nat) (f : Frame) : Bool :=
  inMap64 s 0x78 p && !inPrp s p && (match steer s p f with
    | some q => bit (reg s .swc 0 0x80) q
    | none => false)

/-- A frame at an external port, through the receive stages (R73), `pcs` the instant of its first bit after the start-of-frame
delimiter; `cut` says after how many bytes the port went down (R83). -/
def rxStages (s : State) (p : Nat) (f : Frame) (stamp : Option Stamp) (pcs : Nat) (cut : Option Nat) : State :=
  let max := fldI s .prt p 0x40 16 14
  let long := decide (checkedLen s p f > max)
  let fcs (s : State) : State := rxErr s p 0x10C 1
  -- an error found after the header: the bytes written, the count
  let late : Option (Nat × (State → State)) :=
    if let some n := cut then some (n, fcs)
    else if f.symErr then some (f.errAt, fun s => rxErr s p 0x138 1)
    else if f.fecUncorr ≠ 0 then some (f.len, fun s => rxErr s p 0x140 f.fecUncorr)
    else if checkedLen s p f < 64 then some (0, fun s => rxErr s p 0x110 1)
    else if long then some (max, fun s => rxErr s p 0x114 1)
    else none
  let whole (s : State) (e : RxEnd) (q : Nat) (ring : Option (Nat × RedOut)) : State :=
    if isDown s .switch then crossDrop s .prt p else handOver s p f stamp pcs q e ring
  let bad (s : State) (n : Nat) (tell : State → State) : State :=
    let t := pcs + n * byteU s p
    if rxCt s p f && decide (boundAt s p pcs f.len ≤ t) then
      match headStages s p f with
      | (s', some (q, ring)) => whole (tell s') (.bad n t) q ring
      | (_, none) => tell s
    else tell s
  match late with
  | some (n, tell) => bad s n tell
  | none =>
    if !f.fcsOk && !rxCt s p f then fcs s
    else
      match headStages s p f with
      | (s, none) => s
      | (s', some (q, ring)) =>
        if !f.fcsOk then bad s f.len fcs
        else if isDown s .switch then crossDrop s' .prt p
        else
          let s := bytesUp (cnt s' .prt p 0x100) p 0x104 f.len
          handOver (if f.etype = 0x88FB then cnt s .prt p 0x134 else s) p f stamp pcs q .good ring

/-- The frame's stamp from the tile's queue, or its loss (R52). -/
def takeStamp (s : State) (p dt : Nat) : State × Option Stamp :=
  if tsqLen s (p / 4) ≥ 256 then (tsqLost s p, none) else (s, some (rxStamp s p dt))

def receiveFrame (s : State) (p : Nat) (f : Frame) (dt : Nat) : State :=
  if !portUp s p then s
  else
    let (s, stamp) := takeStamp s p dt
    let s := if f.fecCorr = 0 then s else cntBy s .prt p 0x13C f.fecCorr
    rxStages s p f stamp (mono s - dt * cycleU s) none

def execFrameReceive (p : Fin 64) (f : Frame) (dt : Nat) (s : State) : Host.Outcome State Fault Refusal :=
  runOn (fun s => receiveFrame s p.val f dt) s

/-! ### INTERNAL_PORT_FRAME -/

def execInternalPortFrame (ip : Fin 4) (f : Frame) (queue : Fin 8) (s : State) : Host.Outcome State Fault Refusal :=
  runOn (fun s => sendOwn s (64 + ip.val) f queue.val) s

/-! ### TRANSMIT_START, TRANSMIT_END (R79, R87, R58) -/

/-- The copy that a port starts next: the head of its highest non-empty enabled queue (R79). -/
def nextCopy (s : State) (p : Nat) : Option Copy :=
  let q? := ((List.range 8).map fun i => 7 - i).find? fun q =>
    (s.swc.copies.any fun c => c.port == p && c.queue == q) && (decide (64 ≤ p) || bit (reg s .prt p 0x60) q)
  match q? with
  | some q => s.swc.copies.find? fun c => c.port == p && c.queue == q
  | none => none

/-- A transmission starts at a port, external, or internal port 64 to 67: the row stands at the timestamp point, 8 bytes after the
first preamble bit, with the copy's first two billets in the egress buffer (R102). A cut-through copy is sent so unless
another port of its tile sends one (R103). -/
def startTx (s : State) (p : Nat) : State :=
  if !anyUp s p || s.ports.tx.any (fun c => c.port == p) then s
  else
    match nextCopy s p with
    | none => s
    | some c =>
      match frameOf s c.frame with
      | none => s
      | some fr =>
        let s := { s with swc := { s.swc with copies := s.swc.copies.filter fun x => x != c } }
        match frameLeaves s p fr c s.tim.time with
        | (s, none) => release s
        | (s, some f) =>
          let ct := c.ct && !tileCt s p
          let now := mono s - 8 * byteU s p
          let c' := { c with sent := some f, ct := ct, start := if ct then max c.start now else now }
          let two := (fr.ptrs.take 2).filter fun x => !(bufOf s p).contains x
          let s := if p < 64 then { s with swc := { s.swc with buf := putK s.swc.buf p (bufOf s p ++ two) } } else s
          let s := { s with ports := { s.ports with tx := s.ports.tx ++ [c'] } }
          if ct then cnt s .swc 0 0x314 else s

def execTransmitStart (p : Fin 68) (s : State) : Host.Outcome State Fault Refusal := runOn (fun s => startTx s p.val) s

/-- The last byte of the frame in transmission has left (R106). The time core has then taken the port's egress stamps out of the queue
(R52; DESIGN CHOICE, assumption 118). -/
def endTx (s : State) (p : Nat) : State :=
  match s.ports.tx.find? fun c => c.port == p with
  | none => s
  | some c =>
    let s := dropCopies s fun x => x == c
    let s := { s with tim := { s.tim with tsq := s.tim.tsq.filter fun e => e.1 != p } }
    match c.sent with
    | none => s
    | some f =>
      if p < 64 then
        emit (bytesUp (cnt s .prt p 0x150) p 0x154 f.len) (.frame p f)
      else emit (cnt s .swc 0 (0x400 + (p - 64) * 0x20 + 8)) (.toInternal (p - 64) f)

def execTransmitEnd (p : Fin 68) (s : State) : Host.Outcome State Fault Refusal := runOn (fun s => endTx s p.val) s

/-! ### Link events -/

def execLinkUp (p : Fin 64) (s : State) : Host.Outcome State Fault Refusal := runOn (fun s => portUpNow s p.val) s

/-- The link of a port is lost (R83): `cut` is the frame in reception with the bytes received. It is discarded and counted, and its
cut-through copies end. -/
def linkLost (s : State) (p : Nat) (cut : Option (Frame × Nat)) : State :=
  if !portUp s p then s
  else
    match cut with
    | none => portDown s p
    | some (f, n) =>
      let pcs := mono s - n * byteU s p
      portDown (rxStages s p f (some (rxStamp s p ((mono s - pcs) / cycleU s))) pcs (some n)) p

def execLinkDown (p : Fin 64) (cut : Option (Frame × Nat)) (s : State) : Host.Outcome State Fault Refusal :=
  runOn (fun s => linkLost s p.val cut) s

def execFlushDone (p : Fin 64) (s : State) : Host.Outcome State Fault Refusal :=
  runOn (fun s => if s.ports.flushing.toNat.testBit p.val then flushEnd s p.val else s) s

/-! ### Redundant pairs -/

/-- The supervision frame of a pair (R85; its layout is that of IEC 62439-3, assumption 30). -/
def supervisionFrame (s : State) (n : Nat) (seq : BitVec 16) : Frame :=
  let w := pairWord s n
  let src := portMac s (pairA w)
  let pay : List Byte := [0x00, 0x01] ++ be 2 seq.toNat ++ [if pairHsr w then 23 else 20, 6] ++ macBytes src ++ [0, 0]
  { dst := 0x01154E000100, src := src, vlan := none, etype := 0x88FB, red := .plain, len := 64, pdu := .raw pay }

/-- The pair's supervision frame at each of its ports that is up, under the next number of its counter. VLAN, priority and queue are
those that PORT_A gives an untagged frame (assumption 105). -/
def supervise (s : State) (n : Nat) : State :=
  let w := pairWord s n
  if !pairEn w || !enabled s .swc || isDown s .switch then s
  else
    let f := supervisionFrame s n ((findK s.swc.pairSeq n).getD 0)
    let vid := fldI s .prt (pairA w) 0x48 0 12
    let pcp := fldI s .prt (pairA w) 0x48 12 3
    let ds : List Dest := (([pairA w, pairB w] : List Nat).filter fun p => portUp s p).map fun p => { port := p, pair := some n }
    if ds = [] then s
    else takeIn s (fromInside 66 f none vid pcp (fldI s .prt (pairA w) 0x4C (3 * pcp) 3)) 1 [mono s] true ds

def execSupervisionTransmit (pair : Fin 16) (s : State) : Host.Outcome State Fault Refusal :=
  runOn (fun s => supervise s pair.val) s

def execDdAgeExpiry (pair : Fin 16) (src : Mac) (seq : BitVec 16) (s : State) : Host.Outcome State Fault Refusal :=
  runOn (fun s =>
    let same (e : Dd) : Bool := e.pair == pair.val && e.src == src && e.seq == seq
    match s.swc.dd.find? same with
    | none => s
    | some e =>
      let s := { s with swc := { s.swc with dd := s.swc.dd.filter fun x => !same x } }
      if e.seenA && e.seenB then s else cnt s .swc 0 0x9050) s

/-! ### The forwarding table -/

def execFdbAgeExpiry (s : State) : Host.Outcome State Fault Refusal := runOn (fun s => fdbAge s) s

def execFdbOpDone (s : State) : Host.Outcome State Fault Refusal := runOn (fun s => fdbDone s) s

end Sys2Proof.Machine
end

