-- ==== Sys2Proof/Machine/SliceMem.lean ====
section
/-!
DEFINITION. A slice's view of memory: its state record, its translation (R262, R263), the dirty log (R277), the window's
interrupts (R265), and the rings that producers write for it (R134, R135, R264).
-/

namespace Sys2Proof.Machine

/-- A slice after reset (R264). -/
def Slice.free : Slice :=
  { state := .free, busy := false, pend := false, log := false, act := false, escalated := false, squash := false,
    outst := 0, tokens := 0, deficit := 0, weight := 16, rateEn := false, rate := 24000, burst := 64, sqTail := 0,
    sqHead := 0, cqHead := 0, cqTail := 0, rqTail := 0, rqHead := 0, refuse := 0, desc := none, blocked := false,
    migNext := 0, swapping := false, tokTime := 0 }

def slOf (s : State) (i : Nat) : Slice := (findK s.slc.s i).getD Slice.free

def setSl (s : State) (i : Nat) (x : Slice) : State := { s with slc := { s.slc with s := putK s.slc.s i x } }

/-- The offset of a register of the group of slice `i` (R284). -/
def slOff (i o : Nat) : Nat := 0x1000 + i * 0x80 + o

def slReg (s : State) (i o : Nat) : Nat := reg s .slc 0 (slOff i o)

def slReg2 (s : State) (i o : Nat) : Nat := reg2 s .slc 0 (slOff i o)

/-- The first address above DRAM (R2). -/
def dramEnd (s : State) : Nat := if s.fuse.variant = .s then 0x900000000 else 0xA00000000

def dramBase : Nat := 0x800000000

def inDram (s : State) (a n : Nat) : Bool := decide (dramBase ≤ a) && decide (a + n ≤ dramEnd s)

/-! ### Translation -/

/-- Offset of the IOMMU page in APC (R262). -/
def ioOff (o : Nat) : Nat := 0x10000 + o

def ioReg (s : State) (o : Nat) : Nat := reg s .apc 0 (ioOff o)

/-- The physical address of a queue base register of the IOMMU (RISC-V IOMMU 1.0, assumption 19). -/
def ioBase (s : State) (o : Nat) : Nat := (getBits (ioReg s o) 10 22 + getBits (ioReg s (o + 4)) 0 22 * 2 ^ 22) * 4096

def ioLog2 (s : State) (o : Nat) : Nat := getBits (ioReg s o) 0 5 + 1

/-- What translation gives an access: an address and the one it was asked for; a fault with the cause and the second value of its record; or an end
without a record (a fault that DTF keeps back, an error response of R26). -/
inductive Trans where
  | at (pa of : Nat)
  | fault (cause iotval2 : Nat)
  | ended
  deriving DecidableEq, Repr

/-- A walk over the remaining `k` levels of a page table (RISC-V privileged architecture, assumption 21). `look` gives the
physical address of an entry, `pf` and `af` are the causes of a page fault and of an access fault, `v2` the second value of a
page fault's record, `extra` the bits by which the root is wider. The IOMMU writes no accessed or dirty bit, and every access is
one of user mode. -/
def ptWalk (s : State) (look : Nat → Trans) (write : Bool) (va pf af v2 : Nat) : (k extra base : Nat) → Trans
  | 0, _, _ => .fault pf v2
  | k + 1, extra, base =>
    match look (base + 8 * getBits va (12 + 9 * k) (9 + extra)) with
    | .at p _ =>
      if !inDram s p 8 then .fault af 0
      else
        let e := rdNum s p 8
        let ppn := getBits e 10 44
        let leaf := bit e 1 || bit e 3
        if !bit e 0 || (!bit e 1 && bit e 2) || e / 2 ^ 54 != 0 then .fault pf v2
        else if leaf then
          if !bit e 4 || !bit e (if write then 2 else 1) || !bit e 6 || (write && !bit e 7) || ppn % 2 ^ (9 * k) != 0 then .fault pf v2
          else .at (ppn * 4096 + va % 2 ^ (12 + 9 * k)) va
        else if bit e 4 || bit e 6 || bit e 7 then .fault pf v2
        else ptWalk s look write va pf af v2 k 0 (ppn * 4096)
    | r => r

/-- The second stage (R263): a root in the form of hgatp, Sv39x4 or Sv48x4, or none for the PCIe host. `store` tells the access that the cause is for, `write`
what this stage must permit; the record's second value is the guest physical address, with bit 0 for an implicit access. -/
def gStage (s : State) (gatp : Nat) (store write implicit : Bool) (gpa : Nat) : Trans :=
  let pf := if store then 23 else 21
  let af := if store then 7 else 5
  let v2 := gpa / 4 * 4 + ofBit implicit 0
  let root := getBits gatp 0 44 / 4 * 4 * 4096
  let wide := getBits gatp 60 4 == 9
  if getBits gatp 60 4 = 0 then .at gpa gpa
  else if (if wide then 2 ^ 50 else 2 ^ 41) ≤ gpa then .fault pf v2
  else ptWalk s (fun a => .at a a) write gpa pf af v2 (if wide then 4 else 3) 2 root

/-- The first stage: Bare, Sv39 or Sv48, its entries read through the second stage. -/
def vStage (s : State) (gatp satp : Nat) (write : Bool) (va : Nat) : Trans :=
  let mode := getBits satp 60 4
  if mode = 0 then .at va va
  else
    let n := if mode = 9 then 48 else 39
    let pf := if write then 15 else 13
    let top := va / 2 ^ (n - 1)
    if top ≠ 0 ∧ top ≠ 2 ^ (65 - n) - 1 then .fault pf 0
    else ptWalk s (gStage s gatp write false true) write va pf (if write then 7 else 5) 0 (if mode = 9 then 4 else 3) 0
      (getBits satp 0 44 * 4096)

/-- The process directory with 20-bit process_id: entry `pid`, over the `k` levels above the last (RISC-V IOMMU 1.0, assumption 21). -/
def pdtWalk (s : State) (gatp pid : Nat) (write : Bool) : (k base : Nat) → Trans
  | 0, base => gStage s gatp write false true (base + 16 * getBits pid 0 8)
  | k + 1, base =>
    match gStage s gatp write false true (base + 8 * getBits pid (if k = 0 then 8 else 17) (if k = 0 then 9 else 3)) with
    | .at p _ =>
      if !inDram s p 8 then .fault 265 0
      else
        let e := rdNum s p 8
        if !bit e 0 then .fault 266 0
        else if getBits e 1 9 ≠ 0 ∨ e / 2 ^ 54 ≠ 0 then .fault 267 0
        else pdtWalk s gatp pid write k (getBits e 10 44 * 4096)
    | r => r

/-- The first-stage context of process `pid`: the `fsc` word of its process context, or the fault. -/
def procFsc (s : State) (gatp pid pdtp : Nat) (write : Bool) : Trans × Nat :=
  match pdtWalk s gatp pid write 2 (getBits pdtp 0 44 * 4096) with
  | .at p _ =>
    if !inDram s p 16 then (.fault 265 0, 0)
    else
      let ta := rdNum s p 8
      let fsc := rdNum s (p + 8) 8
      if !bit ta 0 then (.fault 266 0, 0)
      else if getBits ta 3 9 ≠ 0 ∨ ta / 2 ^ 32 ≠ 0 ∨ (bit ta 2 ∧ !bit ta 1) ∨ getBits fsc 44 16 ≠ 0 ∨
          !List.contains [0, 8, 9] (getBits fsc 60 4) then (.fault 267 0, 0)
      else (.at p p, fsc)
  | r => (r, 0)

/-- Both stages one after the other. -/
def twoStage (s : State) (gatp fsc addr : Nat) (write : Bool) : Trans :=
  match vStage s gatp fsc write addr with
  | .at gpa _ => gStage s gatp write write false gpa
  | r => r

/-- The first stage of device `dev` with process `pid`, or without one, by its context in the one-level directory, then the second
stage (R262, R263). With the directory in mode Bare there is no first stage. -/
def ioTranslate (s : State) (dev : Nat) (pid : Option Nat) (gatp addr : Nat) (write : Bool) : Trans :=
  let mode := getBits (ioReg s 0x10) 0 4
  if mode = 0 then .fault 256 0
  else if mode = 1 then twoStage s gatp 0 addr write
  else
    let a := ioBase s 0x10 + 32 * dev
    if !inDram s a 32 then .fault 257 0
    else
      let tc := rdNum s a 8
      let fsc := rdNum s (a + 24) 8
      let pdtv := bit tc 5
      let fmode := getBits fsc 60 4
      if !bit tc 0 then .fault 258 0
      else if getBits tc 1 3 ≠ 0 ∨ getBits tc 6 3 ≠ 0 ∨ (bit tc 9 ∧ !pdtv) ∨ tc / 2 ^ 10 ≠ 0 ∨ getBits fsc 44 16 ≠ 0 ∨
          !(if pdtv then [0, 3].contains fmode else [0, 8, 9].contains fmode) then .fault 259 0
      else
        let proc (p : Nat) : Trans :=
          match procFsc s gatp p fsc write with
          | (.at _ _, f) => twoStage s gatp f addr write
          | (r, _) => r
        let r : Trans :=
          match pid with
          | some p => if !pdtv then .fault 260 0 else if fmode = 0 then twoStage s gatp 0 addr write else proc p
          | none =>
            if !pdtv then twoStage s gatp fsc addr write
            else if fmode = 0 ∨ !bit tc 9 then twoStage s gatp 0 addr write else proc 0
        match r with
        | .fault c v => if bit tc 4 then .ended else .fault c v
        | r => r

/-- Bits of a register of the IOMMU page set. -/
def ioSet (s : State) (o bits : Nat) : State := setReg s .apc 0 (ioOff o) (Nat.lor (ioReg s o) bits)

/-- A record put into the fault queue (RISC-V IOMMU 1.0, assumption 19), or an overflow or a memory fault noted; the flag says that there is
something for the fault queue's interrupt. -/
def ioPush (s : State) (dev rec0 iova iotval2 : Nat) : State × Bool :=
  let csr := ioReg s 0x4C
  if !bit csr 16 || getBits csr 8 2 != 0 then (s, false)
  else
    let n := 2 ^ ioLog2 s 0x28
    let t := ioReg s 0x34
    let a := ioBase s 0x28 + t % n * 32
    if (t + 1) % n = ioReg s 0x30 % n then (ioSet s 0x4C 0x200, true)
    else if !inDram s a 32 || isDown s .memory then (ioSet s 0x4C 0x100, true)
    else
      let s := wrBytes s a (le 8 rec0 ++ le 8 0 ++ le 8 iova ++ le 8 iotval2)
      let s := setReg s .apc 0 (ioOff 0x34) ((t + 1) % n)
      ({ s with slc := { s.slc with faultQ := s.slc.faultQ ++ [(dev, iova)] } }, true)

/-- The message of interrupt `n` of the IOMMU, 0 of the command queue and 1 of the fault queue, by its vector: kept while the vector is
masked, a record where its address does not exist. -/
def ioMsi (s : State) (n : Nat) : State × Bool :=
  let v := getBits (ioReg s 0x2F8) (4 * n) 4
  let e := 0x300 + 16 * v
  if bit (ioReg s (e + 12)) 0 then
    ({ s with slc := { s.slc with msiPend := n :: s.slc.msiPend.filter fun k => k != n } }, false)
  else
    let a := reg2 s .apc 0 (ioOff e)
    let d := ioReg s (e + 8)
    if inDram s a 4 && isUp s .memory then (emit (wrNum s a 4 d) (.iommuMsi v a (BitVec.ofNat 32 d)), false)
    else ioPush s 0 273 a 0

/-- The interrupt of the fault queue, when it is enabled and not pending yet. -/
def ioFaultIrq (s : State) : State :=
  if bit (ioReg s 0x4C) 1 && !bit (ioReg s 0x54) 1 then (ioMsi (ioSet s 0x54 2) 1).1 else s

/-- The same of the command queue. -/
def ioCmdIrq (s : State) : State :=
  if bit (ioReg s 0x48) 1 && !bit (ioReg s 0x54) 0 then
    match ioMsi (ioSet s 0x54 1) 0 with
    | (s, true) => ioFaultIrq s
    | (s, false) => s
  else s

/-- A translation fault places a record in the fault queue (R263). -/
def iommuFault (s : State) (dev : Nat) (pid : Option Nat) (iova : Nat) (write : Bool) (cause iotval2 : Nat) : State :=
  let who := (pid.map fun p => p % 2 ^ 20 * 2 ^ 12 + 2 ^ 32).getD 0
  match ioPush s dev (cause + who + (if write then 3 else 2) * 2 ^ 34 + dev * 2 ^ 40) iova iotval2 with
  | (s, true) => ioFaultIrq s
  | (s, false) => s

/-- The translation of an access of slice `i` (R263, R273): device ID `i`, its context blocked while the slice is squashed. While Memory
is down there is no access (R15). -/
def slTranslate (s : State) (i addr : Nat) (write : Bool) : Trans :=
  if isDown s .memory then .ended
  else if (slOf s i).blocked then .fault 258 0
  else
    match ioTranslate s i (some (slReg s i 4)) (slReg2 s i 8) addr write with
    | .at p g => if inDram s p 1 then .at p g else .ended
    | r => r

/-- What a faulting access of slice `i` leaves. -/
def slFault (s : State) (i addr : Nat) (write : Bool) : Trans → State
  | .fault c v => iommuFault s i (some (slReg s i 4)) addr write c v
  | .at _ _ | .ended => s

/-- The translation of an access of the PCIe host: device ID 64, the second stage that its context names (R27, R262). -/
def hostTranslate (s : State) (addr : Nat) (write : Bool) : Trans :=
  let gatp := if getBits (ioReg s 0x10) 0 4 = 1 then 0 else rdNum s (ioBase s 0x10 + 32 * 64 + 8) 8
  match ioTranslate s 64 none gatp addr write with
  | .at p g => if inDram s p 4 then .at p g else .ended
  | r => r

/-- An access cut at the 4 KiB boundaries. -/
def chunks : (fuel addr n : Nat) → List (Nat × Nat)
  | 0, _, _ => []
  | f + 1, a, n =>
    if n = 0 then []
    else
      let k := min n (4096 - a % 4096)
      (a, k) :: chunks f (a + k) (n - k)

def chunksOf (a n : Nat) : List (Nat × Nat) := chunks (n / 4096 + 2) a n

/-- Memory transactions of a slice issued and not answered yet (R273). -/
def issued (s : State) (i k : Nat) : State := setSl s i { slOf s i with outst := min ((slOf s i).outst + k) 65535 }

/-- The dirty log of a write through device ID `i` to a guest physical address (R277); a bitmap's byte outside DRAM is not written
(R26). -/
def logDirty (s : State) (i addr : Nat) : State :=
  let x := slOf s i
  if !x.log then s
  else
    let g := slReg2 s i 0x48
    let n := getBits (slReg s i 0x60) 0 22
    if g ≤ addr ∧ addr < g + n * 4096 then
      let k := (addr - g) / 4096
      let b := (if x.act then slReg2 s i 0x58 else slReg2 s i 0x50) + k / 8
      if inDram s b 1 then issued (wrBytes s b [rdByte s b ||| BitVec.ofNat 8 (2 ^ (k % 8))]) i 1 else s
    else cnt s .slc 0 (slOff i 0x78)

/-- A write of slice `i`: chunk by chunk, ended by a translation fault (R263). True when all of it was written. -/
def dmaWrite (s : State) (i addr : Nat) (bs : List Byte) : State × Bool :=
  (chunksOf addr bs.length).foldl (fun (r : State × Bool) c =>
      if !r.2 then r
      else match slTranslate r.1 i c.1 true with
        | .at p g => (logDirty (issued (wrBytes r.1 p (slice bs (c.1 - addr) c.2)) i 1) i g, true)
        | x => (slFault r.1 i c.1 true x, false)) (s, true)

/-- A read of slice `i`. -/
def dmaRead (s : State) (i addr n : Nat) : State × Option (List Byte) :=
  (chunksOf addr n).foldl (fun (r : State × Option (List Byte)) c =>
      match r.2 with
      | none => r
      | some bs =>
        match slTranslate r.1 i c.1 false with
        | .at p _ => (issued r.1 i 1, some (bs ++ rdBytes r.1 p c.2))
        | x => (slFault r.1 i c.1 false x, none)) (s, some [])

/-! ### Window interrupts -/

/-- An interrupt of the window's faceplate; a pending one is signalled as an MSI through device ID `i` (R265). -/
def swIrq (s : State) (i n : Nat) : State :=
  let on := bit (reg s .sw i 0x14) n
  let s := irqI s .sw i n
  if !on then s
  else
    let a := reg2 s .apc 0 (0x400 + i * 0x10)
    let d := reg s .apc 0 (0x408 + i * 0x10)
    match dmaWrite s i a (le 4 d) with
    | (s, true) => emit s (.msi i a (BitVec.ofNat 32 d))
    | (s, false) => s

/-- A change of a slice's state (R264). -/
def slGo (s : State) (i : Nat) (st : SlState) : State := swIrq (setSl s i { slOf s i with state := st }) i 5

/-! ### Rings of producers -/

def ringOf (r : Rings) (i : Nat) : Ring := (findK r i).getD { prod := 0, fault := false }

/-- Does the state give the window's registers an access fault on a write (R264)? -/
def windowClosed (x : Slice) : Bool := x.state == .free || x.state == .parting || x.state == .receiving

/-- May a producer write rings of the slice (R264)? Otherwise the write is gated and counted. -/
def ringOpen (s : State) (i : Nat) : Bool := (slOf s i).state == .active

def ringGated (s : State) (i : Nat) : State := cnt s .slc 0 (slOff i 0x70)

/-- An entry of a ring in the order of R135: repeated sequence 0, header and content, repeated sequence, producer index.
The entry is given by its sequence number; `rep` is where the repeated sequence stands, `tail` the reserved bytes after
it. The ring after the write. While Memory is down the block `b` discards the entry at the crossing (R15). -/
def ringWrite (s : State) (b : Blk) (i base log2n stride rep tail : Nat) (r : Ring) (entry : Nat → List Byte) : State × Ring :=
  let a := base + 64 + r.prod % 2 ^ log2n * stride
  let q := (r.prod + 1) % 2 ^ 32
  if isDown s .memory then (crossDrop s b 0, r)
  else
  match dmaWrite s i (a + rep) (le 4 0) with
  | (s, false) => (s, { r with fault := true })
  | (s, true) =>
    match dmaWrite s i a (padTo rep (entry q) ++ List.replicate (4 + tail) 0) with
    | (s, false) => (s, { r with fault := true })
    | (s, true) =>
      match dmaWrite s i (a + rep) (le 4 q) with
      | (s, false) => (s, { r with fault := true })
      | (s, true) =>
        match dmaWrite s i base (le 4 q) with
        | (s, false) => (s, { r with fault := true })
        | (s, true) => (s, { r with prod := q })

def roundUp (n k : Nat) : Nat := (n + k - 1) / k * k

end Sys2Proof.Machine
end

