-- ==== Sys2Proof/Machine/Wire.lean ====
section
/-!
DEFINITION. The octets of a frame after its EtherType: SV and GOOSE in the encodings of IEC 61850-9-2 and 61850-8-1 (R119, R256),
PTP messages in those of IEEE 1588-2008, UDP over IPv4 with both checksums (R181, R215). What the spec leaves to those
standards is taken from them (assumption 24).
-/

namespace Sys2Proof.Machine

/-! ### ASN.1 -/

/-- A length, minimal (R256). -/
def berLen (n : Nat) : List Byte :=
  if n < 128 then be 1 n else if n < 256 then 0x81 :: be 1 n else if n < 65536 then 0x82 :: be 2 n else 0x83 :: be 3 n

def tlv (tag : Byte) (v : List Byte) : List Byte := tag :: (berLen v.length ++ v)

/-- A value of INTEGER that is not negative, minimal. -/
def berNat (v : Nat) : List Byte := be ((if v = 0 then 0 else Nat.log2 v + 1) / 8 + 1) v

def berBool (b : Bool) : List Byte := be 1 (ofBit b 0)

/-! ### The authentication extension (R120) -/

/-- The extension up to its tag: algorithm, key identifier, initialisation vector. -/
def extHead (x : AuthExt) : List Byte := be 1 x.alg ++ be 4 x.keyId.toNat ++ be 1 x.iv.length ++ x.iv

def extBytes : Option AuthExt → List Byte
  | none => []
  | some x => extHead x ++ x.tag

/-- The header of 61850 frames: APPID, length, the simulation bit and the extension's length in Reserved 1, Reserved 2. -/
def header61850 (appid : BitVec 16) (sim : Bool) (ext : Option AuthExt) (apdu : List Byte) : List Byte :=
  be 2 appid.toNat ++ be 2 (8 + apdu.length) ++ be 2 (ofBit sim 15 + (extBytes ext).length % 256) ++ be 2 0 ++ apdu

/-! ### SV and GOOSE -/

def optional (b : Bool) (v : List Byte) : List Byte := if b then v else []

def asduBytes (svId : List Byte) (a : Asdu) : List Byte :=
  tlv 0x30 (tlv 0x80 svId ++ optional (a.datSet != []) (tlv 0x81 a.datSet) ++ tlv 0x82 (be 2 a.smpCnt) ++
    tlv 0x83 (be 4 a.confRev) ++ optional (a.refrTm != []) (tlv 0x84 a.refrTm) ++ tlv 0x85 (be 1 a.smpSynch) ++
    (match a.smpRate with
     | some r => tlv 0x86 (be 2 r)
     | none => []) ++
    tlv 0x87 ((a.elems.map fun e => be 4 (ofSigned 32 e.value) ++ be 4 e.quality.toNat).flatten) ++
    (match a.smpMod with
     | some r => tlv 0x88 (be 2 r)
     | none => []))

def svApdu (p : SvPdu) : List Byte :=
  tlv 0x60 (tlv 0x80 (berNat p.asdus.length) ++ tlv 0xA2 ((p.asdus.map fun a => asduBytes p.svId a).flatten))

def gooseApdu (p : GoosePdu) : List Byte :=
  tlv 0x61 (tlv 0x80 p.gocbRef ++ tlv 0x81 (berNat p.tal) ++ tlv 0x82 p.datSet ++ optional (p.goId != []) (tlv 0x83 p.goId) ++
    tlv 0x84 p.t ++ tlv 0x85 (berNat p.stNum) ++ tlv 0x86 (berNat p.sqNum) ++ tlv 0x87 (berBool p.test) ++
    tlv 0x88 (berNat p.confRev) ++ tlv 0x89 (berBool p.ndsCom) ++ tlv 0x8A (berNat p.numEntries) ++ tlv 0xAB p.allData)

/-! ### PTP -/

/-- The 34-byte header; `n` is the message's length, `lo` the second flag octet, `ctl` the control field. -/
def ptpHeader (code n : Nat) (domain : BitVec 8) (twoStep : Bool) (lo : Nat) (corr : Int) (id : BitVec 64)
    (num seq : BitVec 16) (ctl : Nat) : List Byte :=
  be 1 code ++ be 1 2 ++ be 2 n ++ be 1 domain.toNat ++ be 1 0 ++ be 1 (ofBit twoStep 1) ++ be 1 lo ++
    be 8 (ofSigned 64 corr) ++ be 4 0 ++ be 8 id.toNat ++ be 2 num.toNat ++ be 2 seq.toNat ++ be 1 ctl ++ be 1 0

def ptpCodeOf : PtpType → Nat
  | .sync => 0 | .pdelayReq => 2 | .pdelayResp => 3 | .followUp => 8 | .pdelayRespFollowUp => 0xA | .announce => 0xB
  | .management => 0xD | .other => 0xC

def ptpBytes (m : PtpMsg) : List Byte :=
  let time := be 6 m.sec ++ be 4 m.ns
  let who := be 8 m.reqClockId.toNat ++ be 2 m.reqPortNum.toNat
  let body : List Byte := match m.type with
    | .pdelayReq => time ++ List.replicate 10 0
    | .pdelayResp | .pdelayRespFollowUp => time ++ who
    | .sync | .followUp | .announce | .management | .other => time
  ptpHeader (ptpCodeOf m.type) (34 + body.length) m.domain m.twoStep 0 m.correction m.clockId m.portNum m.seqId
    (match m.type with
     | .sync => 0
     | .followUp => 2
     | .management => 4
     | _ => 5) ++ body

/-- An Announce, with the TLV of IEEE C37.238 where it carries one. -/
def annBytes (a : Announce) : List Byte :=
  let tlv : List Byte := match a.tlvInacc with
    | some v => be 2 3 ++ be 2 18 ++ [0x1C, 0x12, 0x9D, 0, 0, 2] ++ be 2 0 ++ be 4 0 ++ be 4 v ++ be 2 0
    | none => []
  ptpHeader 0xB (64 + tlv.length) a.domain false (ofBit a.leap61 0 + ofBit a.leap59 1 + ofBit a.utcValid 2 + 8) 0 a.clockId
    a.portNum a.seqId 5 ++
    List.replicate 10 0 ++ be 2 a.utcOffset ++ be 1 0 ++ be 1 a.gmPriority1.toNat ++ be 1 a.gmClass.toNat ++
    be 1 a.gmAccuracy.toNat ++ be 2 a.gmVariance.toNat ++ be 1 a.gmPriority2.toNat ++ be 8 a.gmId.toNat ++
    be 2 a.stepsRemoved ++ be 1 0xA0 ++ tlv

/-! ### UDP over IPv4 -/

/-- The sum of the 16-bit words of some bytes, an odd last byte padded with 0. -/
def sumWords : List Byte → Nat
  | [] => 0
  | [a] => a.toNat * 256
  | a :: b :: l => a.toNat * 256 + b.toNat + sumWords l

/-- The complement of the ones' complement sum. -/
def inetSum (b : List Byte) : BitVec 16 :=
  let n := sumWords b
  let n := n % 65536 + n / 65536
  ~~~(BitVec.ofNat 16 (n % 65536 + n / 65536))

/-- The header of a datagram, its checksum field as given: no options, one fragment. -/
def ipHeader (d : UdpPdu) (sum : BitVec 16) : List Byte :=
  [0x45] ++ be 1 d.tos.toNat ++ be 2 (28 + d.payload.length) ++ be 2 d.ident.toNat ++ be 2 (ofBit d.df 14) ++
    be 1 d.ttl.toNat ++ [17] ++ be 2 sum.toNat ++ be 4 d.srcIp.toNat ++ be 4 d.dstIp.toNat

def udpPart (d : UdpPdu) (sum : BitVec 16) : List Byte :=
  be 2 d.srcPort.toNat ++ be 2 d.dstPort.toNat ++ be 2 (8 + d.payload.length) ++ be 2 sum.toNat ++ d.payload

/-- The UDP checksum, over the pseudo-header too; a sum of 0 is sent as 0xFFFF. -/
def udpChecksum (d : UdpPdu) : BitVec 16 :=
  let c := inetSum (be 4 d.srcIp.toNat ++ be 4 d.dstIp.toNat ++ [0, 17] ++ be 2 (8 + d.payload.length) ++ udpPart d 0)
  if c = 0 then 0xFFFF else c

/-- The datagram with both checksums computed (R181, R215). -/
def withSums (d : UdpPdu) : UdpPdu := { d with ipSum := inetSum (ipHeader d 0), udpSum := udpChecksum d }

/-! ### All of them -/

/-- The octets after the EtherType, without FCS. -/
def pduBytes : Pdu → List Byte
  | .raw b => b
  | .sv p => header61850 p.appid p.sim p.ext (svApdu p) ++ extBytes p.ext
  | .goose p => header61850 p.appid p.sim p.ext (gooseApdu p) ++ extBytes p.ext
  | .ptp m => ptpBytes m
  | .ann a => annBytes a
  | .udp d => ipHeader d d.ipSum ++ udpPart d d.udpSum

/-- The span of the tag (R123): from the EtherType to the tag, without it. -/
def spanBytes (f : Frame) : List Byte :=
  be 2 f.etype.toNat ++ match f.pdu with
  | .sv p => header61850 p.appid p.sim p.ext (svApdu p) ++ (p.ext.map extHead).getD []
  | .goose p => header61850 p.appid p.sim p.ext (gooseApdu p) ++ (p.ext.map extHead).getD []
  | .raw b => b
  | .ptp _ | .ann _ | .udp _ => []

end Sys2Proof.Machine
end

