-- ==== Sys2Proof/Machine/Stream.lean ====
section
/-!
DEFINITION. The subscriber of the Stream island: pre-match and the verification FIFO (R118, R121, R124), verification
(R123), sample counters and times (R125 to R128), resampling (R129), alignment and release (R130 to R135), GOOSE
subscription (R136 to R138), and the table operations and resets (R122, R140).
-/

namespace Sys2Proof.Machine

/-! ### Table -/

/-- Bits of word `k` of a stream table entry (R121). -/
def ew (w : List Word) (k lsb n : Nat) : Nat := getBits (w.getD k 0).toNat lsb n

def entValid (w : List Word) : Bool := ew w 5 0 1 == 1
def entWait (w : List Word) : Bool := ew w 5 1 1 == 1
def entRate (w : List Word) : Nat := ew w 2 16 16
/-- The taps on one side of the window (R129). -/
def entTaps (w : List Word) : Nat := if ew w 5 3 2 = 0 then 1 else if ew w 5 3 2 = 1 then 2 else 4

/-- Slices of a GOOSE entry's mask. -/
def entSlices (w : List Word) : List Nat := bitsOf (ew w 6 0 32 + ew w 7 0 32 * 2 ^ 32) 64

def SvSub.idle : SvSub :=
  { state := .idle, next := 0, idx := 0, hist := [], sync := none, est := none, minE := none, cntE := 0, refused := [],
    recSec := none }

def GSub.idle : GSub :=
  { state := .idle, stNum := 0, sqNum := 0, confRev := none, discards := 0, deadline := 0, recSec := none }

def svOf (s : State) (i : Nat) : SvSub := (findK s.svs.sv i).getD SvSub.idle
def setSv (s : State) (i : Nat) (x : SvSub) : State := { s with svs := { s.svs with sv := putK s.svs.sv i x } }
def gOf (s : State) (g : Nat) : GSub := (findK s.svs.goose g).getD GSub.idle
def setG (s : State) (g : Nat) (x : GSub) : State := { s with svs := { s.svs with goose := putK s.svs.goose g x } }

/-- The pre-match (R121): the lowest valid entry of the right type, for the VID after R76. -/
def preMatch (s : State) (f : Frame) (vid : Nat) : Option (Nat × List Word) :=
  let sv := f.etype == 0x88BA
  let go := f.etype == 0x88B8
  s.svs.tab.find? fun e =>
    ((sv && decide (e.1 < 512)) || (go && decide (512 ≤ e.1))) && entValid e.2 &&
      macOf (ew e.2 0 0 32) (ew e.2 1 0 16) == f.dst && (ew e.2 1 31 1 == 1 || ew e.2 1 16 12 == vid) &&
      ew e.2 2 0 16 == appidOf f

/-! ### Stages 1 and 2 -/

/-- The ASDUs that a frame counts for (R139). -/
def asduCount (f : Frame) : Nat :=
  match f.pdu with
  | .sv p => max 1 p.asdus.length
  | _ => 1

def frameSim (f : Frame) : Bool :=
  match f.pdu with
  | .sv p => p.sim
  | .goose p => p.sim
  | _ => false

def frameExt (f : Frame) : Option AuthExt :=
  match f.pdu with
  | .sv p => p.ext
  | .goose p => p.ext
  | _ => none

def simAccept (s : State) : Bool := flag s .svs 0x40 16

/-- A per-subscription counter increased by `n`. -/
def subCnt (s : State) (o i n : Nat) : State :=
  setRegB s .svs 0 o i (min (regB s .svs 0 o i + n) 0xFFFFFFFF)

/-- A frame at the subscriber (R118 stages 1 and 2, R124), received at a port `dt` timebase cycles ago. It gets there only by a
classification entry. -/
def subscribe (s : State) (p : Nat) (f : Frame) (dt : Nat) : State :=
  if !enabled s .svs || isDown s .stream || !classified s p f 0 then s
  else
    match preMatch s f (vidOf s p f).1 with
    | none => cnt s .svs 0 0x300
    | some (i, w) =>
      if frameSim f && !simAccept s then subCnt s 0xC4 i (asduCount f)
      else if s.svs.fifo.length ≥ 64 then irq (subCnt (cnt s .svs 0 0x308) 0xE4 i (asduCount f)) .svs 6
      else { s with svs := { s.svs with
              fifo := s.svs.fifo ++ [{ frame := f, entry := i, words := w, stamp := rxStamp s p dt }] } }

/-! ### Stage 3: verification (R123) -/

/-- The identifier held with a symmetric slot, of the test slots under debug (R358). -/
def slotId (s : State) (n : Nat) : Option (BitVec 32) :=
  if s.fuse.debug then (findK s.chk.test n).map fun k => k.id else ((slotOf s 0 n).key).map fun k => k.id

/-- The verdict on a frame: the state after the key load, and the reason of a refusal. -/
def verify (s : State) (v : VFrame) : State × Option Nat :=
  match frameExt v.frame with
  | none => (s, if ew v.words 5 2 1 = 1 then some 0 else none)
  | some x =>
    if !x.formatOk then (s, some 5)
    else
      let a := ew v.words 5 8 6
      let b := ew v.words 5 16 6
      let slot? := if slotId s a = some x.keyId then some a else if slotId s b = some x.keyId then some b else none
      match slot? with
      | none => (s, some 1)
      | some n =>
        match loadSym s n 0 with
        | (s, none) => (s, some 2)
        | (s, some k) =>
          if x.alg ≠ ew v.words 5 24 2 then (s, some 3)
          else if streamTag x.alg k x.iv (spanBytes v.frame) = some x.tag then (s, none)
          else (s, some 4)

/-! ### Sample times and resampling -/

/-- The instant of a label in 2^-16 ns; the label holds the exact instant truncated (R49). -/
def Label.frac (l : Label) : Nat := l.k * 625000 % 9 * 65536 / 9
def Label.ns (l : Label) : Nat := l.k * 625000 / 9
def Label.units (l : Label) : Nat := (l.sec * 1000000000 + l.ns) * 65536 + l.frac
def Label.stamp (l : Label) : Stamp :=
  { sec := l.sec, ns := l.ns, frac := l.frac, quality := l.quality, epoch := l.epoch }

/-- 10^9 ns in 2^-16 ns. -/
def secU16 : Nat := 1000000000 * 65536

/-- The whole second that sample `n` of a globally synchronised stream belongs to (R127): the latest for which the
sample is not later than the instant given in 2^-16 ns. -/
def sampleSec (rate n units : Nat) : Nat :=
  let s := units / secU16
  if n * 1000000000 * 65536 / rate ≤ units % secU16 then s else s - 1

/-- The grain instant in input-sample units, as numerator; the denominator is `secU16` (R129). -/
def grainPos (x : SvSub) (rate : Nat) (l : Label) : Option Int :=
  if x.sync = some 2 then some ((l.units * rate : Nat) : Int)
  else x.est.map fun o => ((l.units * rate : Nat) : Int) - o

/-- i0 and the phase of a position (R129). -/
def phaseOf (v : Int) : Int × Nat :=
  let i0 := v / (secU16 : Int)
  let r := (v % (secU16 : Int)).toNat
  let p := (2 * r * 256 + secU16) / (2 * secU16)
  if p = 256 then (i0 + 1, 0) else (i0, p)

/-- Coefficients c[p][m], m = −h + 1 … h, in Q17 (R129). -/
def rsCoef (h p : Nat) : List Int :=
  let q : Int := p
  let raw : List Int :=
    if h = 1 then [131072 - 512 * q, 512 * q]
    else if h = 2 then
      [roundAway (-(q * (q - 256) * (q - 512))) 768, roundAway ((q + 256) * (q - 256) * (q - 512)) 256,
       roundAway (-((q + 256) * q * (q - 512))) 256, roundAway ((q + 256) * q * (q - 256)) 768]
    else
      let w : List Int := (List.range 8).map fun j =>
        let n : Int := q - ((j : Int) - 3) * 256
        mulFx (sincFx n 256) (kaiser 5000 n 256 4)
      let sum : Int := w.foldl (fun a b => a + b) 0
      w.map fun c => roundAway (131072 * c) sum.toNat
  let rest := 131072 - raw.foldl (fun a b => a + b) 0
  raw.mapIdx fun j c => if j = (if p < 128 then h - 1 else h) then c + rest else c

def sampleAt (x : SvSub) (i : Int) : Option (List SvElem) :=
  (x.hist.find? fun y => (y.idx : Int) = i).bind fun y => y.elems

/-- How bad a validity is: good, questionable, reserved, invalid (assumption 33). -/
def validityRank (v : Nat) : Nat := if v = 0 then 0 else if v = 3 then 1 else if v = 2 then 2 else 3

/-- The eight channels of a subscription for a grain (R129): none is MISSING. -/
def resample (x : SvSub) (w : List Word) (l : Label) : Option (List (Int × BitVec 16)) :=
  match grainPos x (entRate w) l with
  | none => none
  | some v =>
    let (i0, p) := phaseOf v
    let h := entTaps w
    let win : List (Option (List SvElem)) := (List.range (2 * h)).map fun j => sampleAt x (i0 - h + 1 + (j : Int))
    if win.any (fun e => e.isNone) then none
    else
      let rows : List (List SvElem) := win.filterMap fun e => e
      let c := rsCoef h p
      let src := rows.getD (if p < 128 then h - 1 else h) []
      some ((List.range 8).map fun e =>
        let col : List SvElem := rows.map fun r => r.getD e { value := 0, quality := 0 }
        let acc : Int := (List.zipWith (fun a (b : SvElem) => a * b.value) c col).foldl (fun a b => a + b) 0
        let q0 := (src.getD e { value := 0, quality := 0 }).quality.toNat
        let worst := col.foldl (fun a b => if validityRank (b.quality.toNat % 4) > validityRank a then b.quality.toNat % 4
          else a) 0
        (satS 32 (roundAway acc 131072), BitVec.ofNat 16 ((q0 % 2 ^ 14) / 4 * 4 + worst)))

/-- Has a subscription delivered for a grain (R130)? A stream without an estimate has nothing to wait for. -/
def svDelivered (x : SvSub) (w : List Word) (l : Label) : Bool :=
  match grainPos x (entRate w) l with
  | none => true
  | some v => decide ((x.idx : Int) > (phaseOf v).1 + entTaps w)

/-! ### Release (R131 to R135) -/

def fPresent : Nat := 1
def fMissing : Nat := 2
def fLate : Nat := 4
def fAuth : Nat := 8
def fLocalSync : Nat := 16
def fResampled : Nat := 32
def fSrcInvalid : Nat := 64
def fTest : Nat := 128
def fTimeStep : Nat := 1024

/-- The channels of subscription `i` in a set (R125, R132, R133); none listed is MISSING. -/
def svChannels (s : State) (i : Nat) (w : List Word) (member : Bool) (l : Label) : List ChVal :=
  let x := svOf s i
  let ts := if l.step then fTimeStep else 0
  let loc := if x.sync.isSome && x.sync != some 2 then fLocalSync else 0
  let all (fl : Nat) : List ChVal := (List.range 8).map fun e =>
    { ch := 24 + 8 * i + e, value := 0, flags := BitVec.ofNat 16 (fl + loc + ts), quality := 0 }
  let missing := if loc = 0 then [] else all fMissing
  if x.state ≠ .running then missing
  else if member && !(svDelivered x w l) then
    match grainPos x (entRate w) l with
    | some v =>
      let i0 := (phaseOf v).1
      all (if x.refused.any (fun n => decide (i0 - entTaps w < (n : Int)) && decide ((n : Int) ≤ i0 + entTaps w)) then fAuth
        else fLate)
    | none => all fLate
  else
    match resample x w l with
    | none => missing
    | some vs =>
      let sim := (x.hist.head?.map fun y => y.sim).getD false
      vs.mapIdx fun e v =>
        let q := v.2.toNat
        let fl := fPresent + loc + (if x.sync == some 2 && entRate w == 14400 then 0 else fResampled) +
          (if q % 4 = 0 then 0 else fSrcInvalid) + (if bit q 11 || sim then fTest else 0) + ts
        { ch := 24 + 8 * i + e, value := v.1, flags := BitVec.ofNat 16 fl, quality := v.2 }

/-- Does a set wait for a local channel: enabled, without a fault (R152), and at 4,800 S/s on a tick only (R147)? -/
def localOn (s : State) (c : Nat) (l : Label) : Bool :=
  enabled s .acq && flag s .acq (0x100 + c * 0x40) 0 &&
    (!flag s .acq (0x100 + c * 0x40) 1 || l.k % 3 == 0) &&
    match findK s.acq.ch c with
    | some x => !x.cfgFault && !x.mdFault
    | none => true

/-- Is a local channel enabled, so that local acquisition is a member of a set (R130)? -/
def localEn (s : State) (c : Nat) : Bool := enabled s .acq && flag s .acq (0x100 + c * 0x40) 0

def localDelivered (s : State) (o : OpenSet) : Bool :=
  (List.range 24).all fun c => !(localOn s c o.label) || o.locals.any fun v => v.ch == c

/-- The local channels of a set at its release. When local acquisition is a member that has not delivered, each channel that it was to
deliver carries LATE, those that had arrived too (R132; assumption 109). -/
def localChannels (s : State) (o : OpenSet) : List ChVal :=
  let ts := if o.label.step then fTimeStep else 0
  let late := o.localMember && !localDelivered s o
  (List.range 24).filterMap fun c =>
    if late && localOn s c o.label then
      some { ch := c, value := 0, flags := BitVec.ofNat 16 (fLate + ts), quality := 0 }
    else (o.locals.find? fun v => v.ch == c).map fun v => { v with flags := v.flags ||| BitVec.ofNat 16 ts }

/-- Has every member of an open set delivered (R130)? -/
def setComplete (s : State) (o : OpenSet) : Bool :=
  (o.members.all fun m => svDelivered (svOf s m.1) m.2 o.label) && (!o.localMember || localDelivered s o)

/-- A channel of a set; one that is not listed is MISSING. -/
def chOf (a : ASet) (c : Nat) : ChVal :=
  (a.chans.find? fun v => v.ch == c).getD
    { ch := c, value := 0, flags := BitVec.ofNat 16 (fMissing + (if a.label.step then fTimeStep else 0)), quality := 0 }

/-- The stamp of a label in the form of R47. -/
def Label.bytes (l : Label) : List Byte := l.stamp.bytes

/-- The channel list of a slice. -/
def chList (s : State) (b : Blk) (base n : Nat) : List Nat :=
  ((List.range n).filter fun i => decide (base + i ≤ 32767)).map fun i => regB s b 0 0x144 (base + i) % 8192

/-- A set ring entry (R134). -/
def setEntry (a : ASet) (chs : List Nat) (relNs : Nat) (window : Bool) (q : Nat) : List Byte :=
  let vs := chs.map fun c => chOf a c
  let miss := vs.any fun v => v.flags.toNat % 2 = 0
  let fl := ofBit (a.label.k % 3 == 0) 0 + ofBit a.label.step 1 + ofBit window 2 + ofBit miss 3
  le 4 q ++ le 2 a.label.k ++ le 2 fl ++ a.label.bytes ++ le 2 chs.length ++ le 2 a.members ++ le 2 a.delivered ++
    le 2 0 ++ le 4 relNs ++ List.replicate 28 0 ++
    (vs.map fun v => le 4 (ofSigned 32 v.value) ++ le 2 v.flags.toNat ++ le 2 v.quality.toNat).flatten

/-- A ring of a slice faulted (R135). -/
def ringFault (s : State) (i : Nat) (b : Blk) (o irqN : Nat) : State :=
  evt (swIrq (irq (cnt s b 0 o) b irqN) i 4) 0x0715 1 i 0 0

/-- The set written to the set ring of a slice. -/
def setToSlice (s : State) (i : Nat) (a : ASet) (relNs : Nat) (window : Bool) : State :=
  let cfg := regB s .svs 0 0x10C i
  let r := ringOf s.svs.ring i
  if !bit cfg 0 || r.fault || (bit cfg 5 && a.label.k % 3 != 0) then s
  else if !ringOpen s i then ringGated s i
  else
    let chs := chList s .svs (regB s .svs 0 0x110 i % 32768) (getBits cfg 8 10)
    let n := getBits cfg 8 10
    let base := regB s .svs 0 0x104 i + regB s .svs 0 0x108 i * 2 ^ 32
    let (s, r') := ringWrite s .svs i base (getBits cfg 1 4) (roundUp (72 + 8 * n) 64) (64 + 8 * n) 4 r
      (setEntry a chs relNs window)
    let s := { s with svs := { s.svs with ring := putK s.svs.ring i r' } }
    if r'.fault then ringFault s i .svs 0x314 5 else s

/-- The sets that the phasor engine keeps. -/
def histMax : Nat := 4096

/-- Release of the oldest open set (R131). -/
def releaseSet (s : State) (o : OpenSet) (window : Bool) : State :=
  let nets := (s.svs.tab.filter fun e => decide (e.1 < 512) && entValid e.2).map fun e =>
    match findK o.members e.1 with
    | some w => svChannels s e.1 w true o.label
    | none => svChannels s e.1 e.2 false o.label
  let got := (o.members.filter fun m => svDelivered (svOf s m.1) m.2 o.label).length +
    (if o.localMember && localDelivered s o then 1 else 0)
  let a : ASet := { label := o.label, chans := localChannels s o ++ nets.flatten, window := window,
                    members := o.members.length + (if o.localMember then 1 else 0), delivered := got,
                    bi := o.bi }
  let relNs := (s.tim.time / 2 ^ 31 - o.label.units) / 65536
  let s := { s with svs := { s.svs with opened := s.svs.opened.tail, lastRel := some o.label } }
  let s := if isDown s .phasor then crossDrop s .svs 0
    else { s with phx := { s.phx with hist := (a :: s.phx.hist).take histMax, todo := s.phx.todo + 1 } }
  let s := cnt s .svs 0 0x30C
  let s := if window then irq (cnt s .svs 0 0x310) .svs 4 else s
  forEach (List.range 64) s fun s i => setToSlice s i a relNs window

/-- Complete sets leave in grain order (R131). -/
def releaseReady : (fuel : Nat) → State → State
  | 0, s => s
  | n + 1, s =>
    match s.svs.opened with
    | [] => s
    | o :: _ => if setComplete s o then releaseReady n (releaseSet s o false) else s

def tryRelease (s : State) : State := releaseReady 65 s

/-- The set of a grain opens at its instant (R130); of 64 open sets the oldest leaves first (R131). -/
def openSet (s : State) (l : Label) : State :=
  if !enabled s .svs || isDown s .stream then s
  else
    let s := if s.svs.opened.length ≥ 64 then
        (match s.svs.opened with
         | [] => s
         | o :: _ => releaseSet s o true)
      else s
    let mem := s.svs.tab.filter fun e =>
      decide (e.1 < 512) && entValid e.2 && entWait e.2 && (svOf s e.1).state == .running
    let o : OpenSet :=
      { label := l, members := mem, localMember := (List.range 24).any fun c => localEn s c, locals := [],
        bi := s.dec.bi }
    tryRelease { s with svs := { s.svs with opened := s.svs.opened ++ [o] } }

/-- A local sample reaches the aligner for the grain it belongs to, or is discarded at the crossing (R15). -/
def deliverLocal (s : State) (n : Nat) (v : ChVal) : State :=
  if isDown s .stream then crossDrop s .acq 0
  else tryRelease { s with svs := { s.svs with opened := s.svs.opened.map fun o =>
    if o.label.n = n && !(o.locals.any fun x => x.ch == v.ch) then { o with locals := o.locals ++ [v] } else o } }

/-! ### Stage 5: SV counters (R126) -/

/-- The units of 1 / (RATE × 2^16) ns in which an estimate stands (R128). -/
def estUnits (stamp : Stamp) (u rate : Nat) : Int := ((stamp.units * rate : Nat) : Int) - ((u * secU16 : Nat) : Int)

/-- The estimate of a local stream with one more ASDU (R128): the first comes of 16. -/
def estimate (x : SvSub) (w : List Word) (stamp : Stamp) (lost : Bool) (u : Nat) : SvSub :=
  let rate := entRate w
  let x := if lost then { x with est := none, minE := none, cntE := 0 } else
    { x with minE := some (match x.minE with
        | some m => min m (estUnits stamp u rate)
        | none => estUnits stamp u rate) }
  if x.est.isNone then
    let n := x.cntE + 1
    if n ≥ 16 then
      match x.minE with
      | some m => { x with est := some (m - ((ew w 6 0 14 * 1000 * 65536 * rate : Nat) : Int)), minE := none, cntE := 16 }
      | none => { x with cntE := n }
    else { x with cntE := n }
  else x

/-- Was a sample needed by a set already released (R132)? -/
def lateFor (s : State) (x : SvSub) (w : List Word) (i : Nat) : Bool :=
  match s.svs.lastRel with
  | none => false
  | some l =>
    match grainPos x (entRate w) l with
    | none => false
    | some v => decide ((i : Int) ≤ (phaseOf v).1 + entTaps w)

/-- One ASDU of a frame that passed stage 4 (R126 to R128). -/
def takeAsdu (s : State) (i : Nat) (v : VFrame) (sim : Bool) (a : Asdu) : State :=
  let w := v.words
  let rate := entRate w
  let x := svOf s i
  let glob : Bool := a.smpSynch == 2
  let n := a.smpCnt
  let first := x.state != .running
  let d := if first then 0 else (n + rate - x.next % rate) % rate
  if d ≠ 0 && decide (rate / 2 ≤ d) then subCnt s 0xD0 i 1
  else
    let changed : Bool := !first && (match x.sync with
      | some k => (k == 2) != glob
      | none => false)
    let s := if changed then evt s 0x0712 1 i a.smpSynch 0 else s
    let x := if changed then { x with est := none, minE := none, cntE := 0, hist := [] } else x
    let x := if first then { x with state := .running, next := n, idx := n, hist := [] } else x
    let units := if v.frame.stampLost then s.tim.time / 2 ^ 31 else v.stamp.units
    let idx := if glob then sampleSec rate n units * rate + n else x.idx + d
    let gaps : List SvSample := (List.range (min d 16)).map fun j => { idx := idx - 1 - j, elems := none, sim := false }
    let y : SvSample := { idx := idx, elems := some a.elems, sim := sim }
    let s := subCnt (subCnt s 0xC0 i 1) 0xD4 i d
    let s := if lateFor s { x with sync := some a.smpSynch } w idx then subCnt s 0xD8 i 1 else s
    let x := { x with sync := some a.smpSynch, next := (n + 1) % rate, idx := idx + 1,
                      hist := (y :: (gaps ++ x.hist)).take 16 }
    let x := if glob then x else estimate x w v.stamp v.frame.stampLost idx
    tryRelease (setSv s i x)

/-! ### Stage 5: GOOSE (R136 to R138) -/

/-- A GOOSE record written to the rings of the slices of an entry (R138). -/
def gooseRecord (s : State) (g : Nat) (w : List Word) (fl : Nat) (t : Stamp) (stNum sqNum : Nat) (tf all : List Byte) : State :=
  forEach (entSlices w) s fun s i =>
    let cfg := regB s .svs 0 0x11C i
    let r := ringOf s.svs.gring i
    if !bit cfg 0 || r.fault then s
    else if !ringOpen s i then ringGated s i
    else
      let base := regB s .svs 0 0x114 i + regB s .svs 0 0x118 i * 2 ^ 32
      let (s, r') := ringWrite s .svs i base (getBits cfg 1 4) 1152 1088 60 r fun q =>
        le 4 q ++ le 2 g ++ le 2 fl ++ t.bytes ++ le 4 stNum ++ le 4 sqNum ++ padTo 8 tf ++ le 2 all.length ++
          List.replicate 22 0 ++ padTo 1024 all
      let s := { s with svs := { s.svs with gring := putK s.svs.gring i r' } }
      if r'.fault then ringFault s i .svs 0x314 5 else s

/-- Is `a` newer than `b` modulo 2^32 over a half range? -/
def newer32 (a b : Nat) : Bool :=
  let d := (a + 2 ^ 32 - b % 2 ^ 32) % 2 ^ 32
  decide (0 < d) && decide (d < 2 ^ 31)

/-- The deadline of an accepted message in ns (R137). -/
def gooseDeadline (s : State) (v : VFrame) (tal : Nat) : Nat :=
  let base := if v.frame.stampLost then nowNs s else v.stamp.units / 65536
  base + max tal (fld s .svs 0x44 0 10) * 1000000

/-- A new state is passed to Spindle (R138), or discarded at the crossing (R15). -/
def toSpindle (s : State) (g : Nat) (all : List Byte) : State :=
  if isDown s .rt then crossDrop s .svs 0 else { s with spn := { s.spn with inbox := s.spn.inbox ++ [(g, all)] } }

/-- A GOOSE message that passed stage 4. -/
def takeGoose (s : State) (i : Nat) (v : VFrame) (p : GoosePdu) : State :=
  let g := i - 512
  let x := gOf s g
  let cr := x.confRev.getD p.confRev
  if p.ndsCom || p.confRev != cr then subCnt s 0xDC i 1
  else
    let isNew := x.state == .idle || newer32 p.stNum x.stNum
    let rep := p.stNum == x.stNum && newer32 p.sqNum x.sqNum
    let restart := !isNew && !rep && decide (x.discards ≥ 16)
    if isNew || restart then
      let s := if restart then evt s 0x0713 1 g 0 p.stNum else s
      let s := setG (subCnt s 0xC0 i 1) g { x with
        state := .live, stNum := p.stNum, sqNum := p.sqNum, confRev := some cr, discards := 0,
        deadline := gooseDeadline s v p.tal }
      let fl := ofBit (p.test || p.sim) 1 + ofBit (frameExt v.frame).isSome 2 + ofBit restart 3
      toSpindle (gooseRecord s g v.words fl (if v.frame.stampLost then nowStamp s else v.stamp) p.stNum p.sqNum p.t p.allData)
        g p.allData
    else if rep then
      setG (subCnt s 0xC0 i 1) g { x with
        state := .live, sqNum := p.sqNum, confRev := some cr, discards := 0, deadline := gooseDeadline s v p.tal }
    else setG (subCnt s 0xD0 i 1) g { x with discards := x.discards + 1 }

/-- The state of subscription `i`'s refusal record second: the first refusal of each second makes a record (R123). -/
def authRefused (s : State) (v : VFrame) (reason : Nat) : State :=
  let i := v.entry
  let n := asduCount v.frame
  let s := irq (cnt (subCnt s 0xC8 i n) .svs 0 (0x320 + 4 * reason)) .svs 1
  let sec := nowSec s
  if i < 512 then
    let x := svOf s i
    let rate := entRate v.words
    let idxs : List Nat := match v.frame.pdu with
      | .sv p => if x.state = .running then p.asdus.map fun a =>
          let d := (a.smpCnt + rate - x.next % rate) % rate
          if a.smpSynch = 2 then
            sampleSec rate a.smpCnt (if v.frame.stampLost then s.tim.time / 2 ^ 31 else v.stamp.units) * rate + a.smpCnt
          else if d < rate / 2 then x.idx + d else x.idx + d - rate
        else []
      | _ => []
    let s := setSv s i { x with recSec := some sec, refused := (idxs ++ x.refused).take 64 }
    if x.recSec = some sec then s else evt s 0x0710 1 i reason 0
  else
    let x := gOf s (i - 512)
    let s := setG s (i - 512) { x with recSec := some sec }
    if x.recSec = some sec then s else evt s 0x0710 1 i reason 0

/-- Does the identity string's digest fit the entry (R118 stage 4)? -/
def idOk (w : List Word) (id : List Byte) : Bool :=
  shake256 id 8 == le 4 (ew w 3 0 32) ++ le 4 (ew w 4 0 32)

/-- The forms that the subscriber supports (R119): one to eight ASDUs of eight elements; allData of up to 1,024 bytes. -/
def svFormat (p : SvPdu) : Bool :=
  p.formatOk && decide (1 ≤ p.asdus.length) && decide (p.asdus.length ≤ 8) && p.asdus.all fun a => a.elems.length == 8

def gooseFormat (p : GoosePdu) : Bool := p.formatOk && decide (p.allData.length ≤ 1024)

/-- The next frame of the FIFO through stages 3 to 6. -/
def authVerify (s : State) : State :=
  match s.svs.fifo with
  | [] => s
  | v :: rest =>
    let s := { s with svs := { s.svs with fifo := rest } }
    let i := v.entry
    match verify s v with
    | (s, some r) => authRefused s v r
    | (s, none) =>
      match v.frame.pdu with
      | .sv p =>
        if !svFormat p || decide (512 ≤ i) then subCnt s 0xCC i (asduCount v.frame)
        else if !idOk v.words p.svId then subCnt (cnt s .svs 0 0x304) 0xE4 i (asduCount v.frame)
        else forEach p.asdus s fun s a => takeAsdu s i v p.sim a
      | .goose p =>
        if !gooseFormat p || decide (i < 512) then subCnt s 0xCC i 1
        else if !idOk v.words p.gocbRef then subCnt (cnt s .svs 0 0x304) 0xE4 i 1
        else takeGoose s i v p
      | .raw _ | .ptp _ | .ann _ | .udp _ => subCnt s 0xCC i 1

/-! ### Time-driven events -/

/-- A subscription has had no frame for LOST_SAMPLES periods (R125). -/
def subLost (s : State) (i : Nat) : State :=
  let x := svOf s i
  if x.state ≠ .running then s
  else
    let s := setSv s i { x with state := .lost, est := none, minE := none, cntE := 0, hist := [] }
    tryRelease (evt (irq s .svs 2) 0x0711 1 i 0 0)

/-- The top of a second: the estimate of the past whole second replaces the previous one (R128). -/
def replaceEst (s : State) (i : Nat) : State :=
  let x := svOf s i
  match (findK s.svs.tab i), x.est with
  | some w, some _ =>
    if x.cntE ≤ 16 then setSv s i { x with cntE := 17, minE := none }
    else
      match x.minE with
      | some m => setSv s i { x with est := some (m - ((ew w 6 0 14 * 1000 * 65536 * entRate w : Nat) : Int)), minE := none }
      | none => s
  | _, _ => s

/-- A timebase step restarts every estimate (R128); a stream that has none is not waited for (R130). -/
def svsStep (s : State) : State :=
  tryRelease { s with svs := { s.svs with sv := s.svs.sv.map fun e =>
      (e.1, { e.2 with est := none, minE := none, cntE := 0 }) } }

/-- The window of the oldest open set has expired (R130). -/
def windowExpiry (s : State) : State :=
  match s.svs.opened with
  | [] => s
  | o :: _ => tryRelease (releaseSet s o true)

/-- A GOOSE subscription has passed its deadline (R137). -/
def gooseStale (s : State) (g : Nat) : State :=
  let x := gOf s g
  if x.state ≠ .live then s
  else
    let s := irq (subCnt (setG s g { x with state := .stale }) 0xE0 (512 + g) 1) .svs 3
    let s := evt s 0x0714 1 g 0 x.stNum
    gooseRecord s g ((findK s.svs.tab (512 + g)).getD []) 1 (nowStamp s) x.stNum x.sqNum [] []

/-! ### Table operations (R122) -/

/-- Clearing of an SV subscription (R122); a GOOSE subscription becomes IDLE with its first confRev forgotten (R136). -/
def subClear (s : State) (i : Nat) : State :=
  if i < 512 then { s with svs := { s.svs with sv := delK s.svs.sv i } }
  else { s with svs := { s.svs with goose := delK s.svs.goose (i - 512) } }

/-- An operation of the stream table by its code. -/
def subOp (s : State) (op : Nat) : State :=
  let i := fld s .svs 0x80 0 12
  let sh : List Word := (List.range 8).map fun k => BitVec.ofNat 32 (reg s .svs 0 (0x84 + 4 * k))
  let s :=
    if op = 1 then tryRelease (subClear { s with svs := { s.svs with tab := putK s.svs.tab i sh } } i)
    else if op = 3 then
      tryRelease (subClear { s with svs := { s.svs with tab := match findK s.svs.tab i with
        | some w => putK s.svs.tab i (modAt w 5 fun x => x &&& 0xFFFFFFFE)
        | none => s.svs.tab } } i)
    else
      let w := (findK s.svs.tab i).getD (List.replicate 8 0)
      forEach (List.range 8) s fun s k => setReg s .svs 0 (0x84 + 4 * k) (w.getD k 0).toNat
  irq s .svs 7

/-- EN of a set ring or a GOOSE ring written 1 (R140): producer index 0, FAULT cleared. -/
def ringEnable (s : State) (goose : Bool) (i : Nat) : State :=
  let r : Ring := { prod := 0, fault := false }
  if goose then { s with svs := { s.svs with gring := putK s.svs.gring i r } }
  else { s with svs := { s.svs with ring := putK s.svs.ring i r } }

/-! ### Resets (R140) -/

def releaseAll : (fuel : Nat) → State → State
  | 0, s => s
  | n + 1, s =>
    match s.svs.opened with
    | [] => s
    | o :: _ => releaseAll n (releaseSet s o true)

/-- SVS SOFT_RST. The entries are not written, so a GOOSE subscription keeps the confRev of the first message since (R136). -/
def svsSoftReset (s : State) : State :=
  let s := { s with svs := { s.svs with fifo := [] } }
  let s := releaseAll 65 s
  let s := { s with svs := { s.svs with
    sv := [], goose := s.svs.goose.map fun e => (e.1, { GSub.idle with confRev := e.2.confRev }) } }
  clearRegs s fun k => match keyIn .svs 0 k with
    | some o => (decide (0xC0 ≤ o) && decide (o < 0xE8)) || (decide (0x300 ≤ o) && decide (o < 0x338))
    | none => false

/-- A reset of the Stream island: everything of the subscriber returns to its reset value. -/
def svsIslandReset (s : State) : State := { s with svs := Svs.reset }

/-! ### Rows -/

def execSubscriberFrame (p : Fin 64) (f : Frame) (dt : Nat) (s : State) : Host.Outcome State Fault Refusal :=
  runOn (fun s => subscribe s p.val f dt) s

def execAuthVerify (s : State) : Host.Outcome State Fault Refusal := runOn (fun s => authVerify s) s

def execSubLost (i : Fin 512) (s : State) : Host.Outcome State Fault Refusal := runOn (fun s => subLost s i.val) s

def execOffsetEstimateReplace (i : Fin 512) (s : State) : Host.Outcome State Fault Refusal :=
  runOn (fun s => replaceEst s i.val) s

def execAlignWindowExpiry (s : State) : Host.Outcome State Fault Refusal := runOn (fun s => windowExpiry s) s

end Sys2Proof.Machine
end

