-- ==== Sys2Proof/Machine/Acq.lean ====
section
/-!
DEFINITION. Local acquisition (R141 to R164): captured bits, the filter chain computed exactly from them, placement on the
grain, banks and fades, channel changes, range switching, and skew calibration.
-/

namespace Sys2Proof.Machine

/-! ### Registers of a channel -/

def AcqCh.idle : AcqCh :=
  { bits := [], nextEdge := 0, mdFault := false, cfgFault := false, change := none, fade := none, range16 := false,
    pendRange := none, swEdge := 0, sws := [], oneSince := 0, last := false, run := 0, good := 0, satTo := 0, tapNext := 0,
    settling := false, settleLeft := 0, active := false, recSec := none, lastN := 0 }

def acOf (s : State) (c : Nat) : AcqCh := (findK s.acq.ch c).getD AcqCh.idle

def setAc (s : State) (c : Nat) (x : AcqCh) : State := { s with acq := { s.acq with ch := putK s.acq.ch c x } }

def acO (c o : Nat) : Nat := 0x100 + c * 0x40 + o

/-- A field of channel `c`. -/
def acF (s : State) (c o lsb w : Nat) : Nat := fldI s .acq 0 (acO c o) lsb w

def acOn (s : State) (c : Nat) : Bool := enabled s .acq && acF s c 0 0 1 == 1
def acOsr (s : State) (c : Nat) : Nat := acF s c 0 8 9
def acBank (s : State) (c : Nat) : Nat := acF s c 0 2 1
def acSlow (s : State) (c : Nat) : Bool := acF s c 0 1 1 == 1
def acSkew (s : State) (c : Nat) : Int := toSigned 16 (acF s c 8 0 16)
def acRatio (s : State) (c : Nat) : Nat := acF s c 0x1C 0 10
def acGain (s : State) (c : Nat) : Nat := reg s .acq 0 (acO c 0x18)

/-- NTAPS, D and the coefficients of a bank (R149). -/
def bankTaps (s : State) (b : Nat) : Nat := getBits (reg s .acq 0 (0x60 + 4 * b)) 0 9
def bankD (s : State) (b : Nat) : Nat := getBits (reg s .acq 0 (0x60 + 4 * b)) 16 8
def bankCoef (s : State) (b : Nat) : List Int :=
  (List.range (bankTaps s b)).map fun i => toSigned 32 (reg s .acq 0 (0x1000 + 0x400 * b + 4 * i))

/-- The rate check (R146). -/
def rateOk (s : State) (c : Nat) : Bool :=
  acOsr s c * 4 * bankD s (acBank s c) == if acSlow s c then 6000 else 2000

/-- Would the channel be in CFG_FAULT (R143, R146)? -/
def cfgBad (s : State) (c : Nat) : Bool := acOn s c && (!rateOk s c || !flag s .acq 0x40 (c / 4))

/-! ### Edges and grains -/

/-- The number of the last MCLK edge (R50). -/
def edgeNow (s : State) : Nat :=
  match s.tim.lastGrain with
  | none => 0
  | some (sec, k) =>
    let t0 := sec * secU + k * 625000 * nsU / 9
    2000 * s.tim.grains + min 1999 ((s.tim.time - t0) * 18 / (625 * nsU))

/-- The grain number modulo 3 of the n-th generated grain, counted from the last one generated or the next one due. -/
def tickPhase (s : State) (n : Nat) : Nat :=
  match s.tim.lastGrain with
  | none => n % 3
  | some (_, k) =>
    if n ≤ s.tim.grains then (((k : Int) + n - s.tim.grains) % 3).toNat
    else (nextGrain s + (n - s.tim.grains - 1)) % 3

/-- Does the channel deliver for the n-th grain (R147)? -/
def delivers (s : State) (c n : Nat) : Bool := !acSlow s c || tickPhase s n == 0

/-- Where a channel's outputs lie: P, F, the centre c, GD and the span S (R151, R153). -/
structure Place where
  p : Nat
  f : Nat
  ctr : Int
  gd : Nat
  span : Nat

def place (s : State) (c b : Nat) : Place :=
  let osr := acOsr s c
  let n := bankTaps s b
  let a : Int := ((128 * (3 * osr - 3) + 256 * (29 * osr + 2 * osr * (n - 1)) : Nat) : Int) + acSkew s c
  let p := (a / 256).toNat
  let ctr := roundTiesUp (acSkew s c) 256
  let e : Int := ctr + ((3 * acRatio s c - 2) / 2 : Nat)
  { p := p, f := (a % 256).toNat, ctr := ctr, gd := (max (p : Int) e).toNat,
    span := 60 * osr - 3 + 4 * osr * (n - 1) }

/-- Does an output of stage 1a end at edge `t`? The outputs lie every OSR edges so that one ends at edge 2,000 k + P of each grain,
at 4,800 S/s at edge 6,000 j + P of each tick (R151). -/
def onLattice (s : State) (c : Nat) (t : Int) : Bool :=
  let base : Nat := if acSlow s c then 2000 * ((3 - tickPhase s 0) % 3) else 0
  (t - (place s c (acBank s c)).p - (base : Int)) % (acOsr s c : Int) == 0

/-- The bank a fading channel leaves. -/
def oldBankOf (f : Fade) : Nat := if f.oldBank then 1 else 0

/-- GD as read and as delivered (R151, R152). -/
def acGd (s : State) (c : Nat) : Nat :=
  let pl := place s c (acBank s c)
  match (acOf s c).fade with
  | none => pl.gd
  | some f => max pl.gd (max pl.p (place s c (oldBankOf f)).p)

/-! ### The chain -/

/-- Weight `i` of a sinc3 of ratio `r`. -/
def sincW (r i : Nat) : Nat :=
  let t (n : Nat) : Nat := (n + 2) * (n + 1) / 2
  if i > 3 * r - 3 then 0
  else if i < r then t i
  else if i < 2 * r then t i - 3 * t (i - r)
  else t i + 3 * t (i - 2 * r) - 3 * t (i - r)

/-- The bit of edge `t`; bits stand newest first, the newest of edge `next - 1`. -/
def bitAt (a : Array MBit) (next : Nat) (t : Int) : Option MBit :=
  let i := (next : Int) - 1 - t
  if i < 0 then none else a[i.toNat]?

/-- A sinc3 of ratio `r` with its window ending at edge `t`, each bit weighted by `g`; a blanked bit enters none (R155). -/
def sinc3 (a : Array MBit) (next r : Nat) (t : Int) (g : MBit → Int) : Int :=
  (List.range (3 * r - 2)).foldl (fun (acc : Int) (j : Nat) =>
    match bitAt a next (t - (j : Int)) with
    | some b => if b.blank then acc else acc + (sincW r j : Int) * (if b.v then g b else -(g b))
    | none => acc) 0

/-- A stage output from its accumulator (R145): the value and whether it saturated. -/
def stageOut (acc : Int) (sh : Nat) : Int × Bool :=
  let y := roundAway acc (2 ^ sh)
  (satS 32 y, y != satS 32 y)

/-- The coefficients of stage 1b at fraction F / (256 × OSR), in Q17 (R129, R144). -/
def stage1b (f osr : Nat) : List Int :=
  let d : Int := 256 * osr
  let q : Int := f
  let d3 := (256 * osr) ^ 3
  let raw : List Int :=
    [roundAway (-(131072 * q * (q - d) * (q - 2 * d))) (6 * d3), roundAway (131072 * (q + d) * (q - d) * (q - 2 * d)) (2 * d3),
     roundAway (-(131072 * (q + d) * q * (q - 2 * d))) (2 * d3), roundAway (131072 * (q + d) * q * (q - d)) (6 * d3)]
  let rest := 131072 - raw.foldl (fun a b => a + b) 0
  raw.mapIdx fun j c => if j = 1 then c + rest else c

def hb1 : List Int := [384, 0, -3200, 0, 19200, 32768, 19200, 0, -3200, 0, 384]

def hb2 : List Int :=
  [-164, 0, 708, 0, -1599, 0, 3172, 0, -6410, 0, 20677, 32768, 20677, 0, -6410, 0, 3172, 0, -1599, 0, 708, 0, -164]

/-- A filter over a list whose elements step back in time: output `i` uses inputs from `i × dec` on. -/
def firBack (h : List Int) (dec sh n : Nat) (xs : Array Int) : List (Int × Bool) :=
  (List.range n).map fun i =>
    stageOut ((List.range h.length).foldl (fun acc j => acc + h.getD j 0 * xs.getD (i * dec + j) 0) 0) sh

/-- How many of the first `n` outputs saturated. -/
def satIn (l : List (Int × Bool)) (n : Nat) : Nat := ((l.take n).filter fun y => y.2).length

/-- The stage 4 output of bank `b` for the output instant at edge `t`, whether it saturated, and how many outputs of stages 1b
to 3 of the newest `u` edges saturated (R145). -/
def mainOut (s : State) (c b : Nat) (a : Array MBit) (next : Nat) (t : Int) (f u : Nat) : Int × Nat × Nat :=
  let osr := acOsr s c
  let n3 := bankTaps s b
  let n2 := 2 * (n3 - 1) + 23
  let n1 := 2 * (n2 - 1) + 11
  let y0 : Array Int := ((List.range (n1 + 3)).map fun i => sinc3 a next osr (t - ((osr * i : Nat) : Int)) fun _ => 1).toArray
  let y1 := firBack (stage1b f osr).reverse 1 (acF s c 4 0 5) n1 y0
  let y2 := firBack hb1 2 (acF s c 4 8 5) n2 (y1.map fun y => y.1).toArray
  let y3 := firBack hb2 2 (acF s c 4 16 5) n3 (y2.map fun y => y.1).toArray
  let y4 := firBack (bankCoef s b) 1 (acF s c 4 24 5) 1 (y3.map fun y => y.1).toArray
  ((y4.getD 0 (0, false)).1, satIn y4 1,
    satIn y1 (u / osr) + satIn y2 (u / (2 * osr)) + satIn y3 (u / (4 * osr)))

/-- The single-cycle-settling output with its window ending at edge `t` (R153). -/
def scsOut (s : State) (c : Nat) (a : Array MBit) (next : Nat) (t : Int) : Int × Bool :=
  let g := acGain s c
  let sum := sinc3 a next (acRatio s c) t fun b => if b.r16 then 2 ^ 24 else (g : Int)
  stageOut (sum * (reg s .acq 0 (acO c 0x20) : Int)) (24 + acF s c 0x1C 16 5)

/-! ### A grain's value -/

/-- Edges from `lo` to `hi`. -/
def edgesOf (lo hi : Int) : List Int := (List.range (hi - lo + 1).toNat).map fun i => lo + (i : Int)

/-- Does the window from `lo` to `hi` hold a switch of the range, or a blanked bit (R158)? -/
def rangeEvent (x : AcqCh) (lo hi : Int) : Bool :=
  x.sws.any fun w => decide (((w.1 : Nat) : Int) ≤ hi) && decide (lo < max (w.2 : Int) ((w.1 : Int) + 1))

/-- Does the window hold a blanked bit? -/
def anyBlank (x : AcqCh) (lo hi : Int) : Bool :=
  x.sws.any fun w => decide (((w.1 : Nat) : Int) ≤ hi) && decide (lo < (w.2 : Int)) && decide (w.1 < w.2)

/-- Is the bit of edge `t` blanked (R155)? -/
def blankAt (x : AcqCh) (t : Nat) : Bool := x.sws.any fun w => decide (w.1 ≤ t) && decide (t < w.2)

def fRange : Nat := 256
def fSettling : Nat := 512

/-- The main path of the n-th grain with fade and range compensation (R150, R157): its output, the saturation of the
compensation, and those of the stages since edge `satTo`, each stage output counted once (R145). -/
def mainValue (s : State) (c n : Nat) (a : Array MBit) : Int × Nat × Nat :=
  let x := acOf s c
  let b := acBank s c
  let pl := place s c b
  let inst (p : Nat) : Int := ((2000 * n + p : Nat) : Int)
  let since (p : Nat) : Nat := 2000 * n + p - x.satTo
  let t := inst pl.p
  let (yb, kb, ub) := mainOut s c b a x.nextEdge t pl.f (since pl.p)
  let (y, k) : Int × Nat :=
    match x.fade with
    | none => (yb, kb + ub)
    | some f =>
      let o := oldBankOf f
      let po := (place s c o).p
      let (ya, ka, ua) := mainOut s c o a x.nextEdge (inst po) pl.f (since po)
      let u := if po > pl.p then ua else ub
      if n < f.first then (ya, ka + u)
      else
        let j := if acSlow s c then (n - f.first) / 3 else n - f.first
        let w : Int := ((j + 1 : Nat) : Int)
        (roundAway (((2 ^ f.n : Nat) : Int) * ya - w * ya + w * yb) (2 ^ f.n), ka + kb + u)
  match bitAt a x.nextEdge t with
  | some m => if m.r16 then (y, 0, k) else
      let (z, sat) := stageOut (y * (acGain s c : Int)) 24
      (z, ofBit sat 0, k)
  | none => (y, 0, k)

/-- The windows of the n-th grain (R153, R154): first and last edge of the main path, over both banks in a fade, and of the
single-cycle-settling path. -/
def windows (s : State) (c n : Nat) : (Int × Int) × (Int × Int) :=
  let pl := place s c (acBank s c)
  let base : Int := ((2000 * n : Nat) : Int)
  let main : Int × Int :=
    match (acOf s c).fade with
    | some f =>
      let po := place s c (oldBankOf f)
      (base + min ((pl.p : Int) - pl.span) ((po.p : Int) - po.span), base + max (pl.p : Int) po.p)
    | none => (base + (pl.p : Int) - pl.span, base + (pl.p : Int))
  let shi : Int := base + pl.ctr + ((3 * acRatio s c - 2) / 2 : Nat)
  (main, (shi - ((3 * acRatio s c - 3 : Nat) : Int), shi))

/-- What a channel delivers for the n-th grain (R154, R157, R158, R161), and the saturations counted: those of the chain and of
the single-cycle-settling path, which run for every grain, and that of the compensation where the main path is delivered. -/
def localValue (s : State) (c n : Nat) : ChVal × Nat :=
  let x := acOf s c
  let miss (fl : Nat) : ChVal := { ch := c, value := 0, flags := BitVec.ofNat 16 (fMissing + fl), quality := 0 }
  match x.change with
  | none => (miss 0, 0)
  | some e =>
    if x.cfgFault then (miss 0, 0)
    else
      let a := x.bits.toArray
      let ((lo, hi), (slo, shi)) := windows s c n
      let (y, kc, km) := mainValue s c n a
      let (z, sat) := scsOut s c a x.nextEdge shi
      let k := km + ofBit sat 0
      if x.mdFault || s.acq.cal.isSome then (miss 0, k)
      else
        let r1 : Nat := if lo ≥ (e : Int) then 0 else if slo ≥ (e : Int) then 1 else 2
        let ev := rangeEvent x lo hi
        let r2 : Nat := if ev then (if anyBlank x slo shi then 2 else 1) else 0
        let fl := if ev then fRange else 0
        let r := max r1 r2
        if r = 0 then ({ ch := c, value := y, flags := BitVec.ofNat 16 fPresent, quality := 0 }, k + kc)
        else if r = 1 then
          ({ ch := c, value := z, flags := BitVec.ofNat 16 (fPresent + fSettling + fl), quality := 0 }, k)
        else (miss fl, k)

/-- Grains after the n-th until the main path resumes: until its window is clear of the channel change, of every switch and of
every blanked bit (R154, R158). -/
def settleLeft (s : State) (c n : Nat) : Nat :=
  let x := acOf s c
  let lo := (windows s c 0).1.1
  let resume : Int := x.sws.foldl (fun (m : Int) w => max m (max (w.2 : Int) ((w.1 : Int) + 1))) ((x.change.getD 0 : Nat) : Int)
  let first := (resume - lo + 1999) / 2000
  (min (first - ((n : Int) + 1)) 255).toNat

/-- SETTLING and SETTLE_LEFT brought up to date. -/
def settleNow (s : State) (c : Nat) (sub : Bool) : State :=
  let x := acOf s c
  if x.cfgFault || x.mdFault || x.change.isNone then setAc s c { x with settling := false, settleLeft := 0 }
  else
    let left := settleLeft s c x.lastN
    setAc s c { x with settling := sub || left != 0, settleLeft := left }

/-- The fade ends after its last grain (R150). -/
def fadeStep (s : State) (c n : Nat) : State :=
  let x := acOf s c
  match x.fade with
  | none => s
  | some f =>
    let j := if acSlow s c then (n - f.first) / 3 else n - f.first
    if n < f.first || decide (j + 1 < 2 ^ f.n) then s else setAc s c { x with fade := none }

/-- The channel's value or mark for the n-th grain goes to the aligner, with its counters and status. -/
def deliver (s : State) (c n : Nat) : State :=
  if !delivers s c n then setAc s c { acOf s c with lastN := n }
  else
    let (v, k) := localValue s c n
    let fl := v.flags.toNat
    let s := if k = 0 then s else irq (cntBy s .acq 0 (acO c 0x34) k) .acq 2
    let s := if bit fl 0 then s else cnt s .acq 0 (acO c 0x3C)
    let x := acOf s c
    let top := match x.fade with
      | some f => max (place s c (acBank s c)).p (place s c (oldBankOf f)).p
      | none => (place s c (acBank s c)).p
    let s := setAc s c { x with lastN := n, active := bit fl 0, satTo := max x.satTo (2000 * n + top) }
    deliverLocal (settleNow (fadeStep s c n) c (bit fl 9)) n v

/-- A channel in CFG_FAULT delivers MISSING for the n-th grain (R143, R146). -/
def cfgMarks (s : State) (n : Nat) : State :=
  forEach (List.range 24) s fun s c => if acOn s c && isUp s .acq && (acOf s c).cfgFault then deliver s c n else s

/-- Deliver every grain that the captured bits complete, in order. -/
def deliverDue : (fuel : Nat) → State → Nat → State
  | 0, s, _ => s
  | f + 1, s, c =>
    let x := acOf s c
    let n := x.lastN + 1
    if 2000 * n + acGd s c < x.nextEdge then deliverDue f (deliver s c n) c else s

/-! ### Ranges (R155, R156) -/

/-- LO_EFF (R156). -/
def loEff (s : State) (c : Nat) : Nat := min (acF s c 0x14 16 15) (acF s c 0x14 0 15 / 20)

/-- The most bits a channel keeps: the longest filter window, and the longest calibration step. -/
def keepBits : Nat := 540000

/-- The RANGE pin changes at the edge that was decided. -/
def rangeSwitch (s : State) (c : Nat) : State :=
  let x := acOf s c
  match x.pendRange with
  | none => s
  | some (lvl, e) =>
    let e := max e x.nextEdge
    let old := x.sws.filter fun w => decide (e < max w.1 w.2 + keepBits)
    let s := setAc s c { x with
      range16 := lvl, pendRange := none, swEdge := e, sws := (e, e + acF s c 0x10 16 12) :: old, oneSince := e,
      recSec := some (nowSec s) }
    let s := settleNow (irq (cnt s .acq 0 (acO c 0x38)) .acq 1) c false
    if x.recSec = some (nowSec s) then s else evt s 0x0812 0 c (ofBit lvl 0) 0

/-- The test of a stage 1a output at edge `t` (R156). An output above LO_EFF, or with bits of both ranges, bars the switch to the
×16 range for UP_HOLD, whatever the mode; the pin is moved in automatic mode alone, and by no blanked output. -/
def rangeTest (s : State) (c : Nat) (t : Nat) : State :=
  let x := acOf s c
  let osr := acOsr s c
  let win := x.bits.take (3 * osr - 2)
  if win.length < 3 * osr - 2 || (win.any fun b => b.r16 != x.range16) then setAc s c { x with oneSince := t }
  else if win.any fun b => b.blank then s
  else
    let auto := acF s c 0x10 0 2 == 2 && s.acq.cal.isNone && x.pendRange.isNone
    let m := (sinc3 win.toArray (t + 1) osr (t : Int) fun _ => 1).natAbs * 32768
    let fs := osr ^ 3
    if x.range16 then
      if auto && decide (m ≥ acF s c 0x14 0 15 * fs) then setAc s c { x with pendRange := some (false, t + 2) } else s
    else if m ≤ loEff s c * fs then
      if auto && decide (t - x.oneSince ≥ acF s c 0x10 4 10 * 28800) then setAc s c { x with pendRange := some (true, t + 2) } else s
    else setAc s c { x with oneSince := t }

/-! ### Stuck inputs and channel changes (R143, R153) -/

/-- A channel change at the next edge the channel takes; a fade ends at once (R150). -/
def channelChange (s : State) (c : Nat) : State :=
  let x := acOf s c
  settleNow (setAc s c { x with change := some x.nextEdge, fade := none }) c false

def stuckLen (s : State) : Nat := fld s .acq 0x48 0 10

/-- The channel enters MD_FAULT when its bits show no transition for STUCK_LEN, and leaves it, by a channel change, after 2,000
bits with no longer run (R143). -/
def stuckCheck (s : State) (c : Nat) : State :=
  let x := acOf s c
  if x.mdFault then
    if x.good < 2000 then s else channelChange (setAc s c { x with mdFault := false }) c
  else if x.run < stuckLen s then s
  else
    tryRelease (evt (irq (setAc s c { x with mdFault := true, good := 0, active := false, settling := false, settleLeft := 0 })
      .acq 3) 0x0810 2 c 0 0)

/-- One bit captured (R141, R143, R155): a range switch that is due comes first. -/
def capture (s : State) (c : Nat) (v : Bool) : State :=
  let x := acOf s c
  let t := x.nextEdge
  let s := match x.pendRange with
    | some (_, e) => if e ≤ t then rangeSwitch s c else s
    | none => s
  let x := acOf s c
  let b : MBit := { v := v, r16 := if t < x.swEdge then !x.range16 else x.range16, blank := blankAt x t }
  let run := if x.run ≠ 0 && v == x.last then x.run + 1 else 1
  let s := setAc s c { x with
    bits := (b :: x.bits).take keepBits, nextEdge := t + 1, last := v, run := run,
    good := if run > stuckLen s then 0 else x.good + 1 }
  stuckCheck (if onLattice s c (t : Int) then rangeTest s c t else s) c

/-- Bits of a channel come in, and every grain they complete is delivered, as a value, a substitute or the MISSING mark of
MD_FAULT (R141 to R160). A channel in CFG_FAULT delivers with the grain instead (`cfgMarks`), and takes no bits while its set has no
clock. -/
def localSample (s : State) (c : Nat) (bits : List Bool) : State :=
  if !acOn s c || isDown s .acq || !flag s .acq 0x40 (c / 4) then s
  else
    let s := bits.foldl (fun s v => capture s c v) s
    if (acOf s c).cfgFault then s else deliverDue (bits.length / 2000 + 2) s c

/-! ### Channel changes (R153) -/

/-- The channel takes bits from the next edge of its clock on. -/
def clockStart (s : State) (c : Nat) : State :=
  let x := acOf s c
  let e := edgeNow s + 1
  setAc s c { x with
    bits := [], nextEdge := e, lastN := max x.lastN ((e - 1 - acGd s c) / 2000), oneSince := e, run := 0, good := 0,
    satTo := e - 1, tapNext := (e + 7) / 8 }

def channelStart (s : State) (c : Nat) : State := channelChange (clockStart s c) c

/-- CFG_FAULT follows its conditions (R143, R146): entering it raises the interrupt and a record, and the sets that still wait for
the channel get its MISSING; leaving it is a channel change. -/
def cfgCheck (s : State) (c : Nat) : State :=
  let x := acOf s c
  let bad := cfgBad s c
  if bad == x.cfgFault then s
  else
    let s := setAc s c { x with cfgFault := bad }
    if bad then
      let s := setAc s c { acOf s c with fade := none, active := false, settling := false, settleLeft := 0 }
      let s := evt (irq s .acq 4) 0x0811 1 c 0 0
      tryRelease ((s.svs.opened.filter fun o => decide (x.lastN < o.label.n)).foldl (fun s o => deliver s c o.label.n) s)
    else channelChange s c

/-- The pin level that RANGE_MODE asks for (R156). -/
def modeLevel (s : State) (c : Nat) : Option Bool :=
  let m := acF s c 0x10 0 2
  if m = 0 then some false else if m = 1 then some true else none

/-- RANGE_MODE was written: the pin switches if the level changes. -/
def rangeMode (s : State) (c : Nat) : State :=
  let x := acOf s c
  match modeLevel s c with
  | some l => if l == x.range16 then setAc s c { x with pendRange := none }
      else setAc s c { x with pendRange := some (l, x.nextEdge + 2) }
  | none => s

/-- A fade from bank `old` begins (R150): at the first grain whose output instants under both banks lie ahead. -/
def fadeStart (s : State) (c old : Nat) : State :=
  let x := acOf s c
  let p := min (place s c old).p (place s c (acBank s c)).p
  let n := if x.nextEdge ≤ p then 0 else (x.nextEdge - p) / 2000 + (if (x.nextEdge - p) % 2000 = 0 then 0 else 1)
  let n := max n (x.lastN + 1)
  let n := if acSlow s c then n + (3 - tickPhase s n) % 3 else n
  settleNow (setAc s c { x with fade := some { oldBank := old == 1, first := n, n := acF s c 0 4 4 } }) c false

/-- The channel's configuration was written: `old` is CH_CFG before (R146, R150, R153). -/
def chCfgWritten (s : State) (c old : Nat) : State :=
  let new := reg s .acq 0 (acO c 0)
  let wasOn := bit old 0
  let on := bit new 0
  if !enabled s .acq then s
  else if !on then
    tryRelease (setAc s c { acOf s c with
      cfgFault := false, mdFault := false, fade := none, change := none, run := 0, good := 0, active := false,
      settling := false, settleLeft := 0 })
  else if !wasOn then
    let s := setAc s c { acOf s c with cfgFault := false }
    cfgCheck (channelStart s c) c
  else
    let s := if !bit old 3 && bit new 3 then setAc s c { acOf s c with tapNext := ((acOf s c).nextEdge + 7) / 8 } else s
    let ob := getBits old 2 1
    let nb := getBits new 2 1
    let s :=
      if getBits old 1 1 ≠ getBits new 1 1 || getBits old 8 9 ≠ getBits new 8 9 then channelChange s c
      else if ob ≠ nb then (if bankD s ob = bankD s nb then fadeStart s c ob else channelChange s c)
      else s
    cfgCheck s c

/-- Does a channel with EN = 1 select bank `b`, or fade to or from it (R149)? -/
def acqBankUsed (s : State) (b : Nat) : Bool :=
  (List.range 24).any fun c => flag s .acq (acO c 0) 0 &&
    (acBank s c == b || (match (acOf s c).fade with
      | some f => oldBankOf f == b
      | none => false))

/-- The bank to which an offset of the ACQ page belongs. -/
def bankOfOff (o : Nat) : Option Nat :=
  if o = 0x60 || (decide (0x1000 ≤ o) && decide (o < 0x1400)) then some 0
  else if o = 0x64 || (decide (0x1400 ≤ o) && decide (o < 0x1800)) then some 1
  else none

/-- Is a write to this offset refused because its bank is in use (R149)? -/
def bankBlocked (s : State) (o : Nat) : Bool :=
  match bankOfOff o with
  | some b => acqBankUsed s b
  | none => false

/-- WR_REFUSED set (R149). -/
def bankRefused (s : State) : State := irq (setFld s .acq 0x54 2 1 1) .acq 6

/-- A register of the ACQ page was written; `old` is its word before. -/
def acqWritten (s : State) (o old : Nat) : State :=
  if o = 8 then
    forEach (List.range 24) s fun s c => if flag s .acq (acO c 0) 0 then
      (if bit old 0 && !enabled s .acq then chCfgWritten s c 1
       else if !bit old 0 && enabled s .acq then chCfgWritten s c 0 else s) else s
  else if o = 0x40 then forEach (List.range 24) s fun s c =>
    if acOn s c then cfgCheck (if !bit old (c / 4) && flag s .acq 0x40 (c / 4) then clockStart s c else s) c else s
  else if o < 0x100 || 0x700 ≤ o then s
  else
    let c := (o - 0x100) / 0x40
    let g := (o - 0x100) % 0x40
    let new := reg s .acq 0 o
    if g = 0 then chCfgWritten s c old
    else if (g = 4 || g = 8) && old ≠ new && acOn s c then channelChange s c
    else if g = 0x10 && getBits old 0 2 ≠ getBits new 0 2 then rangeMode s c
    else s

/-! ### MD fault (R143) -/

/-- MD_c shows no transition for STUCK_LEN bits. -/
def mdStuck (s : State) (c : Nat) (level : Bool) : State := localSample s c (List.replicate (stuckLen s) level)

/-! ### The travelling-wave tap (R160) -/

/-- The tap's word at edge `t`: output m refers to edge 8 m - 10.5, so its 22 bits end at edge 8 m. -/
def tapWord (x : AcqCh) (t : Nat) : Nat :=
  let a := (x.bits.drop (x.nextEdge - 1 - t)).take 22
  let y := (List.range 22).foldl (fun (acc : Int) (j : Nat) =>
    match a[j]? with
    | some b => acc + (sincW 8 j : Int) * (if b.v then 1 else -1)
    | none => acc) 0
  let r16 := match a.head? with
    | some b => b.r16
    | none => x.range16
  ofSigned 11 y + ofBit r16 11 + ofBit (a.any fun b => b.blank || b.r16 != r16) 12

/-! ### Skew calibration (R161, R162) -/

def calReps (s : State) : Nat := fld s .acq 0x4C 0 10
def calPeriod (s : State) : Nat := fld s .acq 0x4C 16 8

/-- ACQ_CAL (R161): false when the command ends with STATE. -/
def acqCal (s : State) (mask : Nat) : State × Bool :=
  if s.acq.cal.isSome || mask % 2 ^ 24 = 0 then (s, false)
  else
    let t0 := match s.tim.lastGrain with
      | some (sec, k) => sec * secU + k * 625000 * nsU / 9
      | none => 0
    let t := s.tim.time + 1000000 * nsU - t0
    let j := (t * 9 + 625000 * nsU - 1) / (625000 * nsU)
    ({ s with acq := { s.acq with cal := some ⟨mask % 2 ^ 24, s.tim.grains + j, 0, []⟩ } }, true)

/-- The edge of step `i` of the calibration. -/
def calEdge (s : State) (k : Cal) (i : Nat) : Nat := 2000 * (k.start + i * calPeriod s)

/-- The first output of stage 1a that ends after edge `e`. -/
def outAfter (s : State) (c e : Nat) : Nat :=
  (((List.range (acOsr s c)).map fun i => e + 1 + i).find? fun t : Nat => onLattice s c (t : Int)).getD (e + 1)

/-- The last 16 outputs of stage 1a whose windows end before edge `e`, summed. -/
def sum16 (s : State) (c : Nat) (a : Array MBit) (next e : Nat) : Int :=
  let osr := acOsr s c
  let after := outAfter s c (e - 1)
  let last := after - osr
  (List.range 16).foldl (fun acc j => acc + sinc3 a next osr ((last : Int) - ((osr * j : Nat) : Int)) fun _ => 1) 0

/-- The measurement of one step edge of one channel: the crossing as a fraction of periods after the edge, and whether the
step was large enough (R162). -/
def calMeasure (s : State) (c e next : Nat) : Option (Int × Nat) × Bool :=
  let x := acOf s c
  let osr := acOsr s c
  let a := x.bits.toArray
  let s0 := sum16 s c a x.nextEdge e
  let s1 := sum16 s c a x.nextEdge next
  let m := s0 + s1
  let first := outAfter s c e
  let n := (next - 1 - first) / osr + 1
  let y (i : Nat) : Int := sinc3 a x.nextEdge osr ((first + osr * i : Nat) : Int) fun _ => 1
  let hit := (List.range (n - 1)).find? fun i =>
    let p := 32 * y i
    let q := 32 * y (i + 1)
    (decide (p < m) && decide (m ≤ q)) || (decide (q ≤ m) && decide (m < p))
  let big := decide (8 * (s1 - s0).natAbs ≥ 16 * osr ^ 3)
  match hit with
  | none => (none, big)
  | some i =>
    let dy := y (i + 1) - y i
    let num := ((first + osr * i - e : Nat) : Int) * (32 * dy.natAbs : Nat) +
      (osr : Int) * (m - 32 * y i) * (if dy < 0 then -1 else 1)
    (some (num, 32 * dy.natAbs), big)

/-- The step edge before the present one is measured on every calibrated channel. -/
def calTake (s : State) (k : Cal) : Cal :=
  if k.step = 0 then k
  else
    let e := calEdge s k (k.step - 1)
    let next := calEdge s k k.step
    { k with edges := (bitsOf k.mask 24).foldl (fun m c =>
        putK m c ((findK m c).getD [] ++ [calMeasure s c e next])) k.edges }

/-- The next edge of CAL_OUT (R161, steps 2 and 3). -/
def calToggle (s : State) : State :=
  match s.acq.cal with
  | none => s
  | some k =>
    if k.step ≥ calReps s then s
    else
      let k := calTake s k
      { s with acq := { s.acq with calOut := !s.acq.calOut, cal := some { k with step := k.step + 1 } } }

/-- The result of a channel (R162): LAG and VALID. -/
def calLag (s : State) (c : Nat) (m : List (Option (Int × Nat) × Bool)) : Int × Bool :=
  let osr := acOsr s c
  let path := toSigned 16 (acF s c 0xC 0 16)
  let all := m.filterMap fun e => e.1
  if all.length < m.length || all.isEmpty then (toSigned 16 (Config.freeLag s.tim.grains c).toNat, false)
  else
    let (num, den) := all.foldl (fun (r : Int × Nat) e => (r.1 * e.2 + e.1 * r.2, r.2 * e.2)) ((0 : Int), 1)
    -- 256 × mean of lag(e), over den × length
    let d := den * all.length
    let lag := roundAway (256 * num - ((128 * (3 * osr - 3) * d : Nat) : Int) - path * (d : Int)) d
    let near := all.all fun e =>
      -- |tc − e − (3 OSR − 3) / 2 − LAG / 256| ≤ 8 OSR, times 256 × den
      decide ((256 * e.1 - ((128 * (3 * osr - 3) * e.2 : Nat) : Int) - lag * e.2).natAbs ≤ 8 * osr * 256 * e.2)
    let fits := decide (-16384 ≤ lag) && decide (lag ≤ 16383)
    if -32768 ≤ lag ∧ lag ≤ 32767 then (lag, fits && near && m.all fun e => e.2)
    else (toSigned 16 (Config.freeLag s.tim.grains c).toNat, false)

/-- The end of a calibration (R161, step 4). -/
def calDone (s : State) : State :=
  match s.acq.cal with
  | none => s
  | some k =>
    if k.step < calReps s then s
    else
      let k := calTake s k
      let res := (bitsOf k.mask 24).foldl (fun m c =>
        putK m c (calLag s c ((findK k.edges c).getD []))) s.acq.calResult
      let s := irq { s with acq := { s.acq with cal := none, calOut := false, calResult := res } } .acq 5
      forEach (List.range 24) s fun s c => if acOn s c then channelChange s c else s

/-- ACQ_SKEW_APPLY (R162). -/
def skewApply (s : State) (mask : Nat) : State × Bool :=
  if s.acq.cal.isSome then (s, false)
  else
    (forEach (bitsOf mask 24) s fun s c =>
      match findK s.acq.calResult c with
      | some (lag, true) => channelChange (setReg s .acq 0 (acO c 8) (ofSigned 16 lag)) c
      | _ => s, true)

/-! ### Words computed for a read (R164) -/

def calStat (s : State) : Nat :=
  ofBit s.acq.cal.isSome 0 + (s.acq.calResult.foldl (fun a e => a + ofBit e.2.2 (8 + e.1)) 0)

def bankStat (s : State) : Nat :=
  ofBit (acqBankUsed s 0) 0 + ofBit (acqBankUsed s 1) 1 + getBits (reg s .acq 0 0x54) 2 1 * 4

def gdMax (s : State) : Nat :=
  (List.range 24).foldl (fun m c => if flag s .acq (acO c 0) 0 then max m (acGd s c) else m) 0

/-- CH_STAT, CH_GD, CH_CALMEAS and CH_LO_EFF of a channel. -/
def chStat (s : State) (c : Nat) : Nat :=
  let x := acOf s c
  ofBit x.active 0 + ofBit x.range16 1 + ofBit x.settling 2 + ofBit x.fade.isSome 3 + ofBit x.cfgFault 4 +
    ofBit x.mdFault 5 + min x.settleLeft 255 * 256

def chGd (s : State) (c : Nat) : Nat :=
  if flag s .acq (acO c 0) 0 then acGd s c % 2 ^ 18 + (place s c (acBank s c)).f * 2 ^ 24 else 0

def chCalMeas (s : State) (c : Nat) : Nat :=
  match findK s.acq.calResult c with
  | some (lag, v) => ofSigned 16 lag + ofBit v 31
  | none => 0

/-- The timebase stepped: grain and modulator clock are re-phased together, which is a channel change (R21). The switches of the
range keep their distance to the new edges. -/
def acqStep (s : State) : State :=
  forEach (List.range 24) s fun s c =>
    if !acOn s c then s
    else
      let x := acOf s c
      let e := edgeNow s + 1
      let move (t : Nat) : Nat := t + e - x.nextEdge
      channelStart (setAc s c { x with
        swEdge := move x.swEdge, sws := x.sws.map fun w => (move w.1, move w.2),
        pendRange := x.pendRange.map fun p => (p.1, move p.2) }) c

/-! ### Rows -/

def execLocalSample (c : Fin 24) (bits : List Bool) (s : State) : Host.Outcome State Fault Refusal :=
  runOn (fun s => localSample s c.val bits) s

/-- The row is the STUCK_LEN bits without a transition, of the level it names. -/
def execMdFault (c : Fin 24) (level : Bool) (s : State) : Host.Outcome State Fault Refusal :=
  runOn (fun s => mdStuck s c.val level) s

/-- The row is the bits that end the fault. -/
def execMdFaultClear (c : Fin 24) (bits : List Bool) (s : State) : Host.Outcome State Fault Refusal :=
  runOn (fun s => if (acOf s c.val).mdFault then localSample s c.val bits else s) s

def execRangeSwitch (c : Fin 24) (s : State) : Host.Outcome State Fault Refusal :=
  runOn (fun s => if isDown s .acq then s else rangeSwitch s c.val) s

def execCalOutToggle (s : State) : Host.Outcome State Fault Refusal := runOn (fun s => calToggle s) s

def execCalDone (s : State) : Host.Outcome State Fault Refusal := runOn (fun s => calDone s) s

end Sys2Proof.Machine
end

