-- ==== Sys2Proof/Machine/Phasor.lean ====
section
/-!
DEFINITION. The phasor engine (R166 to R176, R179), harmonic windows (R177, R178), the rings of slices (R180) and the
synchrophasor publisher (R181 to R186). Phasors are computed from the released sets the engine keeps.
-/

namespace Sys2Proof.Machine

/-! ### Filters -/

/-- Window length N of a class, M-class when true (R167). -/
def phN (s : State) (m : Bool) : Nat := if m then s.phx.mN else if s.phx.fnom = 0 then 574 else 478

def fdSpan (s : State) : Nat := fld s .phx 0x40 16 9

/-- LAT of a class (R167). -/
def phLat (s : State) (m : Bool) : Nat := phN s m / 2 + fdSpan s

def classOf (s : State) (c : Nat) : Bool := flag s .phx (0x1000 + 4 * (c / 32)) (c % 32)

/-- Window coefficients in Q30, offsets −H to +H (R168). -/
def winCoef (s : State) (m : Bool) : List Int :=
  let n := phN s m
  let h := n / 2
  (List.range (n + 1)).map fun j =>
    let i : Int := (j : Int) - h
    if m then
      let w := mulFx (sincFx (i * s.phx.mFfr) 360000) ((54 * (fx : Int) + 46 * cosPi (2 * i) n) / 100)
      roundAway (w * 2 ^ 30) fx
    else roundAway (((n : Int) + 2 - 2 * i.natAbs) * 2 ^ 30) (n + 2)

/-- Grains per nominal cycle (R169). -/
def cycGrains (s : State) : Nat := if s.phx.fnom = 0 then 288 else 240

def f0Hz (s : State) : Nat := if s.phx.fnom = 0 then 50 else 60

/-! ### Windows and raw phasors -/

/-- A phasor not yet corrected, scaled by 2^96, with the flags [7:2] of its window. -/
structure Raw where
  ok : Bool
  re : Int
  im : Int
  fl : Nat

/-- The sets of the grains from `lo` to `hi`, newest first. -/
def setsIn (s : State) (lo hi : Int) : List ASet :=
  s.phx.hist.filter fun a => decide (lo ≤ (a.label.n : Int)) && decide ((a.label.n : Int) ≤ hi)

/-- Is a sample invalid for the engine (R170)? -/
def badSample (v : ChVal) : Bool := Nat.land v.flags.toNat (fMissing + fLate + fAuth) != 0

/-- Does the list of sets, newest first, span a timebase step? The first grain after one carries the mark (R20). -/
def spansStep (l : List ASet) : Bool :=
  match l with
  | [] => false
  | a :: r => (l.dropLast.any fun b => b.label.step) || r.any fun b => b.label.epoch != a.label.epoch

/-- √2, scaled. -/
def sqrt2Fx : Int := sqrtFx (2 * (fx : Int))

/-- The phasor of channel `c` at reference grain `r` (R169, R170). -/
def rawPhasor (s : State) (c : Nat) (r : Int) : Raw :=
  let m := classOf s c
  let n := phN s m
  let h := n / 2
  let sets := setsIn s (r - h) (r + h)
  let vs := sets.map fun a => (a, chOf a c)
  let since := max s.phx.since (max (if m then s.phx.sinceM else 0) ((findK s.phx.chSince c).getD 0))
  let fl := (vs.foldl (fun a v => Nat.lor a (getBits v.2.flags.toNat 4 6)) 0) * 4
  if sets.length ≠ n + 1 || decide (r - h < (since : Int)) || spansStep sets || vs.any fun v => badSample v.2 then
    { ok := false, re := 0, im := 0, fl := fl }
  else
    let w := (winCoef s m).toArray
    let cyc := cycGrains s
    let (re, im) : Int × Int := vs.foldl (fun (acc : Int × Int) v =>
      let q := v.1.label.k % cyc
      let k := w.getD ((v.1.label.n : Int) - (r - h)).toNat 0 * v.2.value
      let co := roundAway (cosPi ((2 * q : Nat) : Int) cyc * 2 ^ 30) fx
      let si := roundAway (sinPi ((2 * q : Nat) : Int) cyc * 2 ^ 30) fx
      (acc.1 + k * co, acc.2 - k * si)) ((0 : Int), (0 : Int))
    let d := w.foldl (fun (a : Int) b => a + b) 0 * 2 ^ 30
    { ok := true, re := re * sqrt2Fx / d, im := im * sqrt2Fx / d, fl := fl }

/-! ### Frequency (R172) -/

def wrapPi (d : Int) : Int :=
  if d > (piFx : Int) then d - 2 * piFx else if d ≤ -(piFx : Int) then d + 2 * piFx else d

/-- Is the magnitude below FMIN? -/
def belowMin (s : State) (x : Raw) : Bool :=
  decide (x.re * x.re + x.im * x.im < ((fld s .phx 0x4C 0 31 * fx : Nat) : Int) ^ 2)

/-- dfreq and ROCOF in µHz and µHz/s of three phasors, none when they are FREQ_MISSING. -/
def freqOf (s : State) (a b c : Raw) : Option (Int × Int) :=
  if !a.ok || !b.ok || !c.ok || belowMin s a || belowMin s b || belowMin s c then none
  else
    let p (x : Raw) : Int := atan2Fx x.im x.re
    let d1 := wrapPi (p c - p b)
    let d0 := wrapPi (p b - p a)
    let d := fdSpan s
    some (satS 32 (roundAway ((d1 + d0) * 14400 * 1000000) (4 * d * piFx)),
          satS 32 (roundAway ((d1 - d0) * 14400 * 14400 * 1000000) (2 * piFx * d * d)))

def chFreq (s : State) (c : Nat) (r : Int) : Option (Int × Int) :=
  let d : Int := fdSpan s
  freqOf s (rawPhasor s c (r - d)) (rawPhasor s c r) (rawPhasor s c (r + d))

/-! ### Groups (R174) -/

def gw (w : List Word) (k lsb n : Nat) : Nat := getBits (w.getD k 0).toNat lsb n

def grpEn (w : List Word) : Bool := gw w 2 0 1 == 1
def grpHasN (w : List Word) : Bool := gw w 2 3 1 == 1

/-- Channels A, B, C of a group, rotation applied. -/
def grpAbc (w : List Word) : Nat × Nat × Nat :=
  if gw w 2 1 1 = 1 then (gw w 0 0 13, gw w 1 0 13, gw w 0 16 13) else (gw w 0 0 13, gw w 0 16 13, gw w 1 0 13)

def grpMembers (w : List Word) : List Nat :=
  let (a, b, c) := grpAbc w
  [a, b, c] ++ (if grpHasN w then [gw w 1 16 13] else [])

/-- The class of a group, and whether its members differ in class. -/
def grpClass (s : State) (w : List Word) : Bool := classOf s (grpAbc w).1
def grpMix (s : State) (w : List Word) : Bool := (grpMembers w).any fun c => classOf s c != grpClass s w

def addR (a b : Raw) : Raw := { ok := a.ok && b.ok, re := a.re + b.re, im := a.im + b.im, fl := Nat.lor a.fl b.fl }

/-- α^k x for k = 1 (true) or 2. -/
def mulAlpha (one : Bool) (x : Raw) : Raw :=
  let h := sinPi 1 3
  let h := if one then h else -h
  { x with re := -x.re / 2 - mulFx h x.im, im := mulFx h x.re - x.im / 2 }

def thirdR (x : Raw) : Raw := { x with re := x.re / 3, im := x.im / 3 }

/-- X0, X1, X2 of three phasors. -/
def sequence (a b c : Raw) : Raw × Raw × Raw :=
  (thirdR (addR a (addR b c)), thirdR (addR a (addR (mulAlpha true b) (mulAlpha false c))),
   thirdR (addR a (addR (mulAlpha false b) (mulAlpha true c))))

/-- The uncorrected positive sequence of a group at reference grain `r`. -/
def rawX1 (s : State) (w : List Word) (r : Int) : Raw :=
  let (a, b, c) := grpAbc w
  let x := (sequence (rawPhasor s a r) (rawPhasor s b r) (rawPhasor s c r)).2.1
  let okN := !grpHasN w || (rawPhasor s (gw w 1 16 13) r).ok
  { x with ok := x.ok && okN && !grpMix s w }

/-- The frequency of a group; its history begins anew at a commit (R179). -/
def grpFreq (s : State) (g : Nat) (w : List Word) (r : Int) : Option (Int × Int) :=
  let d : Int := fdSpan s
  let since := ((findK s.phx.grpStat g).map fun t => t.since).getD 0
  if r - d + phN s (grpClass s w) / 2 < (since : Int) then none
  else freqOf s (rawX1 s w (r - d)) (rawX1 s w r) (rawX1 s w (r + d))

/-- The enabled group to which a channel belongs, the lowest one. -/
def chGroup (s : State) (c : Nat) : Option (Nat × List Word) :=
  s.phx.grp.find? fun e => grpEn e.2 && (grpMembers e.2).contains c

/-! ### Correction (R173) -/

/-- G at `j` hundredths of a hertz, scaled. -/
def gainAt (s : State) (m : Bool) (j : Nat) : Int :=
  let w := winCoef s m
  let h := phN s m / 2
  let num := (w.mapIdx fun i c => c * cosPi (2 * (j : Int) * ((i : Int) - h)) 1440000).foldl (fun (a : Int) b => a + b) 0
  num / w.foldl (fun (a : Int) b => a + b) 0

/-- The gain at a deviation in µHz, and whether the correction was limited. -/
def gainOf (s : State) (m : Bool) (df : Int) : Int × Bool :=
  let lim := fld s .phx 0x48 0 10
  let u := df.natAbs
  if u > lim * 10000 then (gainAt s m lim, true)
  else if u = lim * 10000 then (gainAt s m lim, false)
  else
    let a := gainAt s m (u / 10000)
    let b := gainAt s m (u / 10000 + 1)
    (a + (b - a) * ((u % 10000 : Nat) : Int) / 10000, false)

/-- The frequency that corrects a channel: its group's, or its own. -/
def corrFreq (s : State) (c : Nat) (r : Int) : Option (Int × Int) :=
  match chGroup s c with
  | some (g, w) => grpFreq s g w r
  | none => chFreq s c r

/-- A corrected phasor, and the flags FREQ_MISSING and FA_LIMIT; with FADAPT 0 neither. -/
def corrected (s : State) (c : Nat) (r : Int) : Raw × Nat :=
  let x := rawPhasor s c r
  if !flag s .phx 0x40 1 then (x, 0)
  else
  match corrFreq s c r with
  | none => (x, 512)
  | some (df, _) =>
    if !x.ok then (x, 0)
    else
      let (g, lim) := gainOf s (classOf s c) df
      ({ x with re := x.re * (fx : Int) / g, im := x.im * (fx : Int) / g }, ofBit lim 10)

/-! ### Outputs -/

/-- A delivered phasor: parts, dfreq, ROCOF, flags (R171). -/
structure PhOut where
  re : Int
  im : Int
  df : Int
  ro : Int
  fl : Nat

def toCount (v : Int) : Int := satS 32 (roundAway v fx)

/-- The output of channel `c` at reference grain `r`. -/
def phOut (s : State) (c : Nat) (r : Int) : PhOut :=
  let (x, f) := corrected s c r
  let q := chFreq s c r
  let fm := if q.isNone then 512 else 0
  { re := if x.ok then toCount x.re else 0, im := if x.ok then toCount x.im else 0,
    df := (q.getD (0, 0)).1, ro := (q.getD (0, 0)).2,
    fl := Nat.lor (ofBit x.ok 0 + ofBit (!x.ok) 1 + x.fl + ofBit (classOf s c) 8) (Nat.lor f fm) }

/-- A delivered group: X0, X1, X2 and the rest as of its own frequency. -/
structure GrpOut where
  x0 : Raw
  x1 : Raw
  x2 : Raw
  xa : Raw
  xb : Raw
  xc : Raw
  xn : Raw
  ok : Bool
  df : Int
  ro : Int
  fl : Nat

def grpOut (s : State) (g : Nat) (w : List Word) (r : Int) : GrpOut :=
  let (a, b, c) := grpAbc w
  let xa := (corrected s a r).1
  let xb := (corrected s b r).1
  let xc := (corrected s c r).1
  let xn := if grpHasN w then (corrected s (gw w 1 16 13) r).1 else { ok := true, re := 0, im := 0, fl := 0 }
  let ok := xa.ok && xb.ok && xc.ok && xn.ok && !grpMix s w
  let (x0, x1, x2) := sequence xa xb xc
  let q := grpFreq s g w r
  let lim := match q with
    | some (df, _) => flag s .phx 0x40 1 && decide (df.natAbs > fld s .phx 0x48 0 10 * 10000)
    | none => false
  let ors := Nat.lor xa.fl (Nat.lor xb.fl (Nat.lor xc.fl xn.fl))
  let mcls := (grpMembers w).any fun c => classOf s c
  { x0 := x0, x1 := x1, x2 := x2, xa := xa, xb := xb, xc := xc, xn := xn, ok := ok,
    df := (q.getD (0, 0)).1, ro := (q.getD (0, 0)).2,
    fl := ofBit ok 0 + ofBit (!ok) 1 + ors + ofBit mcls 8 + ofBit q.isNone 9 + ofBit lim 10 }

/-- √n rounded to nearest. -/
def sqrtRound (n : Nat) : Nat := let r := Nat.sqrt n; if n - r * r > r then r + 1 else r

def sqMag (x : Raw) : Nat := (x.re * x.re + x.im * x.im).toNat

/-! ### Restarts (R179) -/

/-- The number of grains until every window is clear (R179). -/
def restartLeft (s : State) : Nat :=
  let at1 (since lat : Nat) : Nat := if since = 0 then 0 else since + 2 * lat - s.phx.setK
  let lp := phLat s false
  let lm := phLat s true
  let a := max (max (at1 s.phx.since (max lp lm)) (at1 s.phx.stepAt (max lp lm))) (at1 s.phx.sinceM lm)
  s.phx.chSince.foldl (fun m e => max m (at1 e.2 (phLat s (classOf s e.1)))) a

/-- The new coefficients are generated (R168, R179). -/
def coefRegenerate (s : State) : State :=
  if !s.phx.regen then s
  else
    let f := fld s .phx 0x40 0 1
    let n := s.tim.grains + 1
    let p := { s.phx with regen := false, mN := fld s .phx 0x44 0 11, mFfr := fld s .phx 0x44 16 12 }
    let p := if f ≠ s.phx.fnom then { p with fnom := f, since := n, hwin := [], hnext := [], hfrom := n } else { p with sinceM := n }
    irq { s with phx := p } .phx 6

/-- The restart of a timebase step, at once: windows that span it are MISSING (R170, R179). -/
def phxStepped (s : State) : State :=
  if isDown s .phasor then s else irq { s with phx := { s.phx with stepAt := s.tim.grains + 1 } } .phx 6

/-- The restart of a reset of the Phasor island, at its release (R179). -/
def phxReleased (s : State) : State :=
  let n := s.tim.grains + 1
  irq { s with phx := { s.phx with since := n, hfrom := n, setK := s.tim.grains, hist := [], todo := 0 } } .phx 6

/-- An operation of the group table (R179, R115). -/
def phxGrpOp (s : State) (op : Nat) : State :=
  let g := fld s .phx 0x180 0 10
  let sh : List Word := (List.range 3).map fun k => BitVec.ofNat 32 (reg s .phx 0 (0x184 + 4 * k))
  let commit (s : State) (w : List Word) : State :=
    let t := (findK s.phx.grpStat g).getD ⟨false, false, false, 0, 0, none, 0⟩
    irq { s with phx := { s.phx with
      grp := putK s.phx.grp g w
      grpStat := putK s.phx.grpStat g { t with since := s.phx.setK + 1, dfreq := none } } } .phx 6
  if op = 1 then commit s sh
  else if op = 3 then
    commit s (modAt ((findK s.phx.grp g).getD (List.replicate 3 0)) 2 fun x => x &&& 0xFFFFFFFE)
  else
    let w := (findK s.phx.grp g).getD (List.replicate 3 0)
    forEach (List.range 3) s fun s k => setReg s .phx 0 (0x184 + 4 * k) (w.getD k 0).toNat

/-! ### Supervision (R175, R176) -/

/-- A status bit with its counter of consecutive grains that differ from it. -/
def holdStep (on : Bool) (n hold : Nat) (cond : Bool) : Bool × Nat :=
  if cond == on then (on, 0) else if n + 1 ≥ hold then (!on, 0) else (on, n + 1)

/-- Supervision and the latest frequency of a group for reference grain `r`. -/
def grpStep (s : State) (g : Nat) (w : List Word) (r : Int) : State :=
  let t := (findK s.phx.grpStat g).getD ⟨false, false, false, 0, 0, none, 0⟩
  let o := grpOut s g w r
  let df := if bit o.fl 9 then none else some o.df
  let t := { t with classMix := grpMix s w, dfreq := df }
  if !o.ok then
    { s with phx := { s.phx with grpStat := putK s.phx.grpStat g { t with revCnt := 0, neuCnt := 0 } } }
  else
    let big := max (sqMag o.xa) (max (sqMag o.xb) (sqMag o.xc))
    let rc := decide (sqMag o.x2 ≥ sqMag o.x1) && decide (big ≥ (fld s .phx 0x54 0 31 * fx) ^ 2)
    let mag (x : Raw) : Nat := Nat.sqrt (sqMag x)
    let (mis, ref) : Nat × Nat :=
      if grpHasN w then
        (mag { o.xn with re := o.xn.re - 3 * o.x0.re, im := o.xn.im - 3 * o.x0.im }, (mag o.xa + mag o.xb + mag o.xc) / 3)
      else (mag o.x0, mag o.x1)
    let nc := decide (mis * 256 > ref * fld s .phx 0x58 0 8)
    let (rv, rn) := holdStep t.reverse t.revCnt (fld s .phx 0x50 0 14) rc
    let (nu, nn) := holdStep t.neutral t.neuCnt (fld s .phx 0x58 16 14) nc
    let s := { s with phx := { s.phx with
                grpStat := putK s.phx.grpStat g { t with reverse := rv, revCnt := rn, neutral := nu, neuCnt := nn } } }
    let s := if rv == t.reverse then s else evt (irq s .phx 1) 0x0910 1 g (ofBit rv 0) 0
    if nu == t.neutral then s else evt (irq s .phx 2) 0x0911 1 g (ofBit nu 0) 0

/-! ### Rings (R180) -/

/-- The label of the grain `lat` before a set's grain. -/
def refLabel (s : State) (a : ASet) (lat : Nat) : Option Label :=
  (s.phx.hist.find? fun b => b.label.n + lat == a.label.n).map fun b => b.label

def refBytes (s : State) (a : ASet) (lat : Nat) : List Byte :=
  match refLabel s a lat with
  | some l => l.bytes
  | none => padTo 16 (Config.freeLabel (a.label.n - lat))

/-- Is the reference grain, `lat` generated grains before the set's, a protection tick? Its own number says so. -/
def refTick (s : State) (a : ASet) (lat : Nat) : Bool :=
  match refLabel s a lat with
  | some l => l.k % 3 == 0
  | none => ((a.label.k : Int) - lat) % 3 == 0

/-- The groups of a slice. -/
def glList (s : State) (base n : Nat) : List Nat :=
  ((List.range n).filter fun i => decide (base + i ≤ 8191)).map fun i => regB s .phx 0 0x14C (base + i) % 1024

def phEntry (s : State) (a : ASet) (chs gs : List Nat) (q : Nat) : List Byte :=
  let n : Int := a.label.n
  let outs := chs.map fun c => phOut s c (n - phLat s (classOf s c))
  let gout := gs.map fun g =>
    let w := (findK s.phx.grp g).getD (List.replicate 3 0)
    (grpOut s g w (n - phLat s (grpClass s w)), (findK s.phx.grpStat g).getD ⟨false, false, false, 0, 0, none, 0⟩, grpEn w)
  let i4 (v : Int) : List Byte := le 4 (ofSigned 32 v)
  let bad := (outs.any fun o => bit o.fl 1) || gout.any fun o => !o.1.ok || !o.2.2
  le 4 q ++ le 2 a.label.k ++ le 2 (ofBit a.label.step 0 + ofBit bad 1 + ofBit (restartLeft s != 0) 2) ++
    refBytes s a (phLat s false) ++ refBytes s a (phLat s true) ++ le 2 (phLat s false) ++ le 2 (phLat s true) ++
    le 2 chs.length ++ le 2 gs.length ++ List.replicate 16 0 ++
    (outs.map fun o => i4 o.re ++ i4 o.im ++ le 4 (sqrtRound (o.re * o.re + o.im * o.im).toNat) ++ i4 o.df ++ i4 o.ro ++
      le 2 o.fl ++ le 2 0).flatten ++
    (gout.map fun (o, t, en) =>
      let ok := o.ok && en
      let c (x : Raw) : List Byte := if ok then i4 (toCount x.re) ++ i4 (toCount x.im) else List.replicate 8 0
      c o.x0 ++ c o.x1 ++ c o.x2 ++ i4 (if en then o.df else 0) ++ i4 (if en then o.ro else 0) ++
        le 2 (if en then o.fl else 2 + 512) ++ le 2 (ofBit t.reverse 0 + ofBit t.neutral 1 + ofBit t.classMix 2) ++
        le 4 0).flatten

def phToSlice (s : State) (i : Nat) (a : ASet) : State :=
  let cfg := regB s .phx 0 0x10C i
  let r := ringOf s.phx.ring i
  let div := getBits cfg 5 2
  if !bit cfg 0 || r.fault || (div = 1 && !refTick s a (phLat s false)) || (div = 2 && !refTick s a (phLat s true)) then s
  else if !ringOpen s i then ringGated s i
  else
    let nch := getBits cfg 8 10
    let ng := getBits cfg 20 9
    let chs := chList s .phx (regB s .phx 0 0x110 i % 32768) nch
    let gs := glList s (regB s .phx 0 0x114 i % 8192) ng
    let base := regB s .phx 0 0x104 i + regB s .phx 0 0x108 i * 2 ^ 32
    let len := 64 + 24 * nch + 40 * ng
    let (t, r') := ringWrite s .phx i base (getBits cfg 1 4) (roundUp (len + 8) 64) len 4 r (phEntry s a chs gs)
    let t := { t with phx := { t.phx with ring := putK t.phx.ring i r' } }
    if r'.fault then ringFault t i .phx 0x304 3 else t

/-! ### Harmonics (R177, R178) -/

def hlWord (s : State) (e : Nat) : Nat := regB s .phx 0 0x1C4 e

def nCyc (s : State) : Nat := if s.phx.fnom = 0 then 10 else 12

/-- A window of entry `e` begins at grain `n`. -/
def hwinStart (s : State) (e n : Nat) : HWin :=
  let g := getBits (hlWord s e) 16 10
  let f0u : Int := ((f0Hz s * 1000000 : Nat) : Int)
  let en := match findK s.phx.grp g with
    | some w => grpEn w
    | none => false
  let df := if en then (findK s.phx.grpStat g).bind fun t => t.dfreq else none
  let dref := match df with
    | some d => clampInt d (-(f0u / 20)) (f0u / 20)
    | none => 0
  { first := n, len := (roundTiesUp (((nCyc s * 14400 * 1000000 : Nat) : Int)) (f0u + dref).toNat).toNat, dref := dref,
    nosync := df.isNone }

/-- The harmonic windows at the set of grain `n` (R177): a step ends them, a complete one waits for its record. The first window of
an entry begins at the grain after HRM_EN was set or after the restart, the next ones where the last ended. -/
def hwinStep (s : State) (n : Nat) (step : Bool) : State :=
  let s := if step then { s with phx := { s.phx with hwin := [], hnext := [], hfrom := n } } else s
  if !flag s .phx 0x5C 0 then s
  else forEach (List.range 256) s fun s e =>
    let start := max s.phx.hfrom ((findK s.phx.hnext e).getD 0)
    if !bit (hlWord s e) 31 || ((findK s.phx.hwin e).isNone && decide (n < start)) then s
    else
      let w := match findK s.phx.hwin e with
        | some w => w
        | none => let w := hwinStart s e start
                  { w with first := start + (n - start) / w.len * w.len }
      if n + 1 ≥ w.first + w.len then
        { s with phx := { s.phx with
          hwin := delK s.phx.hwin e, hdone := putK s.phx.hdone e w, hnext := putK s.phx.hnext e (w.first + w.len) } }
      else { s with phx := { s.phx with hwin := putK s.phx.hwin e w } }

/-- Bin `b` of a window of samples: the scaled phasor (R178). -/
def binOf (xs : List Int) (b : Nat) : Int × Int :=
  let n := xs.length
  let (re, im) := (xs.mapIdx fun i x => (i, x)).foldl (fun (a : Int × Int) e =>
    let ph : Int := ((2 * b * e.1 % (2 * n) : Nat) : Int)
    (a.1 + e.2 * cosPi ph n, a.2 - e.2 * sinPi ph n)) ((0 : Int), (0 : Int))
  if b = 0 then (re / (n : Int), im / (n : Int)) else (mulFx re sqrt2Fx / (n : Int), mulFx im sqrt2Fx / (n : Int))

/-- √ of a sum of squares of scaled values, in counts, saturated to UINT32. -/
def rootCount (sq : Nat) : Nat := min ((2 * Nat.sqrt sq + fx) / (2 * fx)) 0xFFFFFFFF

/-- The values of a harmonic window: order by order. -/
def harmonics (s : State) (xs : List Int) : List (Int × Int × Nat × Nat) :=
  let nc := nCyc s
  let half := nc / 2
  let bins := ((List.range (64 * nc + half + 1)).map fun b => binOf xs b).toArray
  let sq (b : Nat) : Nat := let c := bins.getD b (0, 0); (c.1 * c.1 + c.2 * c.2).toNat
  (List.range 64).map fun h =>
    let b := h * nc
    let (re, im) := bins.getD b (0, 0)
    if h = 0 then (toCount re, (0 : Int), rootCount (sq 0), rootCount (sq 0))
    else
      let g2 := (sq (b - half) + sq (b + half)) / 2 +
        ((List.range (nc - 1)).foldl (fun a i => a + sq (b + i + 1 - half)) 0)
      (toCount re, toCount im, rootCount g2, rootCount (sq (b - 1) + sq b + sq (b + 1)))

def hrmEntry (e c : Nat) (l : List Byte) (w : HWin) (nc fl : Nat) (vals : List (Int × Int × Nat × Nat)) (q : Nat) : List Byte :=
  le 4 q ++ le 2 e ++ le 2 c ++ padTo 16 l ++ le 2 w.len ++ le 1 nc ++ [0] ++ le 4 (ofSigned 32 w.dref) ++ le 2 fl ++
    List.replicate 30 0 ++
    (vals.map fun v => le 4 (ofSigned 32 v.1) ++ le 4 (ofSigned 32 v.2.1) ++ le 4 v.2.2.1 ++ le 4 v.2.2.2).flatten

/-- The record of a complete window of entry `e` (R178, R180). -/
def harmonicWindow (s : State) (e : Nat) : State :=
  match findK s.phx.hdone e with
  | none => s
  | some w =>
    let c := getBits (hlWord s e) 0 13
    let sets := (setsIn s (w.first : Int) ((w.first + w.len - 1 : Nat) : Int)).reverse
    let vs := sets.map fun a => chOf a c
    let miss : Bool := sets.length != w.len || vs.any fun v => badSample v
    let fl := ofBit (!miss) 0 + ofBit miss 1 + (vs.foldl (fun a v => Nat.lor a (getBits v.flags.toNat 4 6)) 0) * 4 +
      ofBit (classOf s c) 8 + ofBit w.nosync 11
    let vals := if miss then List.replicate 64 ((0 : Int), (0 : Int), 0, 0) else harmonics s (vs.map fun v => v.value)
    let lab := match sets with
      | a :: _ => a.label.bytes
      | [] => Config.freeLabel w.first
    let s := { s with phx := { s.phx with
      hdone := delK s.phx.hdone e
      hres := putK s.phx.hres e { vals := vals, flags := BitVec.ofNat 16 fl, first := w.first, len := w.len } } }
    let s := cnt s .phx 0 0x308
    let s := if miss then cnt s .phx 0 0x30C else s
    forEach (List.range 64) s fun s i =>
      let cfg := regB s .phx 0 0x120 i
      let r := ringOf s.phx.hring i
      let f := getBits cfg 8 8
      if !bit cfg 0 || r.fault || e < f || f + getBits cfg 16 9 ≤ e then s
      else if !ringOpen s i then ringGated s i
      else
        let base := regB s .phx 0 0x118 i + regB s .phx 0 0x11C i * 2 ^ 32
        let (t, r') := ringWrite s .phx i base (getBits cfg 1 4) 1152 1088 60 r (hrmEntry e c lab w (nCyc s) fl vals)
        let t := { t with phx := { t.phx with hring := putK t.phx.hring i r' } }
        if r'.fault then ringFault t i .phx 0x304 3 else t

/-! ### Publisher (R181 to R186) -/

/-- Bytes of a table held in registers, `n` from offset `o`. -/
def regBytes (s : State) (b : Blk) (o n : Nat) : List Byte :=
  let w0 := o / 4
  (((List.range ((o % 4 + n + 3) / 4)).map fun i => le 4 (reg s b 0 (4 * (w0 + i)))).flatten.drop (o % 4)).take n

/-- CRC-CCITT of IEEE C37.118.2: polynomial 0x1021, start 0xFFFF. -/
def crcCcitt (bs : List Byte) : Nat :=
  bs.foldl (fun c b =>
    (List.range 8).foldl (fun c i =>
      let top : Bool := bit c 15 != bit b.toNat (7 - i)
      let d := c * 2 % 65536
      if top then Nat.xor d 0x1021 else d) c) 0xFFFF

def pubEntry (s : State) (st k lsb n : Nat) : Nat := getBits (reg s .phx 0 (0x2000 + 32 * st + 4 * k)) lsb n

def pubImage (s : State) (st : Nat) : List Byte := regBytes s .phx (0x10000 + pubEntry s st 0 16 16) (pubEntry s st 1 0 16)

/-- One PMU block of a CFG-2 image. -/
structure PmuBlk where
  format : Nat
  phnmr : Nat
  annmr : Nat
  dgnmr : Nat
  units : List Nat
  fnom : Nat

/-- The PMU blocks of an image and where they end. -/
def pmuBlocks : (n : Nat) → List Byte → (o : Nat) → List PmuBlk × Nat
  | 0, _, o => ([], o)
  | n + 1, bs, o =>
    let g (k w : Nat) : Nat := ofBe (slice bs (o + k) w)
    let ph := g 20 2
    let an := g 22 2
    let dg := g 24 2
    let u := 26 + 16 * (ph + an + 16 * dg)
    let b : PmuBlk := { format := g 18 2, phnmr := ph, annmr := an, dgnmr := dg,
                        units := (List.range ph).map fun i => g (u + 4 * i) 4, fnom := g (u + 4 * (ph + an + dg)) 2 }
    let (r, e) := pmuBlocks n bs (o + u + 4 * (ph + an + dg) + 4)
    (b :: r, e)

def legalRates : List Nat :=
  [10, 12, 15, 16, 18, 20, 24, 25, 30, 32, 36, 40, 45, 48, 50, 60, 64, 72, 75, 80, 90, 96, 100, 120, 144, 150, 160, 180,
   192, 200, 225, 240]

/-- What the publisher reads of a stream's image. -/
structure PubCfg where
  idcode : Nat
  timeBase : Nat
  numPmu : Nat
  blocks : List PmuBlk
  rate : Nat

def imageCfg (bs : List Byte) : PubCfg :=
  let n := ofBe (slice bs 18 2)
  let (b, e) := pmuBlocks (min n 4) bs 20
  { idcode := ofBe (slice bs 4 2), timeBase := ofBe (slice bs 14 4) % 2 ^ 24, numPmu := n, blocks := b,
    rate := ofBe (slice bs e 2) }

def pubCfg (s : State) (st : Nat) : PubCfg := imageCfg (pubImage s st)

def slotWord (s : State) (n : Nat) : Nat := reg s .phx 0 (0x4000 + 8 * n)

/-- The tables of a stream as they stand (R182). -/
def pubView (s : State) (st : Nat) : PubView :=
  let img := pubImage s st
  let c := imageCfg img
  let blks := (List.range (min c.numPmu 4)).map fun i => reg s .phx 0 (0x2800 + 8 * (pubEntry s st 1 16 8 + i))
  { entry := (List.range 8).map fun k => reg s .phx 0 (0x2000 + 32 * st + 4 * k), blks := blks,
    slots := (List.zipWith (fun (w : Nat) (b : PmuBlk) => (List.range b.phnmr).map fun j =>
      let n := getBits w 16 16 + j
      (n, slotWord s n, reg s .phx 0 (0x4000 + 8 * n + 4))) blks c.blocks).flatten,
    image := img }

def PubView.field (v : PubView) (k lsb n : Nat) : Nat := getBits (v.entry.getD k 0) lsb n

/-- A field of PMU block `i`. -/
def PubView.pmu (v : PubView) (i lsb n : Nat) : Nat := getBits (v.blks.getD i 0) lsb n

/-- Source and SCALE of a slot. -/
def PubView.slot (v : PubView) (n : Nat) : Nat × Nat := (findK v.slots n).getD (0, 0)

/-- The slots of PMU block `i`. -/
def slotsOf (v : PubView) (i ph : Nat) : List Nat := (List.range ph).map fun j => v.pmu i 16 16 + j

/-- The class of a source: channel or group. -/
def srcClass (s : State) (grp : Bool) (n : Nat) : Bool :=
  if grp then (match findK s.phx.grp n with
    | some w => grpClass s w
    | none => false)
  else classOf s n

/-- The classes of all sources of a stream. -/
def pubClasses (s : State) (v : PubView) : List Bool :=
  ((imageCfg v.image).blocks.mapIdx fun i b =>
    srcClass s (v.pmu i 13 1 == 1) (v.pmu i 0 13) ::
      ((slotsOf v i b.phnmr).map fun n =>
        let w := (v.slot n).1
        srcClass s (getBits w 14 2 != 0) (getBits w 0 13))).flatten

/-- The first failed check of a stream, 0 for none (R182). -/
def pubReason (s : State) (st : Nat) : Nat :=
  let v := pubView s st
  let bs := v.image
  let n := bs.length
  let c := imageCfg bs
  if ofBe (slice bs 0 2) ≠ 0xAA32 || ofBe (slice bs 2 2) ≠ n || n < 24 || crcCcitt (bs.take (n - 2)) ≠ ofBe (bs.drop (n - 2)) then 1
  else if c.numPmu = 0 || 4 < c.numPmu then 2
  else if c.blocks.any fun b => decide (16 < b.phnmr) || b.annmr != 0 || decide (2 < b.dgnmr) then 3
  else if c.blocks.any fun b => (b.fnom % 2 == 1) != (fld s .phx 0x40 0 1 == 0) then 4
  else if !legalRates.contains c.rate || c.timeBase = 0 then 5
  else if 256 < v.field 1 16 8 + c.numPmu ||
      (c.blocks.mapIdx fun i b => decide (4096 < v.pmu i 16 16 + b.phnmr)).any fun b => b then 6
  else
    let cs := pubClasses s v
    if cs.any (fun m => m) && cs.any (fun m => !m) then 7 else 0

def pubOf (s : State) (st : Nat) : Pub := (findK s.phx.pub st).getD ⟨0, 0, none, []⟩
def setPub (s : State) (st : Nat) (p : Pub) : State := { s with phx := { s.phx with pub := putK s.phx.pub st p } }

/-- The reporting grains from the next one on are sent, or not, under the tables as they stand (R186, R187). -/
def pubSnap (s : State) (st : Nat) (on : Bool) : State :=
  let p := pubOf s st
  let n := s.tim.grains + 1
  let kept := p.snaps.filter fun e => e.1 != n
  let live := kept.takeWhile fun e => decide (s.phx.setK < e.1 + 2048)
  setPub s st { p with snaps := (n, on, pubView s st) :: (live ++ (kept.drop live.length).take 1) }

/-- A UDP datagram of a stream handed to the switch at internal port 64, with both checksums (R181, R183). -/
def pubSendBytes (s : State) (st : Nat) (v : PubView) (bs : List Byte) : State :=
  let w6 := v.field 6 16 16
  let tagged := bit w6 15
  let swap (x : Nat) : Nat := ofBe (le 4 x)
  let u : UdpPdu :=
    { srcIp := BitVec.ofNat 32 (swap (v.field 3 0 32)), dstIp := BitVec.ofNat 32 (swap (v.field 2 0 32)),
      srcPort := BitVec.ofNat 16 (v.field 4 16 16), dstPort := BitVec.ofNat 16 (v.field 4 0 16),
      ttl := Config.freeTtl 8, tos := Config.freeTos 8, ident := Config.freeIdent s.tim.grains, df := Config.freeDf 8,
      ipSum := 0, udpSum := 0, payload := bs }
  let f : Frame :=
    { dst := macOf (v.field 5 0 32) (v.field 6 0 16), src := Config.freeSrcMac 8,
      vlan := if tagged then some (BitVec.ofNat 12 w6, BitVec.ofNat 3 (getBits w6 12 3)) else none,
      etype := 0x0800, red := .plain, len := frameLen tagged (28 + bs.length), pdu := .udp (withSums u) }
  let s := cntB s .phx 0x208 st
  sendOwn s 64 f (Config.freeQueue 8).val

/-- Is an instant of the elapsed time less than `n` seconds ago? -/
def within (s : State) (t n : Nat) : Bool := decide (mono s < t + n * secU)

/-- The time quality byte of FRACSEC (R183). -/
def fracQuality (s : State) (q : Nat) : Nat :=
  let l61 := flag s .tim 0x54 16
  let l59 := flag s .tim 0x54 17
  let chg := match s.tim.utcChanged with
    | some t => within s t 86400
    | none => false
  ofBit l59 6 + ofBit chg 5 + ofBit (l61 || l59) 4 + (if q = 0 then 0 else if q = 1 then fld s .phx 0x60 0 4 else 15)

/-- FRACSEC of a fraction num / den of a second. -/
def fracOf (tb num den : Nat) : Nat := min ((2 * num * tb + den) / (2 * den)) (tb - 1)

/-- The CFG-2 image sent, framed as CFG-2 or CFG-1, with the current time and its CHK (R186). -/
def sendCfg (s : State) (st sync : Nat) : State :=
  let bs := pubImage s st
  let tb := (pubCfg s st).timeBase
  let t := nowStamp s
  let soc := t.sec - fld s .tim 0x54 0 16
  let fr := fracOf tb (t.ns * 65536 + t.frac) secU16 + fracQuality s s.tim.quality * 2 ^ 24
  let body := be 2 sync ++ slice bs 2 4 ++ be 4 soc ++ be 4 fr ++ (bs.take (bs.length - 2)).drop 14
  pubSendBytes s st (pubView s st) (body ++ be 2 (crcCcitt body))

/-- A stream is checked (R182) after a change of its entry, blocks, slots or image. -/
def pubCheck (s : State) (st : Nat) : State :=
  let p := { pubOf s st with changed := some (mono s) }
  if pubEntry s st 0 0 1 = 0 then pubSnap (setPub s st { p with state := 0, reason := 0 }) st false
  else
    let r := pubReason s st
    if r = 0 then
      let v := if p.state = 3 || p.state = 0 then 1 else p.state
      pubSnap (setPub s st { p with state := v, reason := 0 }) st (v == 1)
    else
      let s' := pubSnap (setPub s st { p with state := 3, reason := r }) st false
      if p.state = 3 then s' else evt (irq s' .phx 4) 0x0912 1 st r 0

/-- EN of a stream written to 1: it becomes ON and sends its CFG-2 image (R186). -/
def pubEnable (s : State) (st : Nat) : State :=
  let p := pubOf s st
  if p.state = 3 then s else sendCfg (pubSnap (setPub s st { p with state := 1 }) st true) st 0xAA32

/-- binary32 of num / den, to nearest, ties away from zero (R185). -/
def f32OfRat (num : Int) (den : Nat) : Nat :=
  let a := num.natAbs
  if a = 0 then 0
  else
    let sg := if num < 0 then 2 ^ 31 else 0
    let e0 : Int := (Nat.log2 a : Int) - Nat.log2 den
    -- scale so that the quotient has 24 bits or just below
    let e := if e0 ≥ 0 then (if a ≥ den * 2 ^ e0.toNat then e0 else e0 - 1)
             else (if a * 2 ^ (-e0).toNat ≥ den then e0 else e0 - 1)
    let e := max e (-126)
    let sh : Int := 23 - e
    let m := if sh ≥ 0 then roundAway ((a * 2 ^ sh.toNat : Nat) : Int) den else roundAway (a : Int) (den * 2 ^ (-sh).toNat)
    let m := m.toNat
    let code := ((e + 126).toNat) * 2 ^ 23 + m
    sg + min code 0x7F800000

/-- The rational that a binary32 word stands for, none for NaN and infinity. -/
def ratOfF32 (w : Nat) : Option (Int × Nat) :=
  let e := getBits w 23 8
  let m := getBits w 0 23
  if e = 255 then none
  else
    let (m, e) : Nat × Nat := if e = 0 then (m, 1) else (m + 2 ^ 23, e)
    let m : Int := if bit w 31 then -(m : Int) else (m : Int)
    some (if e ≥ 150 then (m * 2 ^ (e - 150), 1) else (m, 2 ^ (150 - e)))

/-- A phasor value of a slot: parts, or none when MISSING. -/
def slotValue (s : State) (w : Nat) (r : Int) : Option (Int × Int) × Nat :=
  let n := getBits w 0 13
  let kind := getBits w 14 2
  if kind = 0 then
    let o := phOut s n r
    (if bit o.fl 1 then none else some (o.re, o.im), o.fl)
  else
    match findK s.phx.grp n with
    | none => (none, 2)
    | some e =>
      let o := grpOut s n e r
      let x := if kind = 1 then o.x1 else if kind = 2 then o.x2 else o.x0
      (if o.ok && grpEn e then some (toCount x.re, toCount x.im) else none, o.fl)

/-- The angle of a phasor in 10^-4 rad, in (-31,416, 31,416] (R185). -/
def angleBytes (ang : Int) : List Byte :=
  let a := roundAway (ang * 10000) fx
  be 2 (ofSigned 16 (if a ≤ -31416 then 31416 else a))

/-- A phasor in the format of its block (R185). -/
def phasorBytes (format unit scale : Nat) (v : Option (Int × Int)) : List Byte :=
  let polar := bit format 0
  let float := bit format 1
  match v with
  | none => if float then be 4 0x7FC00000 ++ be 4 0x7FC00000 else be 2 0x8000 ++ be 2 0x8000
  | some (re, im) =>
    let ang := atan2Fx (im * (fx : Int)) (re * (fx : Int))
    let u := unit % 2 ^ 24
    match ratOfF32 scale with
    | none =>
      let k := if float then 4 else 2
      if polar then be k (Config.freePmu 0 scale re) ++ (if float then be 4 (f32OfRat ang fx) else angleBytes ang)
      else be k (Config.freePmu 0 scale re) ++ be k (Config.freePmu 1 scale im)
    | some (sn, sd) =>
      let m2 := (re * re + im * im).toNat
      if float then
        if polar then
          let mag : Int := ((Nat.sqrt (m2 * fx * fx) : Nat) : Int)
          be 4 (f32OfRat (mag * sn) (fx * sd)) ++ be 4 (f32OfRat ang fx)
        else be 4 (f32OfRat (re * sn) sd) ++ be 4 (f32OfRat (im * sn) sd)
      else if u = 0 then
        if polar then be 2 (Config.freePmu 2 scale re) ++ angleBytes ang
        else be 2 (Config.freePmu 2 scale re) ++ be 2 (Config.freePmu 3 scale im)
      else if polar then
        let a := sn.natAbs * 100000
        let b := sd * u
        let mag := (Nat.sqrt (4 * m2 * a * a / (b * b)) + 1) / 2
        be 2 (if sn < 0 then 0 else min mag 65535) ++ angleBytes ang
      else
        let q (x : Int) : List Byte := be 2 (ofSigned 16 (clampInt (roundAway (x * sn * 100000) (sd * u)) (-32767) 32767))
        q re ++ q im

/-- FREQ and DFREQ (R185). -/
def freqBytes (s : State) (format : Nat) (v : Option (Int × Int)) : List Byte :=
  if bit format 3 then
    match v with
    | none => be 4 0x7FC00000 ++ be 4 0x7FC00000
    | some (df, ro) => be 4 (f32OfRat (((f0Hz s * 1000000 : Nat) : Int) + df) 1000000) ++ be 4 (f32OfRat ro 1000000)
  else
    match v with
    | none => be 2 0x8000 ++ be 2 0x8000
    | some (df, ro) => be 2 (ofSigned 16 (clampInt (roundAway df 1000) (-32767) 32767)) ++
        be 2 (ofSigned 16 (clampInt (roundAway ro 10000) (-32767) 32767))

/-- The STAT word of a block (R184): `fs` are the flags of its slots and of its frequency source. -/
def statWord (s : State) (st q : Nat) (fs : List Nat) (ff : Nat) : Nat :=
  let test := (ff :: fs).any fun f => bit f 5
  let loc := fs.any fun f => bit f 2
  let settle := fs.any fun f => bit f 7
  let chg := match (pubOf s st).changed with
    | some t => within s t 60
    | none => false
  let young (n : Nat) : Bool := match s.tim.quality0Left with
    | some t => within s t n
    | none => false
  ofBit test 15 + ofBit (decide (2 ≤ q) || loc) 13 + ofBit chg 10 + ofBit settle 9 +
    (if q = 0 then 1 else if q = 1 then 2 else 7) * 64 +
    (if q = 0 || young 10 then 0 else if young 100 then 1 else if young 1000 then 2 else 3) * 16

/-- The data frame of reporting grain `l` under the tables `v` (R183 to R185). -/
def dataFrame (s : State) (st : Nat) (v : PubView) (l : Label) (bi : BitVec 32) : List Byte :=
  let r : Int := l.n
  let c := imageCfg v.image
  let blocks := (c.blocks.mapIdx fun i b =>
    let slots := slotsOf v i b.phnmr
    let vals := slots.map fun n => slotValue s (v.slot n).1 r
    let fsrc := v.pmu i 0 13
    let (fv, ff) : Option (Int × Int) × Nat :=
      if v.pmu i 13 1 = 1 then
        match findK s.phx.grp fsrc with
        | some w => let o := grpOut s fsrc w r; (if bit o.fl 9 || !grpEn w then none else some (o.df, o.ro), o.fl)
        | none => (none, 2)
      else let o := phOut s fsrc r; (if bit o.fl 9 && (chFreq s fsrc r).isNone then none else some (o.df, o.ro), o.fl)
    be 2 (statWord s st l.quality (vals.map fun x => x.2) ff) ++
      (List.zipWith (fun n (x : Nat × Option (Int × Int)) =>
        phasorBytes b.format x.1 (v.slot n).2 x.2) slots
        (List.zipWith (fun u (x : Option (Int × Int) × Nat) => (u, x.1)) b.units vals)).flatten ++
      freqBytes s b.format fv ++
      ((List.range b.dgnmr).map fun d => be 2 (bi.toNat / 2 ^ (16 * d))).flatten).flatten
  let soc := l.sec - fld s .tim 0x54 0 16
  let fr := fracOf c.timeBase l.k 14400 + fracQuality s l.quality * 2 ^ 24
  let n := 14 + blocks.length + 2
  let body := be 2 0xAA02 ++ be 2 n ++ be 2 c.idcode ++ be 4 soc ++ be 4 fr ++ blocks
  body ++ be 2 (crcCcitt body)

/-- The reporting grain whose frame stream `st` sends with the phasor set of `a`: set r + LAT, by the numbers of the grains, of the
class of the stream's sources; a step may leave that set out (R183). -/
def pubDue (s : State) (st : Nat) (a : ASet) : Option (ASet × PubView) :=
  [false, true].findSome? fun m =>
    match s.phx.hist.find? fun b => b.label.n + phLat s m == a.label.n with
    | none => none
    | some b =>
      match (pubOf s st).snaps.find? fun e => decide (e.1 ≤ b.label.n) with
      | some (_, true, v) =>
        let c := imageCfg v.image
        if ((pubClasses s v).head?).getD false == m && c.rate ≠ 0 && b.label.k % (14400 / c.rate) == 0 &&
            a.label.sec * 14400 + a.label.k == b.label.sec * 14400 + b.label.k + phLat s m then some (b, v) else none
      | _ => none

/-- The data frames due with the phasor set of `a` (R183). -/
def pubStep (s : State) (a : ASet) : State :=
  forEach (List.range 64) s fun s st =>
    if (pubOf s st).state = 3 then s
    else
      match pubDue s st a with
      | none => s
      | some (b, v) => pubSendBytes s st v (dataFrame s st v b.label b.bi)

/-- An accepted command of a stream (R186). -/
def pubCommand (s : State) (st cmd : Nat) : State :=
  let p := pubOf s st
  let s := irq (cntB s .phx 0x20C st) .phx 5
  if cmd = 1 then (if p.state = 1 then pubSnap (setPub s st { p with state := 2 }) st false else s)
  else if cmd = 2 then (if p.state = 2 then pubSnap (setPub s st { p with state := 1 }) st true else s)
  else if p.state = 3 || p.state = 0 then s
  else sendCfg s st (if cmd = 4 then 0xAA22 else 0xAA32)

/-- Is a command frame's datagram addressed to a stream? -/
def pubSocket (s : State) (u : UdpPdu) (st : Nat) : Bool :=
  pubEntry s st 0 0 1 == 1 && ofBe (le 4 (pubEntry s st 3 0 32)) == u.dstIp.toNat && pubEntry s st 4 16 16 == u.dstPort.toNat

/-- Does the frame pass every check of a stream (R186)? -/
def pubAccepts (s : State) (bs : List Byte) (st : Nat) : Bool :=
  let n := bs.length
  decide (18 ≤ n) && crcCcitt (bs.take (n - 2)) == ofBe (bs.drop (n - 2)) && ofBe (slice bs 0 2) / 16 == 0xAA4 &&
    ofBe (slice bs 4 2) == (pubCfg s st).idcode && pubEntry s st 0 1 1 == 1

/-- A command frame at internal port 64, received at port `p` and sent there by a classification entry (R186). Of the streams with the
socket it is for the first whose checks it passes; where it passes none it is counted at the first. -/
def pmuCommandFrame (s : State) (p : Nat) (f : Frame) : State :=
  if !enabled s .phx || isDown s .phasor || !classified s p f 0 then s
  else
    match f.pdu with
    | .udp u =>
      let bs := u.payload
      let cmd := ofBe (slice bs 14 2)
      match (List.range 64).filter fun st => pubSocket s u st with
      | [] => s
      | st :: rest =>
        match (st :: rest).find? fun x => pubAccepts s bs x with
        | some x => if cmd == 1 || cmd == 2 || cmd == 4 || cmd == 5 then pubCommand s x cmd else cntB s .phx 0x210 x
        | none => cntB s .phx 0x210 st
    | _ => s

/-- A command as its own step: acted on where the stream takes commands. -/
def pubOwn (s : State) (st cmd : Nat) : State :=
  if !enabled s .phx || isDown s .phasor || pubEntry s st 0 0 1 = 0 || pubEntry s st 0 1 1 = 0 then s
  else pubCommand s st cmd

/-- A top of second that is a multiple of CFG_PERIOD (R186). -/
def cfg2Periodic (s : State) (st : Nat) : State :=
  let p := (pubOf s st).state
  if isDown s .phasor || p = 0 || p = 3 || pubEntry s st 1 24 8 = 0 then s else sendCfg s st 0xAA32

/-! ### A phasor set (R166) -/

/-- Groups, harmonic windows, slice rings and publisher for the next released set. -/
def phasorSet (s : State) (a : ASet) : State :=
  let n := a.label.n
  let s := { s with phx := { s.phx with setK := n } }
  let s := cnt s .phx 0 0x300
  let s := forEach (s.phx.grp.filter fun e => grpEn e.2) s fun s e =>
    grpStep s e.1 e.2 ((n : Int) - phLat s (grpClass s e.2))
  let s := hwinStep s n a.label.step
  let s := forEach (List.range 64) s fun s i => phToSlice s i a
  pubStep s a

/-! ### Writes -/

/-- Does stream `st` use the word at offset `o` of the tables or the configuration memory? -/
def pubUses (s : State) (st o : Nat) : Bool :=
  let v := pubView s st
  let within (lo n : Nat) : Bool := decide (lo ≤ o) && decide (o < lo + n)
  within (0x2000 + 32 * st) 32 || within (0x2800 + 8 * v.field 1 16 8) (8 * v.blks.length) ||
    within ((0x10000 + v.field 0 16 16) / 4 * 4) (v.field 1 0 16 + v.field 0 16 16 % 4) ||
    v.slots.any fun e => within (0x4000 + 8 * e.1) 8

/-- A register of PHX was written (R179, R182, R186); `mask` are the bits written. -/
def phxWritten (s : State) (o old mask : Nat) : State :=
  let new := reg s .phx 0 o
  if o = 0x40 then
    if bit old 0 != bit new 0 then { s with phx := { s.phx with regen := true } } else s
  else if o = 0x44 then (if old ≠ new then { s with phx := { s.phx with regen := true } } else s)
  else if o = 0x5C then
    (if !bit new 0 then { s with phx := { s.phx with hwin := [], hdone := [] } }
     else if bit old 0 then s
     else { s with phx := { s.phx with hwin := [], hnext := [], hfrom := s.tim.grains + 1 } })
  else if o = 0x1C4 then
    let e := fld s .phx 0x1C0 0 8
    irq { s with phx := { s.phx with
      hwin := delK s.phx.hwin e, hdone := delK s.phx.hdone e, hnext := putK s.phx.hnext e (s.tim.grains + 1) } } .phx 6
  else if o = 0x10C then
    (if bit new 0 && bit mask 0 then
      { s with phx := { s.phx with ring := putK s.phx.ring (fld s .phx 0x100 0 6) ⟨0, false⟩ } } else s)
  else if o = 0x120 then
    (if bit new 0 && bit mask 0 then
      { s with phx := { s.phx with hring := putK s.phx.hring (fld s .phx 0x100 0 6) ⟨0, false⟩ } } else s)
  else if 0x1000 ≤ o ∧ o < 0x1204 then
    let w := (o - 0x1000) / 4
    let ch := (bitsOf (Nat.xor old new) 32).map fun i => 32 * w + i
    if ch = [] then s
    else
      let n := s.phx.setK + 1
      let s := { s with phx := { s.phx with chSince := ch.foldl (fun m c => putK m c n) s.phx.chSince } }
      irq s .phx 6
  else if 0x2000 ≤ o then
    forEach (List.range 64) s fun s st =>
      let own := o == 0x2000 + 32 * st
      if !pubUses s st o then s
      else
        let s := if old = new then s else pubCheck s st
        if own && bit mask 0 && bit new 0 then pubEnable s st else s
  else s

/-- The words computed for a read: PHX_REFDLY, PHX_RESTART, PHX_SLC_STAT, PHX_GRP_STAT, PHX_PUB_STAT (R187). -/
def phxRead (s : State) (o : Nat) : Option Nat :=
  if o = 0x80 then some (phLat s false + phLat s true * 2 ^ 16)
  else if o = 0x84 then some (min (restartLeft s) 2047)
  else if o = 0x124 then
    let i := fld s .phx 0x100 0 6
    some (ofBit (ringOf s.phx.ring i).fault 0 + ofBit (ringOf s.phx.hring i).fault 1)
  else if o = 0x194 then
    let t := (findK s.phx.grpStat (fld s .phx 0x180 0 10)).getD ⟨false, false, false, 0, 0, none, 0⟩
    some (ofBit s.phx.grpBusy 0 + ofBit t.reverse 1 + ofBit t.neutral 2 + ofBit t.classMix 3)
  else if o = 0x204 then
    let p := pubOf s (fld s .phx 0x200 0 6)
    some (p.state + p.reason * 16)
  else none

/-! ### Rows -/

def execCoefRegenerate (s : State) : Host.Outcome State Fault Refusal :=
  runOn (fun s => if isDown s .phasor then s else coefRegenerate s) s

def execCfg2Periodic (st : Fin 64) (s : State) : Host.Outcome State Fault Refusal :=
  runOn (fun s => cfg2Periodic s st.val) s

def execPmuCommandFrame (p : Fin 64) (f : Frame) (s : State) : Host.Outcome State Fault Refusal :=
  runOn (fun s => pmuCommandFrame s p.val f) s

def execDataOff (st : Fin 64) (s : State) : Host.Outcome State Fault Refusal := runOn (fun s => pubOwn s st.val 1) s

def execDataOn (st : Fin 64) (s : State) : Host.Outcome State Fault Refusal := runOn (fun s => pubOwn s st.val 2) s

def execSendCfg1 (st : Fin 64) (s : State) : Host.Outcome State Fault Refusal := runOn (fun s => pubOwn s st.val 4) s

def execSendCfg2 (st : Fin 64) (s : State) : Host.Outcome State Fault Refusal := runOn (fun s => pubOwn s st.val 5) s

end Sys2Proof.Machine
end

