-- ==== Sys2Proof/Machine/Energy.lean ====
section
/-!
DEFINITION. The energy and quality unit (R188 to R202): binary64 power on each grain, accumulators, snapshots, saves and
their loading, harmonic power, voltage events and quality intervals.
-/

namespace Sys2Proof.Machine

/-! ### binary64 (assumption 16) -/

/-- A binary64 number: mantissa and exponent of 2. -/
abbrev Dy := Int × Int

/-- Rounding to 53 bits, ties to even. -/
def rnd53 (m e : Int) : Dy :=
  if m = 0 then (0, 0)
  else
    let bits : Int := (Nat.log2 m.natAbs : Int) + 1
    let sh := max (bits - 53) (-1074 - e)
    if sh ≤ 0 then (m, e) else (roundEven m (2 ^ sh.toNat), e + sh)

def dyOf (v : Int) : Dy := rnd53 v 0

def dyMul (a b : Dy) : Dy := rnd53 (a.1 * b.1) (a.2 + b.2)

def dyAdd (a b : Dy) : Dy :=
  let e := min a.2 b.2
  rnd53 (a.1 * 2 ^ (a.2 - e).toNat + b.1 * 2 ^ (b.2 - e).toNat) e

def dyNeg (a : Dy) : Dy := (-a.1, a.2)

def dySqrt (a : Dy) : Dy :=
  if a.1 ≤ 0 then (0, 0)
  else
    let k := 2 * (60 + Nat.log2 a.1.natAbs) + (if a.2 % 2 = 0 then 0 else 1)
    let m := a.1.natAbs * 2 ^ k
    let r := Nat.sqrt m
    rnd53 (2 * (r : Int) + (if r * r = m then 0 else 1)) ((a.2 - k) / 2 - 1)

/-- A binary32 word that is finite. -/
def dyOfF32 (w : Nat) : Dy :=
  let e := getBits w 23 8
  let m := getBits w 0 23
  let (m, e) : Nat × Nat := if e = 0 then (m, 1) else (m + 2 ^ 23, e)
  (if bit w 31 then -(m : Int) else (m : Int), (e : Int) - 150)

/-- round(x / 51,840 × 2^32), ties away from zero (R190). -/
def increment (x : Dy) : Int :=
  let e := x.2 + 32
  if e ≥ 0 then roundAway (x.1 * 2 ^ e.toNat) 51840 else roundAway x.1 (51840 * 2 ^ (-e).toNat)

/-! ### Meters -/

def mtO (m o : Nat) : Nat := 0x400 + m * 0x40 + o
def mtF (s : State) (m o lsb w : Nat) : Nat := fldI s .nrg 0 (mtO m o) lsb w

def Meter.new : Meter :=
  { acc := List.replicate 10 0, miss := 0, fault := 0, last := none, hrmGap := false, unsaved := 0,
    evt := ⟨none, none, none⟩, unb := [], fSlot := 0, fSum := (0, 0), fDone := [], fTen := [], fLast := none, waiting := [],
    seen := false, basic := [], agg10m := [], agg2h := [] }

def mtOf (s : State) (m : Nat) : Meter := (findK s.nrg.meters m).getD Meter.new
def setMt (s : State) (m : Nat) (x : Meter) : State := { s with nrg := { s.nrg with meters := putK s.nrg.meters m x } }

/-- The unit is present and enabled (R2, R3). -/
def nrgOn (s : State) : Bool := s.fuse.variant != .s && enabled s .nrg && isUp s .phasor

def mtOn (s : State) (m : Nat) : Bool := nrgOn s && mtF s m 0 0 1 == 1

def grpOfM (s : State) (g : Nat) : List Word := (findK s.phx.grp g).getD (List.replicate 3 0)

/-- The channels of elements a, b, c of a group; ROT plays no part (R188). -/
def grpChans (w : List Word) : List Nat := [gw w 0 0 13, gw w 0 16 13, gw w 1 0 13]

def mtVg (s : State) (m : Nat) : Nat := mtF s m 4 0 10
def mtV (s : State) (m : Nat) : List Nat := grpChans (grpOfM s (mtVg s m))
def mtI (s : State) (m : Nat) : List Nat := grpChans (grpOfM s (mtF s m 4 16 10))

/-- The lowest qualifying harmonic list entry of a channel (R189). -/
def hlEntry (s : State) (c g : Nat) : Option Nat :=
  (List.range 256).find? fun e =>
    let w := hlWord s e
    bit w 31 && getBits w 0 13 == c && getBits w 16 10 == g

/-- The first failed check of a meter, 0 for none (R189). -/
def mtReason (s : State) (m : Nat) : Nat :=
  let six := mtV s m ++ mtI s m
  if !grpEn (grpOfM s (mtVg s m)) || !grpEn (grpOfM s (mtF s m 4 16 10)) then 1
  else if six.any fun c => decide (c < 24) != decide (m < 3) then 2
  else if six.any fun c => classOf s c != classOf s (six.headD 0) then 3
  else if mtF s m 0 2 1 = 1 && six.any fun c => (hlEntry s c (mtVg s m)).isNone then 4
  else if mtF s m 0 3 1 = 1 && (mtV s m).any fun c => (hlEntry s c (mtVg s m)).isNone then 5
  else 0

/-- The check at a write (R189). -/
def mtCheck (s : State) (m : Nat) : State :=
  let x := mtOf s m
  let r := if mtOn s m then mtReason s m else 0
  if r = x.fault then s
  else
    let s' := setMt s m { x with fault := r }
    if r ≠ 0 && x.fault = 0 then evt (irq s' .nrg 2) 0x0A10 1 m r 0 else s'

def mtCheckAll (s : State) : State := forEach (List.range 67) s fun s m => if mtOn s m || (mtOf s m).fault ≠ 0 then mtCheck s m else s

/-! ### Accumulation (R190 to R192) -/

/-- `n` added to accumulator `i`, modulo 2^96. -/
def accAdd (acc : List Nat) (i : Nat) (n : Int) : List Nat := modAt acc i fun a => (((a : Int) + n) % (2 ^ 96 : Nat)).toNat

/-- post(m, p, q, s) of R192. -/
def post (signed : Bool) (acc : List Nat) (p q s : Dy) : List Nat :=
  let ip := increment p
  let iq := increment q
  let is := increment s
  let acc := if p.1 > 0 then accAdd acc 0 ip else if p.1 < 0 then accAdd acc 1 (-ip) else acc
  let acc := if q.1 > 0 then (if p.1 ≥ 0 then accAdd acc 2 iq else accAdd acc 3 iq)
    else if q.1 < 0 then (if p.1 ≥ 0 then accAdd acc 5 (-iq) else accAdd acc 4 (-iq)) else acc
  let acc := accAdd acc 6 (if signed then ip else (ip.natAbs : Int))
  let acc := accAdd acc 7 (if signed then iq else (iq.natAbs : Int))
  if p.1 ≥ 0 then accAdd acc 8 is else accAdd acc 9 is

/-- The latest completed window of a channel, when it is neither MISSING nor NOSYNC (R191). -/
def goodWin (s : State) (c g : Nat) : Option HRes :=
  match (hlEntry s c g).bind fun e => findK s.phx.hres e with
  | some h => if bit h.flags.toNat 1 || bit h.flags.toNat 11 then none else some h
  | none => none

/-- G_0² + Σ G_h², of a window. -/
def sumG (h : HRes) : Nat := h.vals.foldl (fun a v => a + v.2.2.1 * v.2.2.1) 0

/-- ph and sh of a meter (R191); none leaves a gap. -/
def harmPower (s : State) (m : Nat) (kv ki : Dy) : Option (Dy × Dy) :=
  let g := mtVg s m
  let ws := (mtV s m).map fun c => goodWin s c g
  let is := (mtI s m).map fun c => goodWin s c g
  if ws.any (fun w => w.isNone) || is.any (fun w => w.isNone) then none
  else
    let pairs := List.zip (ws.filterMap fun w => w) (is.filterMap fun w => w)
    some (pairs.foldl (fun (acc : Dy × Dy) p =>
      let ph := (List.zip p.1.vals p.2.vals).mapIdx fun h v => (h, v)
      let a := ph.foldl (fun (a : Dy) e =>
        if e.1 = 1 then a
        else
          let v := e.2.1
          let i := e.2.2
          let z := dyAdd (dyMul (dyOf v.1) (dyOf i.1)) (dyMul (dyOf v.2.1) (dyOf i.2.1))
          dyAdd a (dyMul (dyMul z kv) ki)) acc.1
      let rms (h : HRes) : Dy := dySqrt (dyOf (sumG h : Int))
      (a, dyAdd acc.2 (dyMul (dyMul (dyMul (rms p.1) (rms p.2)) kv) ki))) ((0, 0), (0, 0)))

/-- Is one of the six corrected phasors of a meter not VALID at reference grain `r` (R190)? -/
def mtMissing (s : State) (m : Nat) (r : Int) : Bool := (mtV s m ++ mtI s m).any fun c => bit (phOut s c r).fl 1

/-- meter_grain of R190 at reference grain `r`. -/
def meterGrain (s : State) (m : Nat) (r : Int) (l : Option Label) : State :=
  let x := mtOf s m
  let vs := (mtV s m).map fun c => phOut s c r
  let is := (mtI s m).map fun c => phOut s c r
  if mtMissing s m r then setMt s m { x with miss := min (x.miss + 1) 0xFFFFFFFF }
  else
    let kv := dyOfF32 (reg s .nrg 0 (mtO m 8))
    let ki := dyOfF32 (reg s .nrg 0 (mtO m 0xC))
    let sc (z : Dy) : Dy := dyMul (dyMul z kv) ki
    let mag (o : PhOut) : Dy := dySqrt (dyAdd (dyMul (dyOf o.re) (dyOf o.re)) (dyMul (dyOf o.im) (dyOf o.im)))
    let (p, q, a) := (List.zip vs is).foldl (fun (acc : Dy × Dy × Dy) e =>
      let v := e.1
      let i := e.2
      let re := dyAdd (dyMul (dyOf v.re) (dyOf i.re)) (dyMul (dyOf v.im) (dyOf i.im))
      let im := dyAdd (dyMul (dyOf v.im) (dyOf i.re)) (dyNeg (dyMul (dyOf v.re) (dyOf i.im)))
      (dyAdd acc.1 (sc re), dyAdd acc.2.1 (sc im), dyAdd acc.2.2 (sc (dyMul (mag v) (mag i)))))
      (((0, 0), (0, 0), (0, 0)) : Dy × Dy × Dy)
    let hm := mtF s m 0 2 1 = 1
    let h := if hm then harmPower s m kv ki else none
    let (p, a) : Dy × Dy := match h with
      | some (ph, sh) => (dyAdd p ph, sh)
      | none => (p, a)
    setMt s m { x with acc := post (mtF s m 0 1 1 == 1) x.acc p q a, last := l, hrmGap := hm && h.isNone }

def meanOf (l : List Int) : Option Int :=
  if l.isEmpty then none else some (roundAway (l.foldl (fun a b => a + b) 0) l.length)

/-- dfreq of a reference grain enters its 10 s of the UTC clock (R200). -/
def freqGrain (s : State) (x : Meter) (l : Option Label) (df : Option Int) : Meter :=
  match l with
  | none => x
  | some l =>
    let slot := (l.sec - fld s .tim 0x54 0 16) / 10
    let x := if slot = x.fSlot then x else
      match x.fSum with
      | (f, k) =>
        let d : List Int := if k = 0 then [] else [roundAway f k]
        { x with fSlot := slot, fSum := (0, 0), fDone := x.fDone ++ d, fTen := x.fTen ++ d,
                 fLast := if k = 0 then x.fLast else d.head? }
    match df with
    | some d => { x with fSum := (x.fSum.1 + d, x.fSum.2 + 1) }
    | none => x

/-- A basic interval whose reference grains have all passed gets the means of u2 and u0 over them (R200). -/
def basicDone (m : Nat) (x : Meter) (w : Nat × Nat × QInt) : QInt :=
  let us := x.unb.filter fun u => decide (w.1 ≤ u.1) && decide (u.1 < w.1 + w.2.1)
  let mean (k : Nat) (f : Nat × Nat × Nat → Nat) : Nat :=
    if us.isEmpty then Config.freeQual k m % 2 ^ 32 else (us.foldl (fun a u => a + f u) 0 / us.length + 500000) / 1000000
  { w.2.2 with u2 := mean 1 fun u => u.2.1, u0 := mean 2 fun u => u.2.2 }

/-- The voltage group of a meter at reference grain `r`: unbalance and frequency (R200). -/
def qualGrain (s : State) (m : Nat) (r : Int) (l : Option Label) : State :=
  if mtF s m 0 3 1 = 0 then s
  else
    let g := mtVg s m
    let o := grpOut s g (grpOfM s g) r
    let x := freqGrain s (mtOf s m) l (if bit o.fl 9 then none else some o.df)
    let m1 := Nat.sqrt (sqMag o.x1)
    let x := if o.ok && m1 ≠ 0 then
        { x with unb := ((r.toNat, Nat.sqrt (sqMag o.x2) * 1000000000000 / m1, Nat.sqrt (sqMag o.x0) * 1000000000000 / m1) ::
                          x.unb).take 8192 }
      else x
    let (past, rest) := x.waiting.partition fun w => decide (((w.1 + w.2.1 : Nat) : Int) ≤ r + 1)
    let done := past.map fun w => basicDone m x w
    setMt s m { x with waiting := rest, basic := x.basic ++ done, agg10m := x.agg10m ++ done }

/-- The meters at the phasor set of `a` (R190). -/
def energySet (s : State) (a : ASet) : State :=
  if !nrgOn s then s
  else forEach (List.range 67) s fun s m =>
    if !mtOn s m || (mtOf s m).fault ≠ 0 then s
    else
      let lat := phLat s (classOf s ((mtV s m).headD 0))
      let l := refLabel s a lat
      let r := (a.label.n : Int) - lat
      let t := qualGrain (meterGrain s m r l) m r l
      match l with
      | some l => if !mtMissing s m r then { t with nrg := { t.nrg with lastLabel := some l } } else t
      | none => t

/-! ### Saves (R196 to R198) -/

def labelBytes (l : Option Label) : List Byte :=
  match l with
  | some l => l.bytes
  | none => List.replicate 16 0

/-- An accumulator as stored: VALUE (6), WRAP (2), fraction (4). -/
def accBytes (a : Nat) : List Byte := le 8 (a / 2 ^ 32) ++ le 4 a

def meterBytes (s : State) (m : Nat) : List Byte :=
  let x := mtOf s m
  (x.acc.map accBytes).flatten ++ le 4 x.miss ++ le 4 (mtF s m 0 1 1 + 2 * mtF s m 0 0 1)

def slotAddr (k : Nat) : Nat := 0x50500000 + k * 0x8000

/-- A save with a reason: the slot that does not hold the newest valid image. One that cannot reach the MRAM is abandoned and
counted. -/
def energySave (s : State) (reason : Nat) : State :=
  if s.fuse.variant = .s then s
  else if isDown s .memory then irq (cnt s .nrg 0 0xDC) .nrg 5
  else
    let k := match s.nrg.saveSlot with
      | some k => 1 - k
      | none => 0
    let q := s.nrg.saveSeq + 1
    let recs := ((List.range 67).map fun m => meterBytes s m).flatten
    let head := le 4 0x4752454E ++ le 4 q ++ le 1 reason ++ List.replicate 3 0 ++ le 2 (fld s .nrg 0x40 0 12) ++ le 2 0 ++
      labelBytes s.nrg.lastLabel ++ List.replicate 28 0
    let s := wrBytes s (slotAddr k + 64) recs
    let s := wrBytes s (slotAddr k) (head ++ le 4 (crc32 (head ++ recs)))
    { s with nrg := { s.nrg with saveSeq := q, saveSlot := some k } }

/-- The save sequence of a valid slot. -/
def slotValid (s : State) (k : Nat) : Option Nat :=
  if rdNum s (slotAddr k) 4 ≠ 0x4752454E then none
  else
    let head := rdBytes s (slotAddr k) 60
    let recs := rdBytes s (slotAddr k + 64) 8576
    if crc32 (head ++ recs) = rdNum s (slotAddr k + 60) 4 then some (numAt head 4 4) else none

/-- The loading of the newest valid slot (R198). -/
def energyLoad (s : State) (blank : Bool) : State :=
  if s.fuse.variant = .s then s
  else
    let pick : Option Nat := match slotValid s 0, slotValid s 1 with
      | some a, some b => if b > a then some 1 else some 0
      | some _, none => some 0
      | none, some _ => some 1
      | none, none => none
    match pick with
    | none =>
      let s := { s with nrg := { s.nrg with meters := s.nrg.meters.map fun e =>
        (e.1, { e.2 with acc := List.replicate 10 0, miss := 0 }), storeLost := true, saveSlot := none, saveSeq := 0 } }
      if blank then s else evt s 0x0A12 2 0 0 0
    | some k =>
      let b := slotAddr k
      let reason := rdNum s (b + 8) 1
      let period := rdNum s (b + 12) 2
      let unsaved : Bool := reason == 0 || reason == 4
      let s := { s with nrg := { s.nrg with saveSlot := some k, saveSeq := rdNum s (b + 4) 4, storeLost := false, unsaved := unsaved } }
      let s := forEach (List.range 67) s fun s m =>
        let a := b + 64 + m * 128
        let acc := (List.range 10).map fun i => rdNum s (a + 12 * i) 8 * 2 ^ 32 + rdNum s (a + 12 * i + 8) 4
        let en := bit (rdNum s (a + 124) 4) 1
        let pmax := mtF s m 0x10 0 24
        let un := if unsaved && en then (period * pmax * 10000 + 35) / 36 else 0
        setMt s m { mtOf s m with acc := acc, miss := rdNum s (a + 120) 4, unsaved := un }
      if unsaved then evt (irq s .nrg 1) 0x0A11 2 0 period (rdNum s (b + 16) 8) else s

/-! ### Requests at a grain boundary (R194, R199) -/

/-- The meters of a mask cleared, saved and recorded (R199). -/
def energyClear (s : State) (mask : BitVec 96) : State :=
  let s := forEach (bitsOf mask.toNat 67) s fun s m =>
    setMt s m { mtOf s m with acc := List.replicate 10 0, miss := 0, unsaved := 0 }
  let s := energySave s 4
  evt s 0x0A13 1 0 (getBits mask.toNat 64 3) (mask.toNat % 2 ^ 64)

/-- What a grain boundary does for waiting requests: the clear of NRG_CLEAR and the save of a power-fail warning (R197, R199). -/
def energyBoundary (s : State) : State :=
  if s.fuse.variant = .s ∨ isDown s .phasor then s
  else
    let s := match s.nrg.clearReq with
      | some m => energyClear { s with nrg := { s.nrg with clearReq := none } } m
      | none => s
    match s.nrg.saveReq with
    | some r => energySave { s with nrg := { s.nrg with saveReq := none } } r
    | none => s

/-- The snapshot of the meter requested (R194). -/
def snapshot (s : State) : State :=
  match s.nrg.snapReq with
  | none => s
  | some m =>
    let x := mtOf s m
    let s := forEach (List.range 10) s fun s i => setReg2 s .nrg 0 (0x80 + 8 * i) (x.acc.getD i 0 / 2 ^ 32)
    let s := setReg s .nrg 0 0xD0 x.miss
    let s := match x.last with
      | some l => setReg (setReg (setReg2 s .nrg 0 0x58 l.sec) .nrg 0 0x60 (l.ns + l.quality * 2 ^ 30)) .nrg 0 0x64 l.frac
      | none => setReg (setReg (setReg2 s .nrg 0 0x58 0) .nrg 0 0x60 0) .nrg 0 0x64 0
    irq { s with nrg := { s.nrg with snapReq := none, snapSeq := (s.nrg.snapSeq + 1) % 65536 } } .nrg 6

/-! ### Quality (R200 to R202) -/

/-- The ring of quality records: its base is a physical DRAM address (R202). -/
def qringWrite (s : State) (entry : Nat → List Byte) : State :=
  let cfg := reg s .nrg 0 0x4C
  let r := s.nrg.qring
  if !bit cfg 0 || r.fault then s
  else
    let base := reg2 s .nrg 0 0x44
    let n := getBits cfg 1 4
    let a := base + 64 + r.prod % 2 ^ n * 64
    let q := (r.prod + 1) % 2 ^ 32
    if inDram s base 4 && inDram s a 64 then
      let s := wrNum s (a + 60) 4 0
      let s := wrBytes s a (entry q)
      let s := wrNum (wrNum s (a + 60) 4 q) base 4 q
      { s with nrg := { s.nrg with qring := { r with prod := q } } }
    else evt (irq { s with nrg := { s.nrg with qring := { r with fault := true } } } .nrg 4) 0x0AFF 1 0 0 0

/-- KV of a meter as a fraction. -/
def kvRat (s : State) (m : Nat) : Nat × Nat :=
  match ratOfF32 (reg s .nrg 0 (mtO m 8)) with
  | some (n, d) => (n.natAbs, d)
  | none => (1, 1)

/-- √(num / den) × 1000 × KV, to nearest, in mV. -/
def milliVolts (s : State) (m num den : Nat) : Nat :=
  let (kn, kd) := kvRat s m
  (Nat.sqrt (4 * num * (1000 * kn) ^ 2 / (den * kd * kd)) + 1) / 2

/-- Distortion in 0.01 % (R200). -/
def thdOf (m k : Nat) (h : HRes) : Nat :=
  let g (i : Nat) : Nat := ((h.vals.getD i (0, 0, 0, 0)).2.2.1)
  let sum := ((List.range 39).foldl (fun a i => a + g (i + 2) * g (i + 2)) 0)
  if g 1 = 0 then Config.freeQual k m % 65536
  else min ((Nat.sqrt (4 * sum * 100000000 / (g 1 * g 1)) + 1) / 2) 65535

/-- The mark of a distortion that was not measured. -/
def noThd : Nat := 0x10000

/-- A basic interval ends with the harmonic window of entry `e`, the last of the voltage channels (R200). -/
def qualBasic (s : State) (e : Nat) : State :=
  forEach (List.range 67) s fun s m =>
    if !mtOn s m || (mtOf s m).fault ≠ 0 || mtF s m 0 3 1 = 0 then s
    else
      let g := mtVg s m
      let es := (mtV s m).filterMap fun c => hlEntry s c g
      if es.foldl max 0 ≠ e || !es.contains e then s
      else
        let x := mtOf s m
        let hs := es.filterMap fun k => findK s.phx.hres k
        let bad : Bool := hs.length != 3 || hs.any fun h => bit h.flags.toNat 1
        let first := match hs.head?.bind fun h => s.phx.hist.find? fun a => a.label.n == h.first with
          | some a => a.label
          | none => (s.nrg.lastLabel).getD ⟨0, 0, 0, 3, 0, false⟩
        let nos := hs.any fun h => bit h.flags.toNat 11
        let flg := x.evt.dip.isSome || x.evt.swell.isSome || x.evt.intr.isSome || x.seen
        let thdi := if mtF s m 0 2 1 = 1 then (mtI s m).map fun c =>
            match (hlEntry s c g).bind fun j => findK s.phx.hres j with
            | some h => if bit h.flags.toNat 1 then noThd else thdOf m 3 h
            | none => noThd
          else [noThd, noThd, noThd]
        let q : QInt :=
          { first := first, u := if bad then [] else hs.map fun h => milliVolts s m (sumG h) 1, dfreq := 0, u2 := 0, u0 := 0,
            thdu := hs.map fun h => thdOf m 4 h, thdi := thdi, flagged := flg,
            incomplete := bad || (mtF s m 0 2 1 == 1 && thdi.contains noThd), nosync := nos }
        let (n0, len) := match hs with
          | h :: _ => (h.first, h.len)
          | [] => (0, 0)
        setMt s m { x with waiting := x.waiting ++ [(n0, len, q)], seen := false }

/-- √ of the mean of squares, to nearest (assumption 17). -/
def rmsOf (l : List Nat) : Nat :=
  if l.isEmpty then 0 else (Nat.sqrt (4 * (l.foldl (fun a b => a + b * b) 0) / l.length) + 1) / 2

/-- Intervals aggregated into one (R200, assumption 17), with the mean `f` of dfreq; a current whose window was MISSING is left out. -/
def aggregate (m : Nat) (l : List QInt) (f : Option Int) : Option QInt :=
  match l with
  | [] => none
  | h :: _ =>
    let g := l.filter fun q => !q.u.isEmpty
    let col (f : QInt → List Nat) (i : Nat) : Nat := rmsOf (g.map fun q => (f q).getD i 0)
    let three (f : QInt → List Nat) : List Nat := (List.range 3).map fun i => col f i
    let cur (i : Nat) : Nat :=
      let vs := (g.map fun q => q.thdi.getD i noThd).filter fun v => v != noThd
      if vs.isEmpty then noThd else rmsOf vs
    let none3 (k : Nat) : List Nat := (List.range 3).map fun i => Config.freeQual (k + i) m
    some { first := h.first, u := if g.isEmpty then none3 5 else three fun q => q.u,
           dfreq := f.getD (Config.freeQual 8 m : Int),
           u2 := if g.isEmpty then Config.freeQual 9 m else rmsOf (g.map fun q => q.u2),
           u0 := if g.isEmpty then Config.freeQual 10 m else rmsOf (g.map fun q => q.u0),
           thdu := if g.isEmpty then none3 11 else three fun q => q.thdu, thdi := (List.range 3).map cur,
           flagged := l.any fun q => q.flagged, incomplete := l.any fun q => q.incomplete, nosync := l.any fun q => q.nosync }

def qualBytes (m kind : Nat) (q : QInt) (seq : Nat) : List Byte :=
  le 4 seq ++ le 1 m ++ le 1 kind ++ le 2 (ofBit q.flagged 0 + ofBit q.incomplete 1 + ofBit q.nosync 2) ++ q.first.bytes ++
    (q.u.map fun v => le 4 v).flatten ++ le 4 (ofSigned 32 q.dfreq) ++ le 4 q.u2 ++ le 4 q.u0 ++
    (q.thdu.map fun v => le 2 v).flatten ++ (q.thdi.map fun v => le 2 (min v 0xFFFF)).flatten ++ le 4 seq

/-- The mean of dfreq over an interval: of its 10 s means, with none ended in it the newest (R200, assumption 110). -/
def intervalFreq (x : Meter) (l : List Int) : Option Int :=
  match meanOf l with
  | some f => some f
  | none => x.fLast

/-- The end of an aggregated interval of a meter: 0 for 150/180 cycles, 1 for 10 min, 2 for 2 h (R202). -/
def qualityInterval (s : State) (m kind : Nat) : State :=
  if !mtOn s m || mtF s m 0 3 1 = 0 then s
  else
    let x := mtOf s m
    if kind = 0 then
      if x.basic.length < 15 then s
      else match aggregate m (x.basic.take 15) (intervalFreq x x.fDone) with
        | some q => qringWrite (setMt s m { x with basic := x.basic.drop 15, fDone := [] }) (qualBytes m 1 q)
        | none => s
    else if kind = 1 then
      match aggregate m x.agg10m (intervalFreq x x.fTen) with
      | some q => qringWrite (setMt s m { x with agg10m := [], fTen := [], agg2h := x.agg2h ++ [q] }) (qualBytes m 2 q)
      | none => s
    else
      match aggregate m x.agg2h (meanOf (x.agg2h.map fun q => q.dfreq)) with
      | some q => qringWrite (setMt s m { x with agg2h := [] }) (qualBytes m 3 q)
      | none => s

/-- Sum of squares of the newest cycle of samples of a channel, when all are valid. -/
def halfRms (s : State) (c n : Nat) : Option Nat :=
  let vs := (s.phx.hist.drop s.phx.todo).take n
  let xs := vs.map fun a => chOf a c
  if xs.length < n || xs.any fun v => badSample v then none
  else some (xs.foldl (fun a v => a + v.value.natAbs ^ 2) 0)

/-- One kind of voltage event: its state after a comparison, and the records made (R201). -/
def voltKind (s : State) (m kind now ext : Nat) (low startC endC : Bool) (st : Option (Nat × Nat)) : State × Option (Nat × Nat) :=
  match st with
  | none =>
    if startC then
      let s := irq (cnt s .nrg 0 (mtO m 0x2C)) .nrg 3
      (evt s 0x0A14 1 m kind ext, some (now, ext))
    else (s, none)
  | some (t0, e0) =>
    let e := if low then min e0 ext else max e0 ext
    if endC then (evt s 0x0A14 1 m (kind + 256) (e % 2 ^ 32 + (now - t0) / 1000000 * 2 ^ 32), none) else (s, some (t0, e))

/-- Urms(1/2) of the three phases is refreshed and compared with UDIN (R200, R201). -/
def voltageEvent (s : State) (m : Nat) : State :=
  if !mtOn s m || (mtOf s m).fault ≠ 0 || mtF s m 0 3 1 = 0 then s
  else
    let x := mtOf s m
    let f0u : Int := ((f0Hz s * 1000000 : Nat) : Int)
    let df := clampInt (((findK s.phx.grpStat (mtVg s m)).bind fun t => t.dfreq).getD 0) (-(f0u / 20)) (f0u / 20)
    let n := (roundTiesUp 14400000000 (((f0Hz s * 1000000 : Nat) : Int) + df).toNat).toNat
    let sq := (mtV s m).map fun c => halfRms s c n
    if sq.any fun q => q.isNone then s
    else
      let us := (sq.filterMap fun q => q).map fun q => milliVolts s m q n
      let udin := mtF s m 0x14 0 20
      let pct (p : Nat) : Nat := p * udin * 10
      let dip := mtF s m 0x18 0 8
      let swl := mtF s m 0x18 8 8
      let int := mtF s m 0x18 16 8
      let hy := mtF s m 0x18 24 8
      let lo := us.foldl min (us.headD 0)
      let hi := us.foldl max 0
      let now := match (s.phx.hist.drop s.phx.todo).head? with
        | some a => a.label.sec * 1000000000 + a.label.ns
        | none => nowNs s
      let (s, intr) := voltKind s m 2 now lo true (us.all fun u => decide (u < pct int)) (us.all fun u => decide (u ≥ pct (int + hy))) x.evt.intr
      let (s, d) := voltKind s m 0 now lo true (intr.isNone && us.any fun u => decide (u < pct dip))
        (us.all fun u => decide (u ≥ pct (dip + hy))) x.evt.dip
      let (s, w) := voltKind s m 1 now hi false (us.any fun u => decide (u > pct swl)) (us.all fun u => decide (u + pct hy ≤ pct swl)) x.evt.swell
      let act := intr.isSome || d.isSome || w.isSome
      let x := mtOf s m
      setMt s m { x with evt := { dip := d, swell := w, intr := intr }, seen := x.seen || act }

/-! ### Registers -/

/-- The words computed for a read (R204). -/
def nrgRead (s : State) (o : Nat) : Option Nat :=
  if o = 0x4C then some (reg s .nrg 0 o % 256 + ofBit s.nrg.qring.fault 8)
  else if o = 0x54 then some (ofBit s.nrg.snapReq.isSome 0 + s.nrg.snapSeq * 65536)
  else if o = 0xD8 then some s.nrg.saveSeq
  else if 0x400 ≤ o ∧ o < 0x14C0 then
    let m := (o - 0x400) / 0x40
    let g := (o - 0x400) % 0x40
    let x := mtOf s m
    if g = 0x1C then
      some (ofBit (mtOn s m && x.fault == 0) 0 + ofBit (x.fault != 0) 1 + x.fault * 4 + ofBit x.hrmGap 5 +
        ofBit x.evt.dip.isSome 6 + ofBit x.evt.swell.isSome 7 + ofBit x.evt.intr.isSome 8)
    else if g = 0x20 then some x.miss
    else if g = 0x24 then some (x.unsaved % 2 ^ 32)
    else if g = 0x28 then some (x.unsaved / 2 ^ 32)
    else none
  else none

/-- A register of NRG was written; `mask` are the bits written. A GO while BUSY changes nothing (R194). -/
def nrgWritten (s : State) (o old mask : Nat) : State :=
  if o = 8 then mtCheckAll s
  else if o = 0x50 then
    let v := reg s .nrg 0 o
    let go := bit v 31 && bit mask 31
    let s' := setReg s .nrg 0 o (v % 2 ^ 31)
    if !go then s'
    else if s.nrg.snapReq.isSome then setReg s .nrg 0 o (old % 2 ^ 31)
    else { s' with nrg := { s'.nrg with snapReq := some (v % 128) } }
  else if o = 0x4C then
    (if bit (reg s .nrg 0 o) 0 && bit mask 0 then { s with nrg := { s.nrg with qring := ⟨0, false⟩ } } else s)
  else if 0x400 ≤ o ∧ o < 0x14C0 then mtCheck s ((o - 0x400) / 0x40)
  else s

/-! ### Rows -/

def execHarmonicWindow (e : Fin 256) (s : State) : Host.Outcome State Fault Refusal :=
  runOn (fun s =>
    if isDown s .phasor || (findK s.phx.hdone e.val).isNone then s else qualBasic (harmonicWindow s e.val) e.val) s

def execSnapshot (s : State) : Host.Outcome State Fault Refusal := runOn (fun s => if nrgOn s then snapshot s else s) s

def execEnergySavePeriodic (s : State) : Host.Outcome State Fault Refusal :=
  runOn (fun s => if nrgOn s then energySave s 0 else s) s

def execPowerFailSaveRepeat (s : State) : Host.Outcome State Fault Refusal :=
  runOn (fun s => if nrgOn s && s.aon.pf then energySave s 1 else s) s

def execVoltageEvent (m : Fin 67) (s : State) : Host.Outcome State Fault Refusal :=
  runOn (fun s => voltageEvent s m.val) s

def execQualityInterval (m : Fin 67) (k : Fin 3) (s : State) : Host.Outcome State Fault Refusal :=
  runOn (fun s => qualityInterval s m.val k.val) s

end Sys2Proof.Machine
end

