-- ==== Sys2Proof/Machine/Twave.lean ====
section
/-!
DEFINITION. Travelling-wave capture (R205 to R218): tap samples and the capture ring, slew detection, wavefront time and
amplitude, events and reflection windows, wavefront reports sent and received, and the rings of slices.
-/

namespace Sys2Proof.Machine

/-! ### Registers -/

def twOf (s : State) (c : Nat) : TwCh :=
  (findK s.twv.ch c).getD
    { taken := 0, next := 0, recent := [], chg := none, armed := false, since := 0, quiet := 0, invalid := false,
      detCnt := 0, det := [], waves := [] }
def setTw (s : State) (c : Nat) (x : TwCh) : State := { s with twv := { s.twv with ch := putK s.twv.ch c x } }

def lnOf (s : State) (n : Nat) : TwLine :=
  (findK s.twv.line n).getD
    { event := none, supp := 0, seq := 0, copies := [], lastRx := none, recSec := none }
def setLn (s : State) (n : Nat) (x : TwLine) : State := { s with twv := { s.twv with line := putK s.twv.line n x } }

def tcO (c o : Nat) : Nat := 0x100 + c * 0x10 + o
def tlO (n o : Nat) : Nat := 0x400 + n * 0x40 + o

/-- The unit is present and enabled (R2, R3). -/
def twvOn (s : State) : Bool := s.fuse.variant != .s && enabled s .twv && isUp s .acq

def cw (c : List Nat) (i lsb w : Nat) : Nat := getBits (c.getD i 0) lsb w
def cfgLag (c : List Nat) : Nat := cw c 0 0 4
def cfgSettle (c : List Nat) : Nat := cw c 0 4 4
def cfgFrac (c : List Nat) : Nat := cw c 0 8 8
def cfgRefl (c : List Nat) : Nat := cw c 1 0 14
def cfgPre (c : List Nat) : Nat := cw c 1 16 11

/-- The words TC_CFG, TC_TH and TC_SCALE of channel `c`, in a configuration. -/
def chDet (c : List Nat) (ch : Nat) : Bool := cw c (12 + 3 * ch) 0 1 == 1
def chLine (c : List Nat) (ch : Nat) : Nat := cw c (12 + 3 * ch) 4 3
def chTh (c : List Nat) (ch : Nat) : Nat := cw c (13 + 3 * ch) 0 22

/-- The busy line to which a channel belonged when its event opened. -/
def busyLine (s : State) (c : Nat) : Option Nat :=
  (List.range 8).find? fun n => match (lnOf s n).event with
    | some e => chLine e.cfg c == n
    | none => false

/-- The words of a channel: those of the event while its line is busy (R219). -/
def chWords (s : State) (c : Nat) : List Nat :=
  match (busyLine s c).bind fun n => (lnOf s n).event with
  | some e => (e.cfg.drop (12 + 3 * c)).take 3
  | none => (List.range 3).map fun i => reg s .twv 0 (tcO c (4 * i))

/-- The configuration words with which an event of line `n` opens. -/
def lineCfgNow (s : State) (n : Nat) : List Nat :=
  [reg s .twv 0 0x40, reg s .twv 0 0x44, reg s .twv 0 0x4C] ++ ((List.range 9).map fun i => reg s .twv 0 (tlO n (4 * i))) ++
    ((List.range 24).map fun c => chWords s c).flatten

/-- The configuration of a line: that of its event while it is busy (R219). -/
def lineCfg (s : State) (n : Nat) : List Nat :=
  match (lnOf s n).event with
  | some e => e.cfg
  | none => lineCfgNow s n

/-- The line of a channel. One whose LINE names a line that became busy without it has none until that line is idle. -/
def lineFor (s : State) (c : Nat) : Option Nat :=
  match busyLine s c with
  | some n => some n
  | none =>
    let n := fldI s .twv 0 (tcO c 0) 4 3
    if (lnOf s n).event.isSome then none else some n

/-- The configuration that a channel's detector follows. -/
def chCfg (s : State) (c : Nat) : List Nat :=
  match busyLine s c with
  | some n => lineCfg s n
  | none => lineCfgNow s (fldI s .twv 0 (tcO c 0) 4 3)

/-! ### Samples (R205, R206) -/

/-- t(m) in 1/4608 ns: a sample number counts from the top of second 0. -/
def tapTime (s : State) (c m : Nat) : Int :=
  let k : Int := ((m % 3600000 : Nat) : Int)
  ((m / 3600000 * 1000000000 * 4608 : Nat) : Int) + (8 * k * 256 - 2688 - acSkew s c) * 625

/-- The instant of a tap sample in 2^-16 ns, truncated toward the earlier instant. -/
def tapUnits (s : State) (c m : Nat) : Int := tapTime s c m * 65536 / 4608

/-- The number of the tap sample now. -/
def tapNow (s : State) : Nat := nowSec s * 3600000 + s.tim.time % secU * 18 / (625 * nsU * 8)

/-- The number of the tap sample whose window ends at edge `t`: edge 2,000 k of a second is that of its grain k (R50, R206). -/
def tapNumber (s : State) (t : Nat) : Nat :=
  match s.tim.lastGrain with
  | none => t / 8
  | some (sec, k) => (((sec * 14400 + k + t / 2000 : Nat) : Int) - s.tim.grains).toNat * 250 + t % 2000 / 8

/-- The compensated value of a tap word (R205). -/
def tapValue (s : State) (c : Nat) (w : Nat) : Int :=
  let raw := toSigned 11 (w % 2048)
  if bit w 11 then raw * 256 else roundAway (raw * (acGain s c : Int)) 65536

/-- The address of channel `c`'s word of sample `m` in the capture ring (R220). -/
def tapAddr (m c : Nat) : Nat := 0x54000000 + m % 3600000 % 65536 * 48 + 2 * c

/-- The most samples kept beside the ring. -/
def tapKeep : Nat := 16384

/-- Does the tap of a channel run (R160)? -/
def tapRuns (s : State) (c : Nat) : Bool :=
  s.fuse.variant != .s && isUp s .acq && acOn s c && flag s .acq (acO c 0) 3 && flag s .acq 0x40 (c / 4)

/-- Is a sample invalid (R205): its word's bit [12], a fault, a calibration, or one of the 16 samples after a channel change? -/
def tapBad (s : State) (a : AcqCh) (t w : Nat) : Bool :=
  bit w 12 || a.cfgFault || a.mdFault || s.acq.cal.isSome ||
    match a.change with
    | some e => decide (t / 8 < (e + 7) / 8 + 16)
    | none => true

/-- The next sample of the tap, once its bits are there (R160, R205, R207): validity, the capture ring, the slew detector and its
re-arming. Between a timebase step and the re-phasing no sample has a number, and none is taken (assumption 112). -/
def tapSample (s : State) (c : Nat) : State :=
  let a := acOf s c
  let t := 8 * a.tapNext
  if !tapRuns s c || s.tim.rephase || decide (a.nextEdge ≤ t) then s
  else
    let s := setAc s c { a with tapNext := a.tapNext + 1 }
    let x := twOf s c
    let m := tapNumber s t
    let fresh : Bool := a.change != x.chg
    let armed := x.armed || fresh
    let w := tapWord a t
    let bad := tapBad s a t w
    let y : Option Int := if bad then none else some (tapValue s c w)
    let s := wrNum s (tapAddr m c) 2 (w + ofBit bad 13)
    let s := { s with gge := { s.gge with
      twNewest := m, twHistFrom := if s.gge.twFresh then m else s.gge.twHistFrom, twFresh := false } }
    let cfg := chCfg s c
    let old : Option Int := ((x.recent.drop (cfgLag cfg - 1)).head?).bind fun e =>
      if !e.old && e.m + cfgLag cfg = m then e.y else none
    let d : Option Int := match y, old with
      | some p, some q => some (p - q)
      | _, _ => none
    let th := chTh cfg c
    let since := x.since + 1
    let quiet : Nat := match d with
      | some d => if decide (2 * d.natAbs < th) then x.quiet + 1 else 0
      | none => 0
    let armed := armed || (decide (since ≥ cw cfg 0 16 8) && decide (quiet ≥ 2))
    let hit : Bool := twvOn s && chDet cfg c && armed && (match d with
      | some d => decide (d.natAbs ≥ th)
      | none => false)
    let e : TwSample := { sn := x.taken + 1, m := m, y := y, det := if hit then d else none,
                          quality := s.tim.quality, epoch := s.tim.epoch, old := false }
    let x := { x with
      taken := x.taken + 1, next := m + 1, chg := a.change, invalid := bad, armed := armed && !hit,
      since := if hit then 0 else since, quiet := if hit then 0 else quiet,
      detCnt := if hit then (x.detCnt + 1) % 65536 else x.detCnt, det := if hit then x.det ++ [m] else x.det,
      recent := (e :: x.recent).take tapKeep }
    setTw s c x

/-! ### Wavefronts (R208, R209) -/

/-- R(x) of R209. -/
def stepResp (x : Rat) : Rat :=
  if x ≤ -3 / 2 then 0
  else if x ≤ -1 / 2 then (3 / 2 + x) ^ 3 / 6
  else if x ≤ 1 / 2 then 1 / 6 + 3 / 4 * (x + 1 / 2) - (x ^ 3 + 1 / 8) / 3
  else if x ≤ 3 / 2 then 1 - (3 / 2 - x) ^ 3 / 6
  else 1

/-- u(δ) of R209. -/
def uOf (d : Rat) : Rat := (1 / 2 - stepResp (-d)) / (stepResp (1 - d) - stepResp (-d))

/-- The largest j below 2^n · start … with u((2 j − 1) / 131,072) at most `u`: δ to the nearest 2^-16. -/
def invSearch : (n : Nat) → (u : Rat) → (j : Nat) → Nat
  | 0, _, j => j
  | n + 1, u, j => let k := j + 2 ^ n
    if k ≤ 65536 ∧ uOf (((2 * k : Nat) - 1 : Rat) / 131072) ≤ u then invSearch n u k else invSearch n u j

/-- Point `i` of the table INV, in Q16. -/
def invPoint (i : Nat) : Nat :=
  if i = 0 then 0 else if i = 128 then 32768 else if i = 256 then 65536 else invSearch 17 ((i : Rat) / 256) 0

/-- INV of a fraction, by linear interpolation between the points. -/
def invOf (u : Rat) : Rat :=
  let i := min (u * 256).floor.toNat 255
  let a : Rat := ((invPoint i : Nat) : Rat)
  let b : Rat := ((invPoint (i + 1) : Nat) : Rat)
  (a + (b - a) * (u * 256 - (i : Rat))) / 65536

def roundR (x : Rat) : Int := if x < 0 then -((-x + 1 / 2).floor) else (x + 1 / 2).floor

/-- The value of sample `m` of a channel, when it is valid. -/
def tapAt (x : TwCh) (m : Nat) : Option Int := (x.recent.find? fun e => !e.old && e.m == m).bind fun e => e.y

/-- wavefront(c, mt) of R208. -/
def wavefront (s : State) (c mt : Nat) (cfg : List Nat) : Wave :=
  let x := twOf s c
  let lag := cfgLag cfg
  let settle := cfgSettle cfg
  let tns (m : Nat) : Rat := (tapTime s c m : Rat) / 4608
  let base := ((List.range 4).map fun i => mt - lag - 3 + i).filterMap fun k => tapAt x k
  let here := x.recent.find? fun e => !e.old && e.m == mt
  let dm : Int := (here.bind fun e => e.det).getD 0
  let (time, amp, no) : Rat × Rat × Bool :=
    if base.isEmpty then (tns mt, (dm : Rat), true)
    else
      let b : Rat := ((base.foldl (fun (a : Int) v => a + v) 0 : Int) : Rat) / (base.length : Rat)
      let ys := ((List.range (settle + 1)).map fun i => mt + i).filterMap fun k => (tapAt x k).map fun v => (v : Rat)
      let big := ys.foldl (fun (best : Option Rat) y => match best with
        | none => some y
        | some z => if |y - b| > |z - b| then some y else some z) none
      match big with
      | none => (tns mt, (dm : Rat), true)
      | some yb =>
        let l := b + (yb - b) * (cfgFrac cfg : Rat) / 256
        let a? := ((List.range (lag + settle)).map fun i => mt - lag + i).find? fun k =>
          match tapAt x k, tapAt x (k + 1) with
          | some p, some q =>
            let p : Rat := (p : Rat) - l
            let q : Rat := (q : Rat) - l
            decide (p < 0) && decide (0 < q) || decide (0 < p) && decide (q < 0) || decide (q = 0)
          | _, _ => false
        match a? with
        | none => (tns mt, yb - b, true)
        | some a =>
          let p : Rat := ((tapAt x a).getD 0 : Rat)
          let q : Rat := ((tapAt x (a + 1)).getD 0 : Rat)
          let u : Rat := if q = p then 0 else (l - p) / (q - p)
          let u := if cfgFrac cfg = 128 then invOf u else u
          (tns a + u * 2500 / 9, yb - b, false)
  let word := rdNum s (tapAddr mt c) 2
  { ch := c, time := 2 * (time / 2 + 1 / 2).floor, amp := satS 32 (roundR amp), noInterp := no, range1 := !bit word 11,
    quality := (here.map fun e => e.quality).getD s.tim.quality, epoch := (here.map fun e => e.epoch).getD s.tim.epoch }

/-! ### Events (R211 to R213) -/

/-- Members in order of time, then of channel. -/
def insertWave (l : List Wave) (w : Wave) : List Wave :=
  let before := l.filter fun v => decide (v.time < w.time) || (v.time == w.time && decide (v.ch < w.ch))
  let after := l.filter fun v => !(decide (v.time < w.time) || (v.time == w.time && decide (v.ch < w.ch)))
  before ++ w :: after

/-- A detection of channel `c` at sample `mt`, worked out (R208, R211, R212). A detection after the window is suppressed, also one
within EVT_WIN (assumption 111). -/
def takeDetection (s : State) (c mt : Nat) : State :=
  let cfg := chCfg s c
  let w := wavefront s c mt cfg
  let s := setTw s c { twOf s c with waves := ((mt, w.time) :: (twOf s c).waves).take 1024 }
  match lineFor s c with
  | none => s
  | some n =>
    let ln := lnOf s n
    match ln.event with
    | none =>
      let e : TwEvent :=
        { t0 := w.time, m0 := mt, members := [w], seen := [c], refl := [(c, [w])], moreRefl := [], reported := false,
          windowDone := false, rearmed := false, stepped := false, seq := (ln.seq + 1) % 2 ^ 32, supp := ln.supp,
          cfg := lineCfgNow s n }
      setLn s n { ln with event := some e, seq := e.seq, supp := 0 }
    | some e =>
      if e.windowDone || decide (e.m0 + cfgRefl cfg ≤ mt + cfgPre cfg) then
        irq (cnt (setLn s n { ln with supp := ln.supp + 1 }) .twv 0 (tlO n 0x30)) .twv 6
      else
        let member : Bool := !e.reported && !e.seen.contains c && decide (w.time ≤ e.t0 + ((cw cfg 3 8 7 * 1000 : Nat) : Int))
        let old := (findK e.refl c).getD []
        let e := { e with members := if member then insertWave e.members w else e.members, seen := e.seen ++ [c] }
        let e := if old.length < 16 then { e with refl := putK e.refl c (insertWave old w) }
          else { e with moreRefl := e.moreRefl ++ [c] }
        setLn s n { ln with event := some e }

/-- The oldest detection of a channel is worked out. -/
def wavefrontDetection (s : State) (c : Nat) : State :=
  let x := twOf s c
  match x.det with
  | [] => s
  | mt :: r => takeDetection (setTw s c { x with det := r }) c mt

/-! ### Payload (R216) -/

def stampNs (t : Int) (q e : Nat) : Stamp :=
  { sec := (t / 1000000000).toNat, ns := (t % 1000000000).toNat, frac := 0, quality := q, epoch := e }

/-- The event time: the earliest member's. -/
def eventTime (e : TwEvent) : Int := (e.members.map fun w => w.time).foldl min e.t0

def memberBytes (cfg : List Nat) (t : Int) (w : Wave) : List Byte :=
  [BitVec.ofNat 8 w.ch, BitVec.ofNat 8 (cw cfg (12 + 3 * w.ch) 8 2),
   BitVec.ofNat 8 (ofBit w.noInterp 0 + ofBit w.range1 1 + ofBit (decide (w.amp < 0)) 2), 0] ++
  le 4 (ofSigned 32 (w.time - t)) ++ le 4 (ofSigned 32 w.amp) ++ le 4 (cfg.getD (14 + 3 * w.ch) 0)

/-- The payload of an event without its tag. -/
def eventBody (s : State) (n : Nat) (e : TwEvent) : List Byte :=
  let mem := e.members.take 8
  let t := eventTime e
  let auth := cw e.cfg 3 1 1 = 1
  let fl := ofBit (decide (e.members.length > 8)) 0 + ofBit (mem.any fun w => w.noInterp) 1 + ofBit e.stepped 2 +
    ofBit (mem.any fun w => w.range1) 3
  let first := mem.headD { ch := 0, time := t, amp := 0, noInterp := false, range1 := false, quality := 3, epoch := 0 }
  le 4 0x52545754 ++ le 2 1 ++ le 2 (56 + 16 * mem.length + if auth then 32 else 0) ++ le 4 s.fuse.lot.toNat ++
    [s.fuse.wafer, s.fuse.dieX, s.fuse.dieY, BitVec.ofNat 8 n] ++ le 4 (e.cfg.getD 4 0) ++ le 4 s.nv.startCount.toNat ++
    le 4 e.seq ++ le 4 e.supp ++ (stampNs t first.quality first.epoch).bytes ++ le 2 fl ++ le 1 mem.length ++
    List.replicate 5 0 ++ (mem.map fun w => memberBytes e.cfg t w).flatten

/-- The payload as sent: with its tag where AUTH is 1. -/
def eventPayload (s : State) (n : Nat) (e : TwEvent) : State × List Byte :=
  let b := eventBody s n e
  if cw e.cfg 3 1 1 = 0 then (s, b)
  else
    match loadSym s (cw e.cfg 2 0 6) 4 with
    | (s, some k) => (s, b ++ kmac256 k b 32 (ascii "ASDAR-TWR"))
    | (s, none) => (s, b ++ padTo 32 Config.freeTag)

/-! ### Rings (R218) -/

def twRingFault (s : State) (i : Nat) : State := evt (swIrq (irq s .twv 5) i 4) 0x0715 1 i 0 0

/-- An entry of the event rings of the slices that take line `n`. -/
def eventRings (s : State) (n type fl : Nat) (t : Stamp) (payload : List Byte) : State :=
  let cnt16 := min (numAt payload 50 1) 8
  let body := padTo 184 (payload.take (56 + 16 * cnt16))
  forEach (List.range 64) s fun s i =>
    let cfg := regB s .twv 0 0x60C i
    let r := ringOf s.twv.ring i
    if !bit cfg 0 || r.fault || !bit cfg (8 + n) then s
    else if !ringOpen s i then ringGated s i
    else
      let base := regB s .twv 0 0x604 i + regB s .twv 0 0x608 i * 2 ^ 32
      let (s, r') := ringWrite s .twv i base (getBits cfg 1 4) 256 252 0 r fun q =>
        le 4 q ++ [BitVec.ofNat 8 type, BitVec.ofNat 8 n] ++ le 2 fl ++ t.bytes ++ body ++ List.replicate 44 0
      let s := { s with twv := { s.twv with ring := putK s.twv.ring i r' } }
      if r'.fault then twRingFault s i else s

/-- The word of a window sample as stored: INT32, or the mark of an invalid one. -/
def windowWord (x : TwCh) (m : Nat) : Option Int := tapAt x m

/-- The reflection record of one channel (R218). -/
def reflEntry (s : State) (n c : Nat) (e : TwEvent) (q : Nat) : List Byte :=
  let x := twOf s c
  let len := cfgRefl e.cfg
  let pre := cfgPre e.cfg
  let first := e.m0 - pre
  let ys := (List.range len).map fun i => windowWord x (first + i)
  let list := (findK e.refl c).getD []
  let t := eventTime e
  let u := (tapUnits s c first).toNat
  let st : Stamp := { sec := u / secU16, ns := u % secU16 / 65536, frac := u % 65536,
                      quality := ((e.members.headD ⟨0, 0, 0, false, false, 3, 0⟩).quality),
                      epoch := ((e.members.headD ⟨0, 0, 0, false, false, 3, 0⟩).epoch) }
  le 4 q ++ [BitVec.ofNat 8 c, BitVec.ofNat 8 n] ++ le 1 list.length ++
    le 1 (ofBit (ys.any fun y => y.isNone) 0 + ofBit (e.moreRefl.contains c) 1 + ofBit e.stepped 2) ++ le 4 e.seq ++
    le 2 pre ++ le 2 len ++ st.bytes ++ le 4 (e.cfg.getD (14 + 3 * c) 0) ++ List.replicate 28 0 ++
    padTo 256 ((list.map fun w => le 4 (ofSigned 32 (w.time - t)) ++ le 4 (ofSigned 32 w.amp) ++
      le 1 (ofBit w.noInterp 0 + ofBit w.range1 1 + ofBit (decide (w.amp < 0)) 2) ++ List.replicate 7 0).flatten) ++
    (ys.map fun y => match y with
      | some v => le 4 (ofSigned 32 v)
      | none => le 4 0x80000000).flatten

/-- The reflection window of a line ends: one record for each channel of the line (R212, R218); REARM begins. -/
def reflectionRecord (s : State) (n : Nat) : State :=
  let ln := lnOf s n
  match ln.event with
  | none => s
  | some e =>
    if e.windowDone then s
    else
      let len := cfgRefl e.cfg
      let chs := (List.range 24).filter fun c => chDet e.cfg c && chLine e.cfg c == n
      let s := forEach chs s fun s c =>
        forEach (List.range 64) s fun s i =>
          let cfg := regB s .twv 0 0x618 i
          let r := ringOf s.twv.rring i
          if !bit cfg 0 || r.fault || !bit (regB s .twv 0 0x60C i) (8 + n) then s
          else if !ringOpen s i then ringGated s i
          else
            let base := regB s .twv 0 0x610 i + regB s .twv 0 0x614 i * 2 ^ 32
            let (t, r') := ringWrite s .twv i base (getBits cfg 1 4) (roundUp (328 + 4 * len) 64) (320 + 4 * len) 4 r
              (reflEntry s n c e)
            let t := { t with twv := { t.twv with rring := putK t.twv.rring i r' } }
            if r'.fault then twRingFault t i else t
      setLn s n { lnOf s n with event := some { e with windowDone := true } }

/-! ### Reports (R215) -/

/-- One copy of a report handed to the switch at internal port 64, with both checksums. -/
def sendReport (s : State) (cfg : List Nat) (payload : List Byte) : State :=
  let swap (v : Nat) : Nat := ofBe (le 4 v)
  let w := cfg.getD 11 0
  let tagged := bit w 15
  let u : UdpPdu :=
    { srcIp := BitVec.ofNat 32 (swap (cfg.getD 7 0)), dstIp := BitVec.ofNat 32 (swap (cfg.getD 6 0)),
      srcPort := BitVec.ofNat 16 (cw cfg 8 16 16), dstPort := BitVec.ofNat 16 (cw cfg 8 0 16), ttl := 64, tos := 0xB8,
      ident := Config.freeIdent (numAt payload 24 4), df := Config.freeDf 10, ipSum := 0, udpSum := 0, payload := payload }
  let f : Frame :=
    { dst := macOf (cfg.getD 9 0) (cfg.getD 10 0), src := Config.freeSrcMac 10,
      vlan := if tagged then some (BitVec.ofNat 12 w, BitVec.ofNat 3 (getBits w 12 3)) else none,
      etype := 0x0800, red := .plain, len := frameLen tagged (28 + payload.length), pdu := .udp (withSums u) }
  let s := sendOwn s 64 f (cw cfg 3 4 2)
  irq s .twv 2

/-- The event of a line closes (R211): record, rings, report; where REARM has run out, the line is idle. -/
def eventClose (s : State) (n : Nat) : State :=
  match (lnOf s n).event with
  | none => s
  | some e =>
    if e.reported then s
    else
      let s := irq (cnt s .twv 0 (tlO n 0x2C)) .twv 1
      let (s, p) := eventPayload s n e
      let s := setLn s n { lnOf s n with event := if e.rearmed then none else some { e with reported := true } }
      let s := eventRings s n 1 (ofBit (cw e.cfg 3 1 1 == 0) 1) (nowStamp s) p
      if cw e.cfg 3 0 1 = 0 then s
      else
        let k := cw e.cfg 3 2 2
        let c : TwCopies := { due := mono s + 1000000 * nsU, left := k, report := p, cfg := e.cfg }
        sendReport (if k = 0 then s else setLn s n { lnOf s n with copies := (lnOf s n).copies ++ [c] }) e.cfg p

/-- The next copy that is due is sent; further ones follow 1 ms after it (R215). -/
def reportRepeat (s : State) (n : Nat) : State :=
  let ln := lnOf s n
  match ln.copies with
  | [] => s
  | h :: r =>
    let c := r.foldl (fun a b => if b.due < a.due then b else a) h
    let rest := ln.copies.erase c
    let more : List TwCopies := if c.left ≤ 1 then [] else [{ c with due := c.due + 1000000 * nsU, left := c.left - 1 }]
    sendReport (setLn s n { ln with copies := rest ++ more }) c.cfg c.report

/-- REARM ms after the window the line is idle (R212), or as soon as its event is reported. -/
def lineRearm (s : State) (n : Nat) : State :=
  let ln := lnOf s n
  match ln.event with
  | some e =>
    if !e.windowDone then s
    else setLn s n { ln with event := if e.reported then none else some { e with rearmed := true } }
  | none => s

/-- Every detection of a channel that waits is worked out. -/
def allDetections : (fuel : Nat) → State → (c : Nat) → State
  | 0, s, _ => s
  | k + 1, s, c => if (twOf s c).det.isEmpty then s else allDetections k (wavefrontDetection s c) c

/-- A timebase step (R213): detections made before it are worked out, an open event closes, and an open window ends. -/
def twvStep (s : State) : State :=
  let s := forEach (List.range 24) s fun s c => allDetections (twOf s c).det.length s c
  let s := forEach (List.range 8) s fun s n =>
    match (lnOf s n).event with
    | some e =>
      if e.windowDone && e.reported then s
      else
        let s := setLn s n { lnOf s n with event := some { e with stepped := true } }
        reflectionRecord (eventClose s n) n
    | none => s
  { s with twv := { s.twv with ch := s.twv.ch.map fun e =>
      (e.1, { e.2 with next := 0, recent := e.2.recent.map fun x => { x with old := true } }) } }

/-! ### Reports received (R217) -/

/-- A refusal of a received report. -/
def reportRefused (s : State) (n : Option Nat) : State :=
  let s := irq s .twv 4
  match n with
  | none => s
  | some n =>
    let ln := lnOf s n
    let s := cnt s .twv 0 (tlO n 0x38)
    let sec := nowSec s
    let s := setLn s n { ln with recSec := some sec }
    if ln.recSec = some sec then s else evt s 0x0B10 1 n 0 0

/-- A report frame at internal port 64, received at port `p` `dt` timebase cycles ago and sent there by a classification entry. -/
def reportReceive (s : State) (p : Nat) (f : Frame) (dt : Nat) : State :=
  if !twvOn s || !classified s p f 0 then s
  else
    match f.pdu with
    | .udp u =>
      if u.dstPort.toNat ≠ fld s .twv 0x48 0 16 then s
      else
        let b := u.payload
        let n? := (List.range 8).find? fun n => (lineCfg s n).getD 5 0 == numAt b 16 4
        let k := numAt b 50 1
        let len := numAt b 6 2
        let plain := 56 + 16 * k
        let okForm : Bool := decide (56 ≤ b.length) && numAt b 0 4 == 0x52545754 && numAt b 4 2 == 1 &&
          decide (1 ≤ k) && decide (k ≤ 8) && len == b.length && (len == plain || len == plain + 32)
        match okForm, n? with
        | true, some n =>
          let tagged := len == plain + 32
          let (s, tagOk) : State × Bool :=
            if tagged then
              match loadSym s (fld s .twv 0x4C 8 6) 4 with
              | (s, some key) => (s, kmac256 key (b.take plain) 32 (ascii "ASDAR-TWR") == b.drop plain)
              | (s, none) => (s, false)
            else (s, !flag s .twv 0x48 16)
          if !tagOk then reportRefused s (some n)
          else
            let pair := (numAt b 20 4, numAt b 24 4)
            let ln := lnOf s n
            let dup : Bool := ln.lastRx == some pair
            let newer : Bool := match ln.lastRx with
              | none => true
              | some (c, q) => decide (c < pair.1) || (c == pair.1 && newer32 pair.2 q)
            if dup then cnt s .twv 0 (tlO n 0x3C)
            else if !newer then reportRefused s (some n)
            else
              let s := setLn s n { ln with lastRx := some pair }
              let s := irq (cnt s .twv 0 (tlO n 0x34)) .twv 3
              eventRings s n 2 (ofBit tagged 0 + ofBit (!tagged) 1) (rxStamp s p dt) b
        | _, n => reportRefused s n
    | _ => s

/-! ### Registers -/

def twvRead (s : State) (o : Nat) : Option Nat :=
  if 0x100 ≤ o ∧ o < 0x280 ∧ o % 0x10 = 0xC then
    let x := twOf s ((o - 0x100) / 0x10)
    some (ofBit x.armed 0 + ofBit x.invalid 1 + x.detCnt * 65536)
  else if 0x400 ≤ o ∧ o < 0x600 then
    let ln := lnOf s ((o - 0x400) / 0x40)
    if o % 0x40 = 0x24 then some (ofBit ln.event.isSome 0) else if o % 0x40 = 0x28 then some ln.seq else none
  else if o = 0x620 then
    let i := fld s .twv 0x600 0 6
    some (ofBit (ringOf s.twv.ring i).fault 0 + ofBit (ringOf s.twv.rring i).fault 1)
  else none

def twvStat (s : State) : Nat := (List.range 8).foldl (fun a n => a + ofBit (lnOf s n).event.isSome (8 + n)) 0

/-- A register of TWV was written. -/
def twvWritten (s : State) (o old mask : Nat) : State :=
  let new := reg s .twv 0 o
  if 0x100 ≤ o ∧ o < 0x280 ∧ o % 0x10 = 0 then
    let c := (o - 0x100) / 0x10
    if !bit old 0 && bit new 0 then setTw s c { twOf s c with armed := true } else s
  else if o = 0x60C ∧ bit new 0 ∧ bit mask 0 then
    { s with twv := { s.twv with ring := putK s.twv.ring (fld s .twv 0x600 0 6) ⟨0, false⟩ } }
  else if o = 0x618 ∧ bit new 0 ∧ bit mask 0 then
    { s with twv := { s.twv with rring := putK s.twv.rring (fld s .twv 0x600 0 6) ⟨0, false⟩ } }
  else s

/-! ### Rows -/

def execTravellingWaveSample (c : Fin 24) (s : State) : Host.Outcome State Fault Refusal :=
  runOn (fun s => tapSample s c.val) s

def execWavefrontDetection (c : Fin 24) (s : State) : Host.Outcome State Fault Refusal :=
  runOn (fun s => if twvOn s then wavefrontDetection s c.val else s) s

def execEventClose (n : Fin 8) (s : State) : Host.Outcome State Fault Refusal :=
  runOn (fun s => if twvOn s then eventClose s n.val else s) s

def execReportRepeat (n : Fin 8) (s : State) : Host.Outcome State Fault Refusal :=
  runOn (fun s => if twvOn s then reportRepeat s n.val else s) s

def execReflectionRecord (n : Fin 8) (s : State) : Host.Outcome State Fault Refusal :=
  runOn (fun s => if twvOn s then reflectionRecord s n.val else s) s

def execLineRearm (n : Fin 8) (s : State) : Host.Outcome State Fault Refusal :=
  runOn (fun s => if twvOn s then lineRearm s n.val else s) s

def execReportReceive (p : Fin 64) (f : Frame) (dt : Nat) (s : State) : Host.Outcome State Fault Refusal :=
  runOn (fun s => reportReceive s p.val f dt) s

end Sys2Proof.Machine
end

