-- ==== Sys2Proof/Machine/Link.lean ====
section
/-!
DEFINITION. The sending side of the Elade link (R325 to R327): frames with their sequence and CRCs, the classes' limits,
and the frames that wait; and the two levels that gate the pads, TOKEN_OK (R248) and the Tool rest (R380).
-/

namespace Sys2Proof.Machine

/-- TOKEN_OK (R248); on the 6416-N it is 1 at all times (R5). -/
def tokenOk (s : State) : Bool := s.fuse.variant == .n || (s.rdn.tokOut && !s.rdn.tokIn)

/-- Is the part one with the redundant pair (R2)? -/
def pairPart (s : State) : Bool := s.fuse.variant != .n

/-- The header of a link frame, bytes 0 to 11 (R325). -/
def linkHeader (cls type seq n : Nat) : List Byte := le 1 cls ++ le 1 type ++ le 2 n ++ le 4 seq ++ le 4 0

/-- A link frame as it is sent. -/
def mkLink (cls type seq : Nat) (payload : List Byte) : LinkFrame :=
  { cls := BitVec.ofNat 8 cls, type := BitVec.ofNat 8 type, seq := BitVec.ofNat 32 seq,
    hdrCrc := BitVec.ofNat 32 (crc32 (linkHeader cls type seq payload.length)), payload := payload,
    payCrc := if payload = [] then 0 else BitVec.ofNat 32 (crc32 payload) }

/-- Frames of a class that may be unacknowledged (R327): CTRL, MIRROR, MIG. -/
def linkLimit (cls : Nat) : Nat := if cls = 3 then 64 else 16

def linkCls (s : State) (cls : Nat) : LinkCls :=
  if cls = 1 then s.rdn.elade.ctrl else if cls = 2 then s.rdn.elade.mirror else s.rdn.elade.mig

def setLinkCls (s : State) (cls : Nat) (x : LinkCls) : State :=
  { s with rdn := { s.rdn with elade :=
      if cls = 1 then { s.rdn.elade with ctrl := x } else if cls = 2 then { s.rdn.elade with mirror := x }
      else { s.rdn.elade with mig := x } } }

/-- Waiting frames of a class leave while fewer than its limit are unacknowledged. -/
def linkPump : (fuel : Nat) → State → (cls : Nat) → State
  | 0, s, _ => s
  | n + 1, s, cls =>
    let x := linkCls s cls
    match x.waiting with
    | [] => s
    | f :: rest =>
      if x.unacked.length ≥ linkLimit cls then s
      else linkPump n (emit (setLinkCls s cls { x with waiting := rest, unacked := x.unacked ++ [f] }) (.link f)) cls

/-- A CTRL, MIRROR or MIG frame given to the link; without a link it is lost. -/
def linkSend (s : State) (cls type : Nat) (payload : List Byte) : State :=
  if !s.rdn.elade.up || !pairPart s then s
  else
    let x := linkCls s cls
    let f := mkLink cls type x.nextTx payload
    linkPump 65 (setLinkCls s cls { x with nextTx := (x.nextTx + 1) % 2 ^ 32, waiting := x.waiting ++ [f] }) cls

end Sys2Proof.Machine
end

