-- ==== Sys2Proof/Machine/Decision.lean ====
section
/-!
DEFINITION. Decisions: the words (R242 to R245), the trip matrix and its holds (R246), the pads behind the token gate
and the Tool rest (R247 to R250), the binary inputs (R251), and the GOOSE publications of chapters 12 and 14 (R253 to
R258, R294).
-/

namespace Sys2Proof.Machine

/-! ### Words -/

def decWord (s : State) (w : Nat) : Nat := (s.dec.word.getD w 0).toNat

/-- The owner of a word (R242). -/
def wordOwner (s : State) (w : Nat) : Nat := fld s .dec (0x80 + 4 * (w / 4)) (8 * (w % 4)) 7

def decBit (s : State) (n : Nat) : Bool := bit (decWord s (n / 32)) (n % 32)

/-! ### Trip matrix and pads -/

/-- The matrix term of output `o` (R246). -/
def termOf (s : State) (o : Nat) : Bool :=
  (List.range 4).any fun i =>
    let w := reg s .dec 0 (0x400 + o * 0x20 + 4 * i)
    (bit w 15 && decBit s (getBits w 0 10)) || (bit w 31 && decBit s (getBits w 16 10))

def pulseMin (s : State) (o : Nat) : Nat := fld s .dec (0x410 + o * 0x20) 0 14

/-- EN of DEC, held at 0 while the module is blank (R248). -/
def decEn (s : State) : Bool := enabled s .dec && !blank s && isUp s .rt

/-- The matrix outputs (R246). -/
def matrixOut (s : State) : Nat := if decEn s then Nat.lor s.dec.term.toNat s.dec.hold.toNat else 0

def boSafe (s : State) : Nat := fld s .dec 0x44 0 16

/-- The levels of the TRIP pins (R247). -/
def tripPin (s : State) : Nat :=
  if s.clk.forcing || !tokenOk s then 0 else getBits (matrixOut s) 0 16

/-- The levels of the BO pins (R247). -/
def boPin (s : State) : Nat :=
  if s.clk.forcing then s.aon.boSafe.toNat
  else if !tokenOk s then boSafe s
  else Nat.xor (boSafe s) (getBits (matrixOut s) 16 16)

/-- Terms follow the words at once; a rising term of an output with a hold sets it (R246); an output that is on behind a
closed gate is kept in DEC_GATED_HIST (R249). -/
def decRefresh (s : State) : State :=
  if isDown s .rt then s
  else
    let t := (List.range 32).foldl (fun a o => a + ofBit (termOf s o) o) 0
    let rise := (List.range 32).filter fun o => bit t o && !bit s.dec.term.toNat o && decide (0 < pulseMin s o)
    let h := rise.foldl (fun a o => Nat.lor a (2 ^ o)) s.dec.hold.toNat
    let s := { s with dec := { s.dec with term := BitVec.ofNat 32 t, hold := BitVec.ofNat 32 h } }
    let g := if s.clk.forcing || !tokenOk s then matrixOut s else 0
    let g' := Nat.lor s.dec.gated.toNat g
    if g' = s.dec.gated.toNat then s
    else irq { s with dec := { s.dec with gated := BitVec.ofNat 32 g' } } .dec 3

/-! ### Publications -/

def GPub.new : GPub :=
  { state := 0, reason := 0, stNum := 0, sqNum := 0, last := none, pending := [], values := [], substs := [], active := false,
    peerSt := 0, lastBuilt := none }

def gpOf (s : State) (p : Nat) : GPub := (findK s.dec.pub p).getD GPub.new
def setGp (s : State) (p : Nat) (x : GPub) : State := { s with dec := { s.dec with pub := putK s.dec.pub p x } }

def gpBlk (p : Nat) : Blk := if p < 128 then .dec else .spn

/-- Offset of a register of a publication's group, and of its template. -/
def gpOff (p o : Nat) : Nat := if p < 128 then 0x1000 + p * 0x60 + o else 0x1000 + (p - 128) * 0x40 + o

def gpReg (s : State) (p o : Nat) : Nat := reg s (gpBlk p) 0 (gpOff p o)

def gpTmpl (s : State) (p : Nat) : List Byte := regBytes s (gpBlk p) (0x8000 + p % 128 * 0x100) 256

/-- T0 and T1 in ms. -/
def gpT0 (s : State) (p : Nat) : Nat := getBits (gpReg s p 4) 0 16
def gpT1 (s : State) (p : Nat) : Nat := getBits (gpReg s p 4) 16 10
def gpTest (s : State) (p : Nat) : Bool := bit (gpReg s p 0) 1

/-- The members of a decision publication: the numbers of their decision bits. -/
def gpMembers (s : State) (p : Nat) : List Nat :=
  (List.range (getBits (gpReg s p 0) 8 6)).map fun m => getBits (gpReg s p (0x20 + 4 * (m / 2))) (16 * (m % 2)) 10

/-- The members' encodings as they stand: of a decision publication from its bits (R256), of a Spindle publication as
its last output phase left them (R294). -/
def gpValues (s : State) (p : Nat) : List (List Byte) :=
  if p < 128 then (gpMembers s p).map fun n => [0x83, 1, if decBit s n then 1 else 0] else (gpOf s p).values

/-- The dataset at this edge with what its quality needs (R254, R256, R294). -/
def gpState (s : State) (p : Nat) : GooseState :=
  if p < 128 then
    { data := gpValues s p, invalid := (gpMembers s p).map fun n => wordOwner s (n / 32) == 127,
      subst := (gpMembers s p).map fun n => bit (s.dec.subst.getD (n / 32) 0).toNat (n % 32), t := nowStamp s }
  else
    let x := gpOf s p
    { data := x.values, invalid := x.values.map fun _ => s.spn.state != .running, subst := x.substs, t := nowStamp s }

/-- The first failed check (R253, R294). -/
def gpReason (s : State) (p : Nat) : Nat :=
  let t := gpTmpl s p
  let n (k : Nat) : Nat := numAt t k 1
  if n 20 < 1 ∨ 65 < n 20 ∨ n 86 < 1 ∨ 65 < n 86 ∨ 65 < n 152 then 1
  else if numAt t 14 2 > 0x3FFF then 2
  else if n 0 % 2 = 0 then 3
  else if gpT1 s p > gpT0 s p then 4
  else if 128 ≤ p ∧ (gpOf s p).values = [] then 5
  else 0

/-! ### The frame (R256) -/

/-- A member as it stands in allData: its value and, with QUAL_EN, its quality. -/
def gooseMember (qual test : Bool) (v : List Byte) (invalid subst : Bool) : List Byte :=
  -- quality bits 0 to 12: validity (2), then source at 10 and test at 11, first bit most significant
  v ++ (if qual then
    [0x84, 3, 3, if invalid then 0x40 else 0, BitVec.ofNat 8 (ofBit subst 5 + ofBit test 4)] else [])

/-- The UtcTime of a stamp (R48, R256). -/
def utcTime (s : State) (t : Stamp) : List Byte :=
  be 4 (t.sec - fld s .tim 0x54 0 16) ++ be 3 (t.ns * 2 ^ 24 / 1000000000) ++
    [BitVec.ofNat 8 (0x80 + ofBit (t.quality == 3) 6 + ofBit (decide (2 ≤ t.quality)) 5 + (if t.quality ≤ 1 then 20 else 31))]

/-- The interval in ms before the frame with sqNum `n` of a state (R255). -/
def gpInterval (s : State) (p n : Nat) : Nat := min (gpT1 s p * 2 ^ min 16 (n - 2)) (gpT0 s p)

/-- The frame of a state with its numbers; its octets after the EtherType are `pduBytes` of its content. -/
def gooseFrame (s : State) (p stNum sqNum : Nat) (g : GooseState) : Frame :=
  let t := gpTmpl s p
  let str (k : Nat) : List Byte := (t.drop (k + 1)).take (numAt t k 1)
  let ref := str 20
  let dat := str 86
  let gid := if numAt t 152 1 = 0 then ref else str 152
  let qual := bit (gpReg s p 0) 3
  let test := gpTest s p
  let all := (List.range g.data.length).map fun i =>
    gooseMember qual test (g.data.getD i []) (g.invalid.getD i false) (g.subst.getD i false)
  let all := all.flatten
  let pdu : Pdu := .goose
    { appid := BitVec.ofNat 16 (numAt t 14 2), sim := bit (gpReg s p 0) 2, gocbRef := ref, datSet := dat, goId := gid,
      tal := 2 * gpInterval s p (sqNum + 1), t := utcTime s g.t, stNum := stNum, sqNum := sqNum, test := test,
      confRev := numAt t 16 4, ndsCom := false, numEntries := g.data.length, allData := all, ext := none, formatOk := true }
  let w := numAt t 12 2
  let tagged := bit w 15
  { dst := BitVec.ofNat 48 (ofBe (slice t 0 6)), src := BitVec.ofNat 48 (ofBe (slice t 6 6)),
    vlan := if tagged then some (BitVec.ofNat 12 w, BitVec.ofNat 3 (getBits w 12 3)) else none,
    etype := 0x88B8, red := .plain, len := frameLen tagged (pduBytes pdu).length, pdu := pdu }

/-- A frame of a publication handed to the switch in queue 6 (R257). -/
def gpSend (s : State) (p stNum sqNum : Nat) (g : GooseState) : State :=
  let f := gooseFrame s p stNum sqNum g
  let s := setGp s p { gpOf s p with sqNum := sqNum }
  let s := cnt s (gpBlk p) 0 (gpOff p 0x14)
  sendOwn s 64 f 6

/-- The oldest pending state is built when 1 µs has passed since the last one, while TOKEN_OK is 1 (R254, R258). The
schedule of R255 runs once no state is pending. -/
def gpPump (s : State) (p : Nat) : State :=
  let x := gpOf s p
  match x.pending with
  | [] => s
  | (n, g) :: rest =>
    let now := elapsedNs s
    let due : Bool := match x.lastBuilt with
      | none => true
      | some b => decide (b + 1000 ≤ now)
    if !due || !tokenOk s || isDown s .stream then s
    else gpSend (setGp s p { x with pending := rest, last := some g, lastBuilt := some now, active := decide (rest = []) })
      p n 0 g

/-- Every publication with a pending state is looked at. -/
def gpPumpAll (s : State) : State :=
  forEach (s.dec.pub.filter fun e => e.2.pending != []) s fun s e => gpPump s e.1

/-- stNum after `k` more states: it runs from 1 to 0xFFFF_FFFF and on from 1 (assumption 55). -/
def stAdd (n k : Nat) : Nat := (n + k - 1) % 0xFFFFFFFF + 1

def succSt (n : Nat) : Nat := stAdd n 1

/-- A new state (R254): number, dataset and time; of a fifth pending one the newest is replaced; behind the token gate
only the number follows (R258, R329). `st` is the number at a rise of TOKEN_OK. -/
def gpNew (s : State) (p : Nat) (st : Option Nat) : State :=
  let g := gpState s p
  let x : GPub := { gpOf s p with values := g.data, active := false, sqNum := 0 }
  if !tokenOk s then setGp s p { x with stNum := st.getD (succSt x.stNum), last := some g, pending := [] }
  else if st.isNone && decide (4 ≤ x.pending.length) then
    let n := x.stNum
    irq (cnt (setGp s p { x with pending := x.pending.dropLast ++ [(n, g)] }) (gpBlk p) 0 (gpOff p 0x18)) .dec 2
  else
    let n := st.getD (succSt x.stNum)
    let s := setGp s p { x with stNum := n, pending := x.pending ++ [(n, g)] }
    gpPump (linkSend s 1 5 (le 2 p ++ le 2 0 ++ le 4 n)) p

/-- The members of a running publication compared (R254). -/
def gpCompare (s : State) (p : Nat) : State :=
  let x := gpOf s p
  if x.state = 1 ∧ gpValues s p ≠ x.values then gpNew s p none else s

/-- Every decision publication compared at an edge that changed words. -/
def gpCompareAll (s : State) : State :=
  forEach ((List.range 128).filter fun p => (gpOf s p).state == 1) s fun s p => gpCompare s p

/-- The check of a publication when its registers or its template change (R253), and its start (R254). -/
def gpCheck (s : State) (p : Nat) : State :=
  let x := gpOf s p
  if !bit (gpReg s p 0) 0 then
    if x.state = 0 then s else setGp s p { x with state := 0, reason := 0, pending := [], active := false }
  else
    let r := gpReason s p
    if r ≠ 0 then
      if x.state = 2 then setGp s p { x with reason := r }
      else
        let s := setGp s p { x with state := 2, reason := r, pending := [], active := false }
        evt (irq s (gpBlk p) (if p < 128 then 5 else 6)) 0x0D11 1 p r 0
    else if x.state = 1 then gpCompare s p
    else gpNew (setGp s p { x with state := 1, reason := 0 }) p none

/-- A retransmission (R255). -/
def gpRetransmit (s : State) (p : Nat) : State :=
  let x := gpOf s p
  match x.last with
  | some g =>
    if x.state = 1 && x.active && tokenOk s && isUp s .rt && isUp s .stream then
      gpSend s p x.stNum (if x.sqNum ≥ 0xFFFFFFFF then 1 else x.sqNum + 1) g
    else s
  | none => s

/-- TOKEN_OK rises (R250, R258): pins take their matrix outputs, every running publication makes a new state. -/
def tokenRise (s : State) : State :=
  let s := decRefresh s
  forEach (s.dec.pub.filter fun e => e.2.state == 1) s fun s e =>
    let x := gpOf s e.1
    gpNew s e.1 (some (stAdd (max x.stNum x.peerSt) 256))

/-- TOKEN_OK falls (R250, R258): pending states are discarded and the schedules stop. -/
def tokenFall (s : State) : State :=
  decRefresh { s with dec := { s.dec with pub := s.dec.pub.map fun e => (e.1, { e.2 with pending := [], active := false }) } }

/-- A stNum update of the partner (R258). -/
def stNumUpdate (s : State) (p n : Nat) : State :=
  if p < 256 ∧ isUp s .rt then setGp s p { gpOf s p with peerSt := n } else s

/-! ### Changes of words -/

/-- Words changed at one Real-time edge: matrix, then publications. -/
def wordsSet (s : State) (ws : List (Nat × Nat)) : State :=
  let s := forEach ws s fun s e =>
    { s with dec := { s.dec with word := modAt s.dec.word e.1 fun _ => BitVec.ofNat 32 e.2 } }
  gpCompareAll (decRefresh s)

/-- The address of a decision register in a slice window (R243). -/
def dwAddr (i w k : Nat) : Nat := Blk.base .sw i + 0x800 + w * 0x10 + 4 * k

/-- A write to a word its owner is not (R243). -/
def dwDenied (s : State) (i w a : Nat) : State :=
  let s := irq (cnt (emit s (.accessFault i a)) .dec 0 0x230) .dec 1
  let sec := nowSec s
  if findK s.dec.denyRec i = some sec then s
  else evt { s with dec := { s.dec with denyRec := putK s.dec.denyRec i sec } } 0x0D10 1 i w 0

/-- A store of slice `i` to a register of word `w`: 0 replaces, 1 sets, 2 clears (R243, R244, R264). -/
def dwStore (s : State) (i w k v : Nat) : State :=
  let a := dwAddr i w k
  if isDown s .rt || isDown s .app || windowClosed (slOf s i) then emit s (.accessFault i a)
  else if wordOwner s w ≠ i then dwDenied s i w a
  else
    let old := decWord s w
    wordsSet s [(w, if k = 0 then v else if k = 1 then Nat.lor old v else Nat.land old (Nat.xor v 0xFFFFFFFF))]

/-- The words that a slice owns become 0 (R245). -/
def clearWords (s : State) (i : Nat) : State :=
  wordsSet s (((List.range 32).filter fun w => wordOwner s w == i).map fun w => (w, 0))

/-! ### Binary inputs (R251) -/

/-- DEB of an input in cycles of the timebase's clock. -/
def debCycles (s : State) (i : Nat) : Nat := fld s .dec (0x800 + 4 * i) 0 15 * 500

/-- The level of a pin, which it has had for `dt` cycles: DEC_BI_RAW shows it at once (R259), and it is accepted once it has been
stable for DEB, stamped at the first edge of the stable period (R251). -/
def biAccept (s : State) (i : Nat) (level : Bool) (dt : Nat) : State :=
  if isDown s .rt then s
  else
    let v := level != bit (reg s .dec 0 (0x800 + 4 * i)) 16
    let m : BitVec 32 := BitVec.ofNat 32 (2 ^ i)
    let put (w : BitVec 32) : BitVec 32 := if v then w ||| m else w &&& ~~~m
    let s := { s with dec := { s.dec with biRaw := put s.dec.biRaw } }
    if bit s.dec.bi.toNat i = v ∨ dt < debCycles s i then s
    else
      irq { s with
        dec := { s.dec with
          bi := put s.dec.bi, biChg := s.dec.biChg ||| m, biStamp := putK s.dec.biStamp i (stampBefore s dt) }
        spn := { s.spn with biSeen := s.spn.biSeen ||| m } } .dec 4

/-- PULSE_MIN after the rise of a term (R246). -/
def holdExpire (s : State) (o : Nat) : State :=
  { s with dec := { s.dec with hold := s.dec.hold &&& ~~~(BitVec.ofNat 32 (2 ^ o)) } }

/-! ### Registers -/

/-- The publication whose group or template a register of its block stands in. -/
def gpAt (b : Blk) (o : Nat) : Option Nat :=
  let k := if b = .dec then 0 else 128
  let st := if b = .dec then 0x60 else 0x40
  if 0x8000 ≤ o ∧ o < 0x10000 then some (k + (o - 0x8000) / 0x100)
  else if 0x1000 ≤ o ∧ (o - 0x1000) / st < 128 then some (k + (o - 0x1000) / st)
  else none

/-- BO_SAFE copied into the AON latch (R247). -/
def boLatch (s : State) : State := { s with aon := { s.aon with boSafe := BitVec.ofNat 16 (boSafe s) } }

/-- After a write to a register of DEC. -/
def decWritten (s : State) (o old mask : Nat) : State :=
  if o = 0x44 then boLatch s
  else if o = 0x214 then decRefresh { s with dec := { s.dec with gated := s.dec.gated &&& ~~~(BitVec.ofNat 32 mask) } }
  else if o = 0x228 then { s with dec := { s.dec with biChg := s.dec.biChg &&& ~~~(BitVec.ofNat 32 mask) } }
  else if 0x800 ≤ o ∧ o < 0x880 then
    if bit old 16 = bit (reg s .dec 0 o) 16 then s
    else { s with dec := { s.dec with biRaw := s.dec.biRaw ^^^ BitVec.ofNat 32 (2 ^ ((o - 0x800) / 4)) } }
  else
    match gpAt .dec o with
    | some p => gpCheck s p
    | none => decRefresh s

/-- A group register of a publication that is computed at the read. -/
def gpRead (s : State) (p o : Nat) : Option Nat :=
  let x := gpOf s p
  if o = 8 then some (x.state + ofBit (!tokenOk s) 2 + x.reason * 16 + (if p < 128 then 0 else x.values.length * 256))
  else if o = 0xC then some x.stNum
  else if o = 0x10 then some x.sqNum
  else none

/-- The registers of DEC that are computed at the read. -/
def decRead (s : State) (o : Nat) : Option Nat :=
  if 0x100 ≤ o ∧ o < 0x180 then some (decWord s ((o - 0x100) / 4))
  else if 0x180 ≤ o ∧ o < 0x200 then some (s.dec.subst.getD ((o - 0x180) / 4) 0).toNat
  else if o = 0x200 then some (getBits (matrixOut s) 0 16)
  else if o = 0x204 then some (tripPin s)
  else if o = 0x208 then some (getBits (matrixOut s) 16 16)
  else if o = 0x20C then some (boPin s)
  else if o = 0x214 then some s.dec.gated.toNat
  else if o = 0x220 then some s.dec.bi.toNat
  else if o = 0x224 then some s.dec.biRaw.toNat
  else if o = 0x228 then some s.dec.biChg.toNat
  else if 0x1000 ≤ o ∧ o < 0x4000 then gpRead s ((o - 0x1000) / 0x60) ((o - 0x1000) % 0x60)
  else none

/-- Bits [31:8] of DEC PG_STAT (R259). -/
def decStat (s : State) : Nat :=
  ofBit (tokenOk s) 8 + ofBit s.clk.forcing 9 + ofBit (decEn s) 10 + ofBit s.rdn.healthy 11

/-- SOFT_RST of DEC (R259): the three kinds of counters alone. -/
def decSoftReset (s : State) : State :=
  clearRegs s fun k => match keyIn .dec 0 k with
    | some o => o == 0x230 || (decide (0x1000 ≤ o) && decide (o < 0x4000) &&
        ((o - 0x1000) % 0x60 == 0x14 || (o - 0x1000) % 0x60 == 0x18))
    | none => false

/-- What a publication keeps through a reset of the Real-time island on a part with the pair: its own stNum and the partner's, from
which R258 continues (R254). -/
def GPub.kept (x : GPub) : GPub := { GPub.new with stNum := x.stNum, peerSt := x.peerSt }

/-- A reset of the Real-time island: everything of DEC takes its reset value, the AON copy of BO_SAFE apart (R242, R259); stNum
continues on a part with the pair and starts from 1 on the other (R254). -/
def decIslandReset (s : State) : State :=
  { s with dec := { Dec.reset with
    pub := if pairPart s then (s.dec.pub.filter fun e => e.2.stNum != 0 || e.2.peerSt != 0).map fun e => (e.1, e.2.kept) else [] } }

/-! ### Rows -/

def execDwVal (i : Fin 64) (w : Fin 32) (v : Word) (s : State) : Host.Outcome State Fault Refusal :=
  runOn (fun s => dwStore s i.val w.val 0 v.toNat) s

def execDwSet (i : Fin 64) (w : Fin 32) (v : Word) (s : State) : Host.Outcome State Fault Refusal :=
  runOn (fun s => dwStore s i.val w.val 1 v.toNat) s

def execDwClr (i : Fin 64) (w : Fin 32) (v : Word) (s : State) : Host.Outcome State Fault Refusal :=
  runOn (fun s => dwStore s i.val w.val 2 v.toNat) s

def execHoldExpiry (o : Fin 32) (s : State) : Host.Outcome State Fault Refusal := runOn (fun s => holdExpire s o.val) s

def execGooseRetransmit (p : Fin 256) (s : State) : Host.Outcome State Fault Refusal :=
  runOn (fun s => gpPump (gpRetransmit s p.val) p.val) s

def execBiChange (i : Fin 32) (level : Bool) (dt : Nat) (s : State) : Host.Outcome State Fault Refusal :=
  runOn (fun s => biAccept s i.val level dt) s

end Sys2Proof.Machine
end

