-- ==== Sys2Proof/Machine/Gouge.lean ====
section
/-!
DEFINITION. Gouge: its grain ring (R220, R234), the trigger units (R223 to R226), the record controller (R227 to R232),
records and measurements (R233 to R235), and the record store (R236 to R238).
-/

namespace Sys2Proof.Machine

/-! ### Lists in force -/

/-- The list registers: TWMASK, NUM, DECW0–2, ACH0–127, PQ0–63. -/
def ggeListNow (s : State) : List Nat :=
  [reg s .gge 0 0x58, reg s .gge 0 0x64] ++ (List.range 3).map (fun i => reg s .gge 0 (0x68 + 4 * i)) ++
    (List.range 128).map (fun i => reg s .gge 0 (0x400 + 4 * i)) ++ (List.range 64).map fun i => reg s .gge 0 (0x600 + 4 * i)

def ggAct (s : State) (i : Nat) : Nat := s.gge.act.getD i 0

def ggNA (s : State) : Nat := getBits (ggAct s 1) 0 9
def ggNP (s : State) : Nat := getBits (ggAct s 1) 16 7
def ggND (s : State) : Nat := getBits (ggAct s 1) 24 4

/-- Analogue channels, phasor quantities (QTY, INDEX), decision words and travelling-wave channels listed. -/
def ggAch (s : State) : List Nat := (List.range (ggNA s)).map fun i => getBits (ggAct s (5 + i / 2)) (16 * (i % 2)) 13
def ggPq (s : State) : List (Nat × Nat) :=
  (List.range (ggNP s)).map fun i => (getBits (ggAct s (133 + i)) 16 3, getBits (ggAct s (133 + i)) 0 13)
def ggDw (s : State) : List Nat := (List.range (ggND s)).map fun i => getBits (ggAct s (2 + i / 4)) (8 * (i % 4)) 5
def ggTw (s : State) : List Nat := bitsOf (ggAct s 0) 24

/-- The frame size F (R234). -/
def ggF (s : State) : Nat := 48 + 6 * ggNA s + 6 * ggNP s + 4 * ggND s

def ggeOn (s : State) : Bool := enabled s .gge && isUp s .acq

def ggArm (s : State) : Bool := flag s .gge 0x40 0

/-! ### Phasor quantities (R223) -/

/-- The latency of a quantity's reference grain. -/
def qLat (s : State) (q : Nat × Nat) : Nat :=
  if q.1 < 3 then phLat s (classOf s q.2)
  else match findK s.phx.grp q.2 with
    | some w => phLat s (grpClass s w)
    | none => phLat s false

/-- A phasor quantity at reference grain `r`: value and flags. -/
def qValue (s : State) (q : Nat × Nat) (r : Int) : Int × Nat :=
  if q.1 < 3 then
    let x := phOut s q.2 r
    (if q.1 = 0 then (sqrtRound (x.re * x.re + x.im * x.im).toNat : Int) else if q.1 = 1 then x.df else x.ro, x.fl)
  else
    match (findK s.phx.grp q.2).filter fun w => grpEn w with
    | none => (0, 2)
    | some w =>
      let x := grpOut s q.2 w r
      let mag (v : Raw) : Int :=
        if x.ok then (sqrtRound (toCount v.re * toCount v.re + toCount v.im * toCount v.im).toNat : Int) else 0
      (if q.1 = 3 then mag x.x1 else if q.1 = 4 then mag x.x2 else if q.1 = 5 then mag x.x0
       else if q.1 = 6 then x.df else x.ro, x.fl)

/-- Is a quantity's sample valid? -/
def qValid (q : Nat × Nat) (fl : Nat) : Bool :=
  bit fl 0 && !((q.1 == 1 || q.1 == 2 || q.1 == 6 || q.1 == 7) && bit fl 9)

/-! ### Grain ring (R220, R234) -/

/-- Where the frame of generated grain `n` lies. -/
def ringFrame (n : Nat) : Nat := 0x54300000 + n % 6144 * 2048

/-- The frame of a grain at its instant: label, flags, binary levels and decision words; its analogue values and
quantities read MISSING until their sets are written. -/
def ggeGrain (s : State) (l : Label) : State :=
  if !ggeOn s then s
  else
    let f : GFrame :=
      { label := l, bi := s.dec.bi, bo := BitVec.ofNat 16 (boPin s), trip := BitVec.ofNat 16 (tripPin s), words := s.dec.word }
    let s := { s with gge := { s.gge with frames := (f :: s.gge.frames).take 6144 } }
    let miss (n m : Nat) : List Byte :=
      ((List.range m).map fun i => le 4 0 ++ le 2 (if i < n then 2 else 0)).flatten
    wrBytes s (ringFrame l.n)
      (le 8 l.sec ++ le 4 (l.ns + l.quality * 2 ^ 30) ++ le 2 l.frac ++ le 2 l.k ++ le 4 0 ++
        le 2 (ofBit l.step 0 + ofBit (decide (0 < ggNP s)) 2) ++ List.replicate 10 0 ++ miss (ggNA s) 256 ++ miss (ggNP s) 64 ++
        le 4 f.bi.toNat ++ le 2 f.bo.toNat ++ le 2 f.trip.toNat ++ le 8 0 ++
        padTo 48 ((ggDw s).map fun w => le 4 (f.words.getD w 0).toNat).flatten ++ List.replicate 32 0)

/-- Bits of the flags of a grain's frame set or cleared. -/
def frameFlag (s : State) (n k : Nat) (v : Bool) : State :=
  let a := ringFrame n + 20
  wrNum s a 2 (setBits (rdNum s a 2) k 1 (ofBit v 0))

/-- The analogue values of a released set placed in its frame. -/
def fillSet (s : State) (a : ASet) : State :=
  let b := ringFrame a.label.n
  let s := wrBytes s (b + 32) ((ggAch s).map fun c =>
    let v := chOf a c
    le 4 (ofSigned 32 v.value) ++ le 2 v.flags.toNat).flatten
  let s := if a.window then frameFlag s a.label.n 1 true else s
  { s with gge := { s.gge with filled := a.label.n } }

/-- Every set released since the last look. -/
def ggeFill (s : State) : State :=
  if !ggeOn s then s
  else
    let new := (s.phx.hist.takeWhile fun a => decide (s.gge.filled < a.label.n)).reverse
    let newest : Nat := (s.gge.frames.head?.map fun f => f.label.n).getD 0
    forEach (new.filter fun a => decide (newest < a.label.n + 6144) && decide (a.label.n ≤ newest)) s fillSet

/-- The quantities that the phasor set of grain `n` brings to the frames of their reference grains. -/
def ggeQuant (s : State) (n : Nat) : State :=
  if !ggeOn s then s
  else
    forEach ((ggPq s).mapIdx fun i q => (i, q)) s fun s e =>
      let r : Int := (n : Int) - qLat s e.2
      if r < 1 || !(s.gge.frames.any fun f => decide ((f.label.n : Int) = r)) then s
      else
        let (v, fl) := qValue s e.2 r
        let s := wrBytes s (ringFrame r.toNat + 1568 + 6 * e.1) (le 4 (ofSigned 32 v) ++ le 2 fl)
        frameFlag s r.toNat 2 false

/-! ### Trigger units (R223 to R226) -/

def TrigUnit.new : TrigUnit :=
  { cursor := 0, fresh := true, inState := false, dur := 0, timedOut := false, exc := none, armed := true, quiet := 0,
    recent := [], fireCnt := 0, cfgFault := false, suppRec := false }

def tuOf (s : State) (u : Nat) : TrigUnit := (findK s.gge.unit u).getD TrigUnit.new
def setTu (s : State) (u : Nat) (x : TrigUnit) : State := { s with gge := { s.gge with unit := putK s.gge.unit u x } }

def tgO (u o : Nat) : Nat := 0x1000 + u * 0x20 + o
def tgF (s : State) (u o lsb w : Nat) : Nat := fldI s .gge 0 (tgO u o) lsb w

/-- The configuration of a unit. -/
structure TrigCfg where
  cond : Nat
  src : Nat
  pol : Bool
  wmode : Bool
  index : Nat
  qty : Nat
  hi : Int
  lo : Int
  wmin : Nat
  wmax : Nat
  lag : Nat

def trigCfg (s : State) (u : Nat) : TrigCfg :=
  { cond := tgF s u 0 0 3, src := tgF s u 0 4 2, pol := tgF s u 0 8 1 = 1, wmode := tgF s u 0 9 1 = 1,
    index := tgF s u 4 0 13, qty := tgF s u 4 16 3, hi := toSigned 32 (reg s .gge 0 (tgO u 8)),
    lo := toSigned 32 (reg s .gge 0 (tgO u 0xC)), wmin := tgF s u 0x10 0 16, wmax := tgF s u 0x10 16 16, lag := tgF s u 0x14 0 8 }

/-- CFG_FAULT of a unit (R224). -/
def trigBad (c : TrigCfg) : Bool := decide (1 ≤ c.cond) && decide (c.cond ≤ 4) && c.src != 3 && decide (c.lo > c.hi)

/-- Is x in the band, given that the unit was (R224)? -/
def inBand (c : TrigCfg) (was : Bool) (x : Int) : Bool :=
  if c.src = 3 then (if c.pol then x == 0 else x == 1)
  else if !c.pol then (if was then decide (c.lo ≤ x) else decide (c.hi ≤ x))
  else if was then decide (x ≤ c.hi) else decide (x ≤ c.lo)

/-- The excursion of a runt (R225): past the near threshold, with its extreme. -/
def excStep (c : TrigCfg) (e : Option Int) (x : Int) : Option Int :=
  let past := if c.pol then decide (x ≤ c.hi) else decide (c.lo ≤ x)
  if !past then none
  else match e with
    | none => some x
    | some y => some (if c.pol then min x y else max x y)

/-- A unit's next sample (R224, R225): its state after it, and the value listed when it fires. -/
def unitSample (c : TrigCfg) (u : TrigUnit) (x? : Option Int) : TrigUnit × Option Int :=
  let recent := (x? :: u.recent).take 256
  match x? with
  | none => ({ u with fresh := true, dur := 0, timedOut := false, exc := none, quiet := 0, recent := recent }, none)
  | some x =>
    let on := inBand c (u.inState && !u.fresh) x
    let was := if u.fresh then on else u.inState
    let dur := if !on then 0 else if u.fresh || !was then 1 else min (u.dur + 1) 65535
    let exc := excStep c u.exc x
    let d : Option Int := (u.recent.getD (c.lag - 1) none).map fun y => x - y
    let small : Bool := match d with
      | some d => decide (2 * (d.natAbs : Int) < c.hi)
      | none => false
    let quiet := if u.armed then 0 else if small then u.quiet + 1 else 0
    let slew : Option Int := d.filter fun d => u.armed && decide ((d.natAbs : Int) ≥ c.hi)
    let v : Option Int :=
      if u.fresh || trigBad c then none
      else if c.cond = 1 then (if on && !was then some x else none)
      else if c.cond = 2 then
        let inside := decide (c.wmin ≤ u.dur) && decide (u.dur ≤ c.wmax)
        if was && !on && inside != c.wmode then some (u.dur : Int) else none
      else if c.cond = 3 then
        (match u.exc with
         | some e => if exc.isNone && (if c.pol then decide (c.lo < e) else decide (e < c.hi)) then some e else none
         | none => none)
      else if c.cond = 4 then (if on && !u.timedOut && decide (dur = c.wmax) then some (dur : Int) else none)
      else if c.cond = 5 then slew
      else none
    let fired := v.isSome
    ({ u with
        fresh := false, inState := on, dur := dur, timedOut := on && (u.timedOut || (c.cond == 4 && fired)), exc := exc,
        armed := if c.cond = 5 && fired then false else u.armed || decide (2 ≤ quiet),
        quiet := if c.cond = 5 && fired then 0 else quiet, recent := recent }, v)

/-- A sample of a unit's source: its number, its value when valid, the grain it belongs to, its instant and stamp. -/
structure TrigSample where
  no : Nat
  x : Option Int
  det : Option Int
  grain : Nat
  instant : Int
  stamp : Stamp

/-- The last generated grain not later than an instant in 2^-16 ns. -/
def grainAt (s : State) (t : Int) : Option GFrame := s.gge.frames.find? fun f => decide ((f.label.units : Int) ≤ t)

/-- A binary source at a grain instant (R223). -/
def binAt (f : GFrame) (i : Nat) : Bool :=
  if i < 32 then bit f.bi.toNat i else if i < 48 then bit f.bo.toNat (i - 32) else if i < 64 then bit f.trip.toNat (i - 48)
  else bit (f.words.getD ((i - 64) / 32) 0).toNat ((i - 64) % 32)

/-- The samples of a unit's source after its cursor, oldest first. -/
def trigSamples (s : State) (c : TrigCfg) (cur : Nat) : List TrigSample :=
  if c.src = 0 then
    (s.phx.hist.takeWhile fun a => decide (cur < a.label.n)).reverse.map fun a =>
      let v := chOf a c.index
      { no := a.label.n, x := if bit v.flags.toNat 0 then some v.value else none, det := none, grain := a.label.n,
        instant := a.label.units, stamp := a.label.stamp }
  else if c.src = 1 then
    ((twOf s c.index).recent.takeWhile fun e => decide (cur < e.sn)).reverse.map fun e =>
      let t := tapUnits s c.index e.m
      { no := e.sn, x := e.y, det := e.det, grain := ((grainAt s t).map fun f => f.label.n).getD 0, instant := t,
        stamp := stampOf (t.toNat * 2 ^ 31) e.quality e.epoch }
  else if c.src = 2 then
    let q := (c.qty, c.index)
    let lat := qLat s q
    ((s.phx.hist.filter fun a => decide (a.label.n ≤ s.phx.setK)).takeWhile fun a => decide (cur < a.label.n)).reverse.map
      fun a =>
        let r : Int := (a.label.n : Int) - lat
        let (v, fl) := qValue s q r
        match refLabel s a lat with
        | some l => { no := a.label.n, x := if qValid q fl then some v else none, det := none, grain := l.n,
                      instant := l.units, stamp := l.stamp }
        | none => { no := a.label.n, x := none, det := none, grain := 0, instant := a.label.units, stamp := a.label.stamp }
  else
    (s.gge.frames.takeWhile fun f => decide (cur < f.label.n)).reverse.map fun f =>
      { no := f.label.n, x := some (if binAt f c.index then 1 else 0), det := none, grain := f.label.n, instant := f.label.units,
        stamp := f.label.stamp }

/-- The newest sample of a unit's source. -/
def trigNewest (s : State) (c : TrigCfg) : Nat :=
  if c.src = 0 then (s.phx.hist.head?.map fun a => a.label.n).getD 0
  else if c.src = 1 then (twOf s c.index).taken
  else if c.src = 2 then s.phx.setK
  else (s.gge.frames.head?.map fun f => f.label.n).getD 0

/-- A unit starts afresh at the next sample of its source (R224). -/
def trigFresh (s : State) (u : Nat) : State :=
  setTu s u { tuOf s u with fresh := true, cursor := trigNewest s (trigCfg s u), dur := 0, timedOut := false, exc := none,
                            armed := true, quiet := 0, recent := [] }

/-- A unit's registers changed (R224, R241). -/
def trigWritten (s : State) (u : Nat) : State :=
  let s := trigFresh s u
  let bad := trigBad (trigCfg s u)
  let x := tuOf s u
  let s := setTu s u { x with cfgFault := bad, inState := false }
  if bad && !x.cfgFault then irq s .gge 6 else s

/-! ### Record sizes and the store (R233, R236, R237) -/

def align64 (n : Nat) : Nat := roundUp n 64

def grainOff (s : State) : Nat := align64 (1024 + 32 * (ggNA s + (ggTw s).length))

/-- Total length of a record of so many frames and rows, and where its travelling-wave part begins. -/
def twOff (s : State) (frames : Nat) : Nat := align64 (grainOff s + frames * ggF s)
def recLen (s : State) (frames rows : Nat) : Nat := twOff s frames + rows * 2 * (ggTw s).length

/-- Pages of the record area, after the 256 KiB of the index. -/
def storePages : Nat := 262080

def storeBase (s : State) : Nat := dramBase + fld s .gge 0x60 0 3 * 2 ^ 30

def pageAddr (s : State) (p : Nat) : Nat := storeBase s + 0x40000 + p * 4096

def recEntry (s : State) (num : Nat) : Nat := storeBase s + (num - 1) % 4096 * 64

/-- Where a record of so many pages goes, when the room is free (R236, R237). -/
def storePlace (s : State) (pages : Nat) : Option Nat :=
  if s.gge.recs.length ≥ 4096 then none
  else match s.gge.recs.head?, s.gge.recs.getLast? with
    | some o, some n =>
      let e := n.off + n.pages
      if o.off ≤ n.off then
        (if e + pages ≤ storePages then some e else if pages ≤ o.off then some 0 else none)
      else if e + pages ≤ o.off then some e else none
    | _, _ => if pages ≤ storePages then some 0 else none

/-- Free pages of the store. -/
def storeFree (s : State) : Nat :=
  match s.gge.recs.head?, s.gge.recs.getLast? with
  | some o, some n =>
    let e := n.off + n.pages
    if o.off ≤ n.off then storePages - e + o.off else o.off - e
  | _, _ => storePages

/-- An index entry (R236). -/
def entryBytes (num st prim flags off len : Nat) (t : Stamp) (frames rows : Nat) : List Byte :=
  withCrc (le 4 num ++ le 1 st ++ le 1 prim ++ le 2 flags ++ le 4 off ++ le 4 len ++ t.bytes ++ le 4 frames ++ le 4 rows ++
    List.replicate 20 0)

/-- The state of an entry rewritten, its CRC kept right. -/
def entryState (s : State) (num st : Nat) : State :=
  let a := recEntry s num
  let b := rdBytes s a 60
  wrBytes s a (withCrc (b.take 4 ++ le 1 st ++ b.drop 5))

/-- Is the record being read by a command? -/
def beingRead (s : State) (num : Nat) : Bool := s.gge.reading == some num

/-- The oldest record deleted from the store. -/
def dropOldest (s : State) : State :=
  match s.gge.recs with
  | [] => s
  | h :: rest => { entryState s h.num 0 with gge := { s.gge with recs := rest } }

/-- STORE_MODE 1: the oldest records are deleted until there is room (R237). -/
def makeRoom : (fuel : Nat) → State → (pages : Nat) → State × Option Nat
  | 0, s, pages => (s, storePlace s pages)
  | n + 1, s, pages =>
    match storePlace s pages with
    | some p => (s, some p)
    | none =>
      match s.gge.recs with
      | [] => (s, none)
      | h :: _ => if h.recording || beingRead s h.num then (s, none)
        else makeRoom n (irq (cnt (dropOldest s) .gge 0 0xAC) .gge 5) pages

/-- The number after a record number (R233). -/
def nextRec (n : Nat) : Nat := if n ≥ 0xFFFFF000 then 1 else n + 1

/-! ### Records (R228 to R235) -/

/-- The order of the trigger list: instant, then unit. -/
def firingBefore (a b : Firing) : Bool := decide (a.instant < b.instant) || (a.instant == b.instant && decide (a.unit < b.unit))

def insertFiring : List Firing → Firing → List Firing
  | [], f => [f]
  | g :: l, f => if firingBefore f g then f :: g :: l else g :: insertFiring l f

/-- The primary unit: the lowest of those in the sample of the opening firing (R228). -/
def primaryOf (r : GRec) : Nat :=
  (r.firings.filter fun f => f.same).foldl (fun a f => min a f.unit) 64

/-- Record flags that stand in the controller (R233). -/
def recFlags (r : GRec) (step window inc : Bool) : Nat :=
  ofBit r.preShort 0 + ofBit r.twShort 1 + ofBit step 2 + ofBit r.twCut 3 + ofBit r.more 4 + ofBit r.limited 5 +
    ofBit window 6 + ofBit inc 7 + ofBit (primaryOf r == 64) 8

/-- The index entry of the open record rewritten. -/
def openEntry (s : State) (r : GRec) (st flags len : Nat) : State :=
  wrBytes s (recEntry s r.num)
    (entryBytes r.num st (primaryOf r) flags (0x40000 + r.off * 4096) len r.trigger r.framesDone r.rowsDone)

/-- A frame of the grain ring as the record holds it (R234). -/
def recFrame (s : State) (r : GRec) (n : Nat) : List Byte :=
  let b := rdBytes s (ringFrame n) 2048
  b.take 16 ++ le 4 (ofSigned 32 ((n : Int) - r.gt)) ++ slice b 20 12 ++ slice b 32 (6 * ggNA s) ++ slice b 1568 (6 * ggNP s) ++
    slice b 1952 16 ++ slice b 1968 (4 * ggND s)

/-- The next grain of the record to be copied. -/
def GRec.nextGrain (r : GRec) : Nat := r.gt - r.preTrue + r.framesDone

/-- Frames copied up to grain `upto`; the committed counts follow every 64 KiB (R236). -/
def copyFrames : (fuel : Nat) → State → GRec → (upto : Nat) → State × GRec
  | 0, s, r, _ => (s, r)
  | k + 1, s, r, upto =>
    let n := r.nextGrain
    if upto < n then (s, r)
    else
      let at0 := r.framesDone * ggF s
      let s := wrBytes s (pageAddr s r.off + grainOff s + at0) (recFrame s r n)
      let r := { r with framesDone := r.framesDone + 1 }
      let s := if at0 / 65536 ≠ r.framesDone * ggF s / 65536 then openEntry s r 1 (recFlags r false false false) (r.pages * 4096) else s
      copyFrames k s r upto

/-- A word of a travelling-wave row: that of the ring when the channel has taken the sample, else an invalid one. -/
def twWord (s : State) (c m : Nat) : Nat :=
  let x := twOf s c
  if m < x.next ∧ x.next ≤ m + 65536 then rdNum s (tapAddr m c) 2 else 0x2000

/-- Rows of the part from first to last. -/
def GRec.rows (r : GRec) : Nat := (r.twLast - r.twFirst + 1).toNat

/-- Rows copied up to sample `upto`; the committed counts follow every 64 KiB (R236). -/
def copyRows : (fuel : Nat) → State → GRec → (upto : Int) → State × GRec
  | 0, s, r, _ => (s, r)
  | k + 1, s, r, upto =>
    let m := r.twFirst + r.rowsDone
    if upto < m || decide (r.rows ≤ r.rowsDone) || ggTw s = [] then (s, r)
    else
      let w := ((ggTw s).map fun c => le 2 (twWord s c m.toNat)).flatten
      let len := 2 * (ggTw s).length
      let a := pageAddr s r.off + twOff s (r.preTrue + r.limit + 1) + r.rowsDone * len
      let s := wrBytes s a w
      let r := { r with rowsDone := r.rowsDone + 1 }
      let s := if (r.rowsDone - 1) * len / 65536 ≠ r.rowsDone * len / 65536 then
          openEntry s r 1 (recFlags r false false false) (r.pages * 4096) else s
      copyRows k s r upto

def setRec (s : State) (r : Option GRec) : State := { s with gge := { s.gge with opened := r } }

/-- The last travelling-wave sample that every listed channel whose tap runs has taken; with none, the last whose time has passed. -/
def twTaken (s : State) : Int :=
  match (ggTw s).filter fun c => tapRuns s c with
  | [] => (tapNow s : Int) - 1
  | c :: r => r.foldl (fun (a : Int) d => min a (((twOf s d).next : Int) - 1)) (((twOf s c).next : Int) - 1)

/-- The transfer that goes on while a record is open (R222): rows first, then frames old enough to be whole. -/
def ggeTransfer (s : State) : State :=
  match s.gge.opened with
  | none => s
  | some r =>
    if isDown s .memory then s
    else
      let (s, r) := copyRows 60000 s r (twTaken s)
      let newest : Nat := (s.gge.frames.head?.map fun f => f.label.n).getD 0
      let (s, r) := copyFrames 6144 s r (min (newest - 2048) r.last)
      setRec s (some r)

/-- The trigger list with one more firing (R228, R230): up to 16, but every firing in the sample of the opening one, which may displace
the last of another sample, and among 17 or more of that sample the last unit. The flag says that one was left out. -/
def listOf (l : List Firing) (f : Firing) : List Firing × Bool :=
  if l.length < 16 then (insertFiring l f, false)
  else if !f.same then (l, true)
  else
    match (l.filter fun g => !g.same).getLast? with
    | some g => (insertFiring (l.erase g) f, true)
    | none => ((insertFiring l f).take 16, true)

/-- A firing in RECORDING (R230). -/
def listFiring (s : State) (r : GRec) (f : Firing) : State :=
  let own := ((grainAt s f.instant).map fun g => g.label.n).getD r.gt
  let want := own + r.post
  let lim := r.gt + r.limit
  let f := { f with same := f.instant == r.instant }
  let (_, out) := listOf r.firings f
  let after := flag s .gge 0x40 2 && decide (r.instant < f.instant) && !(out && !f.same)
  let move := after && decide (r.last < min want lim)
  let s := setRec s (some { r with
    firings := (listOf r.firings { f with moved := move }).1, more := r.more || out,
    last := if move then min want lim else r.last, limited := r.limited || (after && decide (lim < want)) })
  if out then cnt s .gge 0 0xA4 else s

/-- A firing refused for want of room (R237). -/
def refuseFiring (s : State) : State :=
  let s := irq (cnt s .gge 0 0xA8) .gge 4
  if s.gge.state = .blocked then s
  else evt { s with gge := { s.gge with state := .blocked, full := true } } 0x0C12 1 0 0 0

/-- A firing suppressed in REARM (R231). -/
def suppressFiring (s : State) (u : Nat) : State :=
  let s := irq (cnt s .gge 0 0xA4) .gge 3
  let s := if u < 64 then cnt s .gge 0 (tgO u 0x1C) else s
  let s := { s with gge := { s.gge with suppSince := s.gge.suppSince + 1 } }
  let x := tuOf s u
  if x.suppRec then s else evt (setTu s u { x with suppRec := true }) 0x0C11 0 u 0 0

/-- A firing reaches the controller (R227). -/
def firingArrives (s : State) (f : Firing) : State :=
  match s.gge.state with
  | .disarmed => s
  | .armed => { s with gge := { s.gge with arrived := s.gge.arrived ++ [f] } }
  | .recording => (match s.gge.opened with
    | some r => listFiring s r f
    | none => s)
  | .rearm => suppressFiring s f.unit
  | .blocked => refuseFiring s

/-- The unit's bit, and the mark of a firing, in the frame of a grain. -/
def markFrame (s : State) (u n : Nat) (on fired : Bool) : State :=
  if !(s.gge.frames.any fun f => f.label.n == n) then s
  else
    let a := ringFrame n + 1960
    let s := if on then wrNum s a 8 (Nat.lor (rdNum s a 8) (2 ^ u)) else s
    if fired then frameFlag s n 3 true else s

/-- A unit evaluates the samples of its source since its last look (R224 to R226). -/
def triggerUnit (s : State) (u : Nat) : State :=
  if !ggeOn s then s
  else
    let s := ggeFill s
    let c := trigCfg s u
    let c := if c.src = 1 && s.fuse.variant == .s then { c with cond := 0 } else c
    forEach (trigSamples s c (tuOf s u).cursor) s fun s e =>
      let (x, v) := unitSample c (tuOf s u) e.x
      let v := if c.src = 1 && c.cond == 5 then e.det else v
      let fires := v.isSome && s.gge.state != .disarmed
      let x := { x with cursor := e.no, fireCnt := if fires then (x.fireCnt + 1) % 65536 else x.fireCnt }
      let s := markFrame (setTu s u x) u e.grain (x.inState && e.x.isSome) fires
      match v with
      | some v => firingArrives s { unit := u, cond := c.cond, src := c.src, instant := e.instant, stamp := e.stamp, value := v,
                                    moved := false, same := false }
      | none => s

/-- The manual trigger (R240): unit 64 fires at the present instant, on the grain of that instant. -/
def manualFiring (s : State) : State :=
  let t : Int := ((nowStamp s).units : Int)
  let s := match grainAt s t with
    | some g => if s.gge.state = .disarmed then s else markFrame s 64 g.label.n false true
    | none => s
  firingArrives s { unit := 64, cond := 0, src := 0, instant := t, stamp := nowStamp s, value := 0, moved := false, same := false }

/-- The travelling-wave anchor (R228): the last sample of the lowest listed channel not later than the instant. -/
def twAnchorOf (s : State) (t : Int) : Int :=
  let sk := acSkew s ((ggTw s).headD 0)
  (t * 4608 / 65536 / 625 + 2688 + sk) / 2048

/-- The largest record that may open with so many frames before its trigger, in pages. -/
def reservePages (s : State) (pre : Nat) : Nat :=
  let tw := reg s .gge 0 0x54
  (recLen s (pre + reg s .gge 0 0x4C + 1) (getBits tw 0 14 + getBits tw 16 16) + 4095) / 4096

/-- A firing opens a record (R228, R229, R237). -/
def openRecord (s : State) (f : Firing) : State :=
  match grainAt s f.instant with
  | none => s
  | some g =>
    let gt := g.label.n
    let pre := reg s .gge 0 0x44
    let limit := reg s .gge 0 0x4C
    let post := reg s .gge 0 0x48
    let preTrue := min pre (gt - s.gge.histFrom)
    let pages := reservePages s preTrue
    let (s, p?) := if flag s .gge 0x40 1 then makeRoom 4097 s pages else (s, storePlace s pages)
    match p? with
    | none => refuseFiring s
    | some off =>
      let tw := reg s .gge 0 0x54
      let ma := twAnchorOf s f.instant
      let last := ma + getBits tw 16 16 - 1
      let first := if s.gge.twFresh then last + 1
        else max (ma - getBits tw 0 14) (max (s.gge.twHistFrom : Int) ((s.gge.twNewest : Int) - 57600))
      let num := s.gge.nextNum
      let r : GRec :=
        { num := num, trigger := f.stamp, instant := f.instant, gt := gt, gtK := g.label.k, pre := pre, post := post, limit := limit,
          preTrue := preTrue, last := gt + min post limit, firings := [{ f with same := true, moved := false }], more := false,
          limited := decide (limit < post), preShort := decide (preTrue < pre),
          twShort := ggTw s != [] && decide (ma - first < getBits tw 0 14), twCut := false, twPre := getBits tw 0 14,
          twFirst := first, twLast := last, twAnchor := ma, off := off, pages := pages, supp := s.gge.suppSince, framesDone := 0,
          rowsDone := 0 }
      let s := { s with gge := { s.gge with
        state := .recording, nextNum := nextRec num, suppSince := 0,
        recs := s.gge.recs ++ [{ num := num, off := off, pages := pages, recording := true }] } }
      let s := if preTrue < pre then cnt s .gge 0 0xB0 else s
      let s := openEntry s r 1 (recFlags r false false false) (pages * 4096)
      ggeTransfer (setRec (irq (cnt s .gge 0 0xA0) .gge 1) (some r))

/-- RECORD_OPEN: the first firing that has arrived opens a record, those after it are in the controller (R227). -/
def recordOpen (s : State) : State :=
  match s.gge.arrived, s.gge.state with
  | f :: rest, .armed =>
    let s := { s with gge := { s.gge with arrived := [] } }
    let s := ggeFill s
    forEach rest (openRecord s f) firingArrives
  | _, _ => s

/-! ### Measurements (R235) -/

/-- Nearest integer to a rational, ties away from zero. -/
def ratRound (x : Rat) : Int := roundAway x.num x.den

/-- Time at which a line through two samples passes a level. -/
def crossAt (a b : Rat × Rat) (l : Rat) : Rat := a.1 + (b.1 - a.1) * (l - a.2) / (b.2 - a.2)

/-- The upward crossings of a level, in time order. -/
def upCross (l : Rat) : List (Rat × Rat) → List Rat
  | a :: b :: r => (if a.2 < l ∧ l ≤ b.2 then [crossAt a b l] else []) ++ upCross l (b :: r)
  | _ => []

/-- The measurement entry of a channel: valid samples before the trigger and in the window as (time in ns from the trigger,
value), and the first wavefront. -/
def measEntry (ch part : Nat) (pre win : List (Rat × Int)) (wave : Option Int) : List Byte :=
  let out (fl rms : Nat) (peak tp : Int) (amp : Nat) (per rise : Nat) : List Byte :=
    le 2 ch ++ le 1 part ++ le 1 (fl + ofBit (part == 1 && wave.isNone) 3) ++ le 4 rms ++ le 4 (ofSigned 32 peak) ++
      le 4 (ofSigned 32 tp) ++ le 4 amp ++ le 4 per ++ le 4 rise ++
      le 4 (if part = 0 then 0x80000000 else ofSigned 32 (wave.getD 0))
  match win with
  | [] => out 7 0 0 0 0 0 0
  | h :: t =>
    let n := win.length
    let sq := win.foldl (fun a e => a + e.2 * e.2) 0
    -- √(sq / n) to nearest: 2 √(sq/n) + 1, halved
    let rms := (Nat.sqrt (4 * sq.toNat / n) + 1) / 2
    let pk := t.foldl (fun (a : Rat × Int) e => if a.2.natAbs < e.2.natAbs then e else a) h
    let mx := t.foldl (fun a e => max a e.2) h.2
    let mn := t.foldl (fun a e => min a e.2) h.2
    let mean : Rat := (win.foldl (fun a e => a + e.2) 0 : Int) / (n : Rat)
    let rw : List (Rat × Rat) := win.map fun e => (e.1, (e.2 : Rat))
    let per : Option Nat := match upCross mean rw with
      | a :: b :: _ => some (ratRound (b - a)).toNat
      | _ => none
    let base16 := (pre.reverse.take 16)
    let rise : Option Nat :=
      if base16.length < 16 then none
      else
        let b : Rat := (base16.foldl (fun a e => a + e.2) 0 : Int) / (16 : Rat)
        let step : Rat := (pk.2 : Rat) - b
        if step = 0 then none
        else
          let u : List (Rat × Rat) := ((base16.take 1) ++ win).map fun e => (e.1, ((e.2 : Rat) - b) / step)
          match upCross (1 / 10) u, upCross (9 / 10) u with
          | a :: _, c :: _ => if a ≤ c then some (ratRound (c - a)).toNat else none
          | _, _ => none
    out (ofBit per.isNone 1 + ofBit rise.isNone 2) rms pk.2 (ratRound pk.1) (ratRound (((mx - mn : Int) : Rat) / 2)).toNat
      (per.getD 0) (rise.getD 0)

/-- Valid samples of analogue channel `i` of the list in the record's frames from grain `lo` to `hi`. -/
def recSamples (s : State) (r : GRec) (i lo hi : Nat) : List (Rat × Int) :=
  let f0 := r.gt - r.preTrue
  ((List.range (hi + 1 - lo)).map fun j => lo + j).filterMap fun n =>
    if n < f0 ∨ f0 + r.framesDone ≤ n then none
    else
      let a := pageAddr s r.off + grainOff s + (n - f0) * ggF s
      let fl := rdNum s (a + 36 + 6 * i) 2
      if !bit fl 0 then none
      else
        let w := rdNum s (a + 8) 4
        let t : Int := ((rdNum s a 8 * 1000000000 + w % 2 ^ 30) * 65536 + rdNum s (a + 12) 2 : Nat)
        some (((t - r.instant : Int) : Rat) / 65536, toSigned 32 (rdNum s (a + 32 + 6 * i) 4))

/-- Valid samples of travelling-wave channel `c`, column `j`, from sample `lo` on for `n`, out of rows held at `base`. -/
def rowSamples (s : State) (r : GRec) (base c j lo n : Nat) : List (Rat × Int) :=
  let nt := (ggTw s).length
  (List.range n).filterMap fun i =>
    let w := rdNum s (base + (lo + i) * 2 * nt + 2 * j) 2
    if bit w 13 then none
    else
      let m := (r.twFirst + lo + i).toNat
      some (((tapTime s c m : Int) : Rat) / 4608 - (r.instant : Rat) / 65536, tapValue s c (w % 8192))

/-- The measurement block. -/
def measBlock (s : State) (r : GRec) (base : Nat) : List Byte :=
  let len := fld s .gge 0x5C 0 12
  let a := (ggAch s).mapIdx fun i c =>
    measEntry c 0 (recSamples s r i (r.gt - r.preTrue) (r.gt - 1)) (recSamples s r i r.gt (r.gt + len - 1)) none
  let before := min (r.twAnchor - r.twFirst).toNat r.rowsDone
  let t := (ggTw s).mapIdx fun j c =>
    let waves := (twOf s c).waves.filter fun e => decide (r.twFirst ≤ (e.1 : Int)) && decide ((e.1 : Int) < r.twFirst + r.rowsDone)
    measEntry c 1 (rowSamples s r base c j 0 before) (rowSamples s r base c j before (r.rowsDone - before))
      (waves.getLast?.map fun e => ratRound ((e.2 : Rat) - (r.instant : Rat) / 65536))
  (a ++ t).flatten

/-- The serial of the committed configuration image (R40). -/
def cfgSerial (s : State) : Nat :=
  match s.nv.cfg with
  | some i => rdNum s (i.addr + 20) 4
  | none => 0

/-- The header (R233). -/
def recHeader (s : State) (r : GRec) (flags : Nat) : List Byte :=
  let prim := primaryOf r
  let nt := (ggTw s).length
  let t0 : Stamp := if r.rowsDone = 0 then ⟨0, 0, 0, 0, 0, false⟩ else
    let t := tapUnits s ((ggTw s).headD 0) r.twFirst.toNat
    stampOf (t.toNat * 2 ^ 31) r.trigger.quality r.trigger.epoch
  let list := r.firings.map fun f =>
    le 1 f.unit ++ le 1 (if f.unit = 64 then 0 else f.cond + f.src * 16) ++
      le 1 (ofBit (f.same && f.unit == prim) 0 + ofBit f.same 1 + ofBit f.moved 2) ++ le 1 0 ++
      le 8 (ofSigned 64 (roundAway (f.instant - r.instant) 65536)) ++ le 4 (ofSigned 32 f.value)
  le 4 0x43524747 ++ le 2 1 ++ le 2 flags ++ le 4 r.num ++ le 1 prim ++ le 1 r.firings.length ++ le 2 r.gtK ++ r.trigger.bytes ++
    le 4 r.pre ++ le 4 r.preTrue ++ le 4 r.framesDone ++ le 2 (ggF s) ++ le 2 (ggNA s) ++ le 1 (ggNP s) ++ le 1 (ggND s) ++
    le 1 nt ++ le 1 0 ++ le 2 r.twPre ++ le 2 (min (r.twAnchor - r.twFirst).toNat r.rowsDone) ++ le 4 r.rowsDone ++
    le 4 (ggAct s 0 % 2 ^ 24) ++ t0.bytes ++
    ((List.range 12).map fun i => BitVec.ofNat 8 ((ggDw s).getD i 0xFF)) ++ le 4 r.supp ++ le 4 (fld s .gge 0x5C 0 12) ++ le 4 1024 ++
    le 4 (grainOff s) ++ le 4 (twOff s r.framesDone) ++ le 4 (recLen s r.framesDone r.rowsDone) ++ le 4 (cfgSerial s) ++
    le 4 s.nv.startCount.toNat ++ le 4 s.fuse.lot.toNat ++ padTo 512 ((ggAch s).map (le 2)).flatten ++
    padTo 128 ((ggPq s).map fun q => le 2 (q.2 + q.1 * 2 ^ 13)).flatten ++ padTo 256 list.flatten

/-! ### Closing (R231, R232) -/

/-- Lists changed while the record was open apply from now on (R241), and start their histories anew (R229). -/
def ggeLatch (s : State) : State :=
  let now := ggeListNow s
  if now = s.gge.act then s
  else
    let grain := now.drop 1 != s.gge.act.drop 1
    let tw := now.headD 0 != ggAct s 0
    { s with gge := { s.gge with
      act := now, histFrom := if grain then s.tim.grains + 1 else s.gge.histFrom, twFresh := s.gge.twFresh || tw } }

/-- The record leaves the controller: rows moved behind the frames, measurements, header, entry, pages (R231 to R237). -/
def finishRecord (s : State) (r : GRec) (inc : Bool) : State :=
  let base := pageAddr s r.off
  let from0 := base + twOff s (r.preTrue + r.limit + 1)
  let meas := measBlock s r from0
  let rows := rdBytes s from0 (r.rowsDone * 2 * (ggTw s).length)
  let fl (k : Nat) : Bool := (List.range r.framesDone).any fun i => bit (rdNum s (base + grainOff s + i * ggF s + 20) 2) k
  let flags := recFlags r (fl 0) (fl 1) inc
  let len := recLen s r.framesDone r.rowsDone
  let pages := (len + 4095) / 4096
  let s := wrBytes s (base + twOff s r.framesDone) rows
  let s := wrBytes (wrBytes s base (recHeader s r flags)) (base + 1024) meas
  let s := openEntry s r (if inc then 3 else 2) flags len
  let s := { s with gge := { s.gge with
    opened := none,
    recs := s.gge.recs.map fun h => if h.num = r.num then { h with pages := pages, recording := false } else h,
    histFrom := max s.gge.histFrom (r.last + 1),
    twHistFrom := if r.rowsDone = 0 then s.gge.twHistFrom else max s.gge.twHistFrom (r.twFirst.toNat + r.rowsDone),
    unit := s.gge.unit.map fun e => (e.1, { e.2 with suppRec := false }) } }
  let s := evt (irq s .gge 2) 0x0C10 0 (primaryOf r) flags r.num
  ggeLatch s

/-- Is the last frame of the open record complete, and its last sample taken (R231)? -/
def recComplete (s : State) (r : GRec) : Bool :=
  let set : Bool := match s.svs.lastRel with
    | some l => decide (r.last ≤ l.n) && decide (r.last ≤ s.gge.filled)
    | none => false
  let lat := (ggPq s).foldl (fun a q => max a (qLat s q)) 0
  set && (ggPq s == [] || !(enabled s .phx && isUp s .phasor) || decide (r.last + lat ≤ s.phx.setK)) &&
    (ggTw s == [] || decide (r.rows ≤ r.rowsDone) || decide (r.twLast ≤ twTaken s) || decide (r.twLast < (tapNow s : Int)))

/-- RECORD_CLOSE. -/
def recordClose (s : State) : State :=
  let s := ggeFill s
  match s.gge.opened with
  | none => s
  | some r =>
    if !ggeOn s || !recComplete s r then s
    else
      let (s, r) := copyRows 60000 s r r.twLast
      let (s, r) := copyFrames 600000 s r r.last
      let s := finishRecord s r false
      { s with gge := { s.gge with state := .rearm } }

/-- ARM written 0, or a reset of the Acquisition island, in RECORDING (R232). -/
def abortRecord (s : State) : State :=
  match s.gge.opened with
  | none => s
  | some r => finishRecord s r true

/-- The end of REARM (R231). -/
def rearmExpiry (s : State) : State :=
  if s.gge.state = .rearm then { s with gge := { s.gge with state := .armed } } else s

/-- After a deletion, BLOCKED ends when there is room for a record (R237). -/
def unblock (s : State) : State :=
  if s.gge.state = .blocked ∧ (storePlace s (reservePages s (reg s .gge 0 0x44))).isSome then
    { s with gge := { s.gge with state := .armed, full := false } }
  else s

/-- Deletion of the oldest records that are not RECORDING (R240): how many were deleted. -/
def deleteRecords : (fuel : Nat) → State → Nat → State × Nat
  | 0, s, d => (s, d)
  | n + 1, s, d =>
    match s.gge.recs with
    | h :: _ => if h.recording then (s, d) else deleteRecords n (dropOldest s) (d + 1)
    | [] => (s, d)

/-- A timebase step (R229, R232), before the travelling-wave channels take notice of it: the rows taken are copied, a part not yet
whole ends, and the history starts anew. -/
def ggeStep (s : State) : State :=
  let s := match s.gge.opened with
    | some r =>
      if isDown s .memory then s
      else
        let (s, r) := copyRows 60000 s r (max (twTaken s) (min (s.gge.twNewest : Int) r.twLast))
        if ggTw s = [] || r.rows ≤ r.rowsDone then setRec s (some r)
        else setRec s (some { r with twLast := r.twFirst + r.rowsDone - 1, twCut := true })
    | none => s
  { s with gge := { s.gge with twFresh := true } }

/-! ### Store at a start and at a new base (R238) -/

/-- The store empty: no record is open, and there is room. -/
def storeEmpty (s : State) : State :=
  let st := if s.gge.state = .recording ∨ s.gge.state = .blocked then GgeState.armed else s.gge.state
  { s with gge := { s.gge with recs := [], opened := none, full := false, reading := none, state := st } }

/-- A write that changed BASE_GIB (R238): no entry of the index at the new base is in use. -/
def storeMoved (s : State) : State :=
  evt (storeEmpty (zeroRange s (storeBase s) (storeBase s + 262144))) 0x0C13 1 0 0 0

/-- Does the index in force name the records that the module knows, none of them left RECORDING? -/
def storeKnown (s : State) : Bool := s.gge.recs.all fun h => !h.recording && rdNum s (recEntry s h.num) 4 == h.num

/-- The store in the place that the committed image gives it, as `t` has it after its application: a restored BASE_GIB is no
change (R238, R400). -/
def baseRestored (s t : State) : State := setFld s .gge 0x60 0 3 (fld t .gge 0x60 0 3)

/-- The index read at a start: number, state, CRC good, of each entry that was ever written. Where memory lists no byte of the
index every entry is of zeros. -/
def indexRead (s : State) : List (Nat × Nat × Nat × Bool) :=
  let lo := storeBase s
  let listed := (s.wr ++ s.mem).any fun c => decide (lo ≤ c.1) && decide (c.1 < lo + 262144)
  (if listed then List.range 4096 else []).filterMap fun i =>
    let b := rdBytes s (storeBase s + i * 64) 64
    if b.all fun x => x == 0 then none else some (i, numAt b 0 4, numAt b 4 1, crcOk b)

/-- Is record number `a` after `b`, the wrap of R233 regarded? -/
def recAfter (a b : Nat) : Bool :=
  if a < 0x80000000 ∧ b ≥ 0xFFFF0000 then true else if b < 0x80000000 ∧ a ≥ 0xFFFF0000 then false else decide (b < a)

/-- The check of every index entry at a start. -/
def ggeStart (s : State) : State :=
  let es := indexRead s
  let good := es.filter fun e => e.2.2.2
  let live := good.filter fun e => e.2.2.1 != 0
  let newest := good.foldl (fun a e => if recAfter e.2.1 a then e.2.1 else a) ((good.head?.map fun e => e.2.1).getD 0)
  let pos := (newest - 1) % 4096
  let age (i : Nat) : Nat := (pos + 4096 - i % 4096) % 4096
  -- an entry that fails takes every older one with it
  let cut := (es.filter fun e => !e.2.2.2).foldl (fun a e => min a (age e.1)) 4096
  let keep := live.filter fun e => decide (age e.1 < cut)
  let gone := es.filter fun e => !(keep.any fun k => k.1 == e.1)
  let s := forEach gone s fun s e => wrBytes s (storeBase s + e.1 * 64) (List.replicate 64 0)
  let s := forEach (keep.filter fun e => e.2.2.1 == 1) s fun s e => entryState s e.2.1 3
  let held (e : Nat × Nat × Nat × Bool) : Held :=
    let a := storeBase s + e.1 * 64
    { num := e.2.1, off := (rdNum s (a + 8) 4 - 0x40000) / 4096, pages := (rdNum s (a + 12) 4 + 4095) / 4096, recording := false }
  let sorted := ((List.range 4096).map fun k => 4095 - k).filterMap fun k => (keep.find? fun e => age e.1 == k).map held
  let s := { s with gge := { s.gge with recs := sorted, nextNum := if good = [] then 1 else nextRec newest } }
  if s.nv.cfg.isSome && keep = [] then evt s 0x0C13 1 0 0 0 else s

/-! ### Registers -/

/-- ARM rose or fell (R227, R229, R232). -/
def armChanged (s : State) (on : Bool) : State :=
  if on then
    let s := { s with gge := { s.gge with
      state := .armed, arrived := [], histFrom := s.tim.grains + 1, twFresh := true } }
    forEach (List.range 64) s fun s u => trigFresh s u
  else
    let s := abortRecord s
    { s with gge := { s.gge with state := .disarmed, full := false, arrived := [] } }

/-- After a write to a register of GGE. -/
def ggeWritten (s : State) (o old : Nat) : State :=
  let new := reg s .gge 0 o
  if o = 0x40 then (if bit old 0 = bit new 0 then s else armChanged s (bit new 0))
  else if o = 0x60 then (if old % 8 = new % 8 then s else storeMoved s)
  else if o = 0x58 ∨ o = 0x64 ∨ (0x68 ≤ o ∧ o < 0x74) ∨ (0x400 ≤ o ∧ o < 0x700) then
    (if s.gge.opened.isSome then s else ggeLatch s)
  else if 0x1000 ≤ o ∧ o < 0x1800 then (if old = new then s else trigWritten s ((o - 0x1000) / 0x20))
  else s

/-- The registers of GGE computed at the read. -/
def ggeRead (s : State) (o : Nat) : Option Nat :=
  if o = 0x80 then some (ofBit s.gge.full 0)
  else if o = 0x84 then some ((s.gge.recs.getLast?.map fun h => h.num).getD 0)
  else if o = 0x88 then some ((s.gge.recs.head?.map fun h => h.num).getD 0)
  else if o = 0x8C then some s.gge.recs.length
  else if o = 0x90 then some (storeFree s)
  else if 0x1000 ≤ o ∧ o < 0x1800 ∧ (o - 0x1000) % 0x20 = 0x18 then
    let x := tuOf s ((o - 0x1000) / 0x20)
    some (ofBit x.inState 0 + ofBit x.cfgFault 1 + x.fireCnt * 65536)
  else none

/-- Bits [31:8] of GGE PG_STAT (R241). -/
def ggeStat (s : State) : Nat :=
  (match s.gge.state with
   | .disarmed => 0 | .armed => 1 | .recording => 2 | .rearm => 3 | .blocked => 4) * 256 + ofBit s.gge.full 11

/-- A reset that stops the transfer engine: the entry of an open record stays RECORDING until the next start (R232). -/
def ggeHalt (s : State) : State := { s with gge := { Gge.reset with recs := s.gge.recs, nextNum := s.gge.nextNum } }

/-- A reset of the Acquisition island (R232, R241): the record in progress closes, the store stays. Without the Memory island it cannot
close. -/
def ggeIslandReset (s : State) : State :=
  if isDown s .memory then ggeHalt s else ggeHalt (abortRecord s)

/-- The phasor engine takes the oldest released set it has not taken (R166); meters and Gouge follow it (R189, R221). -/
def phasorNext (s : State) : State :=
  if !enabled s .phx || isDown s .phasor || s.phx.todo = 0 then s
  else
    match s.phx.hist[s.phx.todo - 1]? with
    | none => { s with phx := { s.phx with todo := 0 } }
    | some a =>
      let s := { s with phx := { s.phx with todo := s.phx.todo - 1 } }
      let s := energySet (phasorSet s a) a
      ggeQuant (ggeFill s) a.label.n

/-! ### Rows -/

def execTriggerFiring (u : Fin 64) (s : State) : Host.Outcome State Fault Refusal := runOn (fun s => triggerUnit s u.val) s

def execRecordOpen (s : State) : Host.Outcome State Fault Refusal :=
  runOn (fun s => if ggeOn s && isUp s .memory then recordOpen s else s) s

def execRecordClose (s : State) : Host.Outcome State Fault Refusal :=
  runOn (fun s => if isUp s .memory then recordClose s else s) s

def execGgeRearmExpiry (s : State) : Host.Outcome State Fault Refusal := runOn (fun s => rearmExpiry s) s

end Sys2Proof.Machine
end

