-- ==== Sys2Proof/Machine/SafetyIsland.lean ====
section
/-!
DEFINITION. The safety island: positions and encoder (R305), the gates of its outputs (R306, R307), operations (R308 to
R310), diagnostics, self-test and proof (R311, R312), faults and its states (R313 to R315).
-/

namespace Sys2Proof.Machine

/-! ### Registers -/

def sdO (d o : Nat) : Nat := 0x100 + d * 0x40 + o

def sdF (s : State) (d o lsb w : Nat) : Nat := fldI s .sfi 0 (sdO d o) lsb w

def drOf (s : State) (d : Nat) : Drive := s.sfi.drive.getD d Drive.reset

def setDr (s : State) (d : Nat) (x : Drive) : State := { s with sfi := { s.sfi with drive := modAt s.sfi.drive d fun _ => x } }

def drEn (s : State) (d : Nat) : Bool := sdF s d 0 0 1 == 1

/-- Positions, coded as D_STAT.POS. -/
def posInter : Nat := 0
def posOpen : Nat := 1
def posClosed : Nat := 2
def posBad : Nat := 3

/-- The gated levels of the SO pads (R306). -/
def soPads (s : State) : BitVec 8 :=
  if s.clk.forcing || !tokenOk s || isDown s .safety then 0 else s.sfi.cmd &&& ~~~s.sfi.pulse

/-- START_TIME and TRAVEL_MAX in ns. -/
def startNs (s : State) (d : Nat) : Nat := sdF s d 0xC 16 13 * 1000000

/-- Is the drive within START_TIME after its output fell? -/
def afterFall (s : State) (d : Nat) : Bool :=
  match (drOf s d).fellAt with
  | some t => decide (t ≤ elapsedNs s) && decide (elapsedNs s < t + startNs s d)
  | none => false

def sfiUp (s : State) : Bool := isUp s .safety

/-! ### State changes -/

/-- The state, codes and time left copied into the AON latch (R315). -/
def sfiLatch (s : State) : State :=
  let l : SfiLatch :=
    { state := s.sfi.state, code1 := s.sfi.fault1.1, drive1 := s.sfi.fault1.2, code2 := s.sfi.fault2.1,
      drive2 := s.sfi.fault2.2, left := s.sfi.degLeft }
  { s with aon := { s.aon with safety := some l } }

def sfiCode : SfiState → Nat
  | .selftest => 0 | .run => 1 | .degraded => 2 | .safe => 3

/-- The read-back levels follow the pads. -/
def rbFollow (s : State) : State := { s with sfi := { s.sfi with rb := soPads s } }

/-- Both outputs of a drive are commanded off. -/
def outOff (s : State) (d : Nat) : State :=
  let m : BitVec 8 := BitVec.ofNat 8 (3 * 2 ^ (2 * d))
  let was := s.sfi.cmd &&& m != 0
  let s := { s with sfi := { s.sfi with cmd := s.sfi.cmd &&& ~~~m, pulse := s.sfi.pulse &&& ~~~m } }
  if was then setDr s d { drOf s d with fellAt := some (elapsedNs s) } else s

def sfiGo (s : State) (st : SfiState) : State :=
  if s.sfi.state = st then s else irq { s with sfi := { s.sfi with state := st } } .sfi 2

/-- SAFE: every output is de-energised; an operation in progress is over. -/
def sfiSafe (s : State) : State :=
  let s := forEach (List.range 4) s fun s d =>
    let s := outOff s d
    if (drOf s d).state = .moving then setDr s d { drOf s d with state := .halted, faulted := true } else s
  sfiGo s .safe

/-- A detected fault (R313, R314). -/
def sfiFault (s : State) (code d : Nat) : State :=
  let f := (code, d)
  let b := decide (16 ≤ code)
  let s := if b && ((drOf s d).state == .moving || (drOf s d).observed.isSome) then setDr s d { drOf s d with faulted := true } else s
  let s :=
    match s.sfi.state with
    | .safe => s
    | .selftest => if b then s else sfiSafe { s with sfi := { s.sfi with fault1 := f, fault2 := f } }
    | .run =>
      if b then
        let s := outOff { s with sfi := { s.sfi with fault1 := f, fault2 := (0, 0), degLeft := fld s .sfi 0x44 0 11 * 60000 } } d
        sfiGo (setDr s d { drOf s d with state := .locked }) .degraded
      else sfiSafe { s with sfi := { s.sfi with fault1 := f, fault2 := f } }
    | .degraded =>
      if b && s.sfi.fault1 == f then s else sfiSafe { s with sfi := { s.sfi with fault2 := f } }
  let s := evt (irq (cnt s .sfi 0 0x94) .sfi 1) 0x1110 2 d code (sfiCode s.sfi.state)
  sfiLatch s

/-- A fault that lasts until a later check passes. -/
def sfiPresent (s : State) (code : Nat) (on : Bool) : State :=
  { s with sfi := { s.sfi with present := (s.sfi.present.filter fun f => f.1 != code) ++ (if on then [(code, 0)] else []) } }

/-- The outputs fell behind a gate: moving drives are HALTED (R307). -/
def sfiGate (s : State) : State :=
  if isDown s .safety || (!s.clk.forcing && tokenOk s) then s
  else
    forEach ((List.range 4).filter fun d => (drOf s d).state == .moving) s fun s d =>
      let s := outOff s d
      evt (setDr s d { drOf s d with state := .halted }) 0x1111 1 d 0 0

/-! ### Operations (R308, R309) -/

/-- The first reason for which a request is refused, 0 for none. A drive that moves is refused with reason 8. -/
def sfiReason (s : State) (d : Nat) (closing proof both : Bool) : Nat :=
  let x := drOf s d
  let mask := sdF s d 0 8 4
  let perm := sdF s d 8 (if closing then 16 else 0) 10
  if x.state = .moving then 8
  else if !(x.state == .ready || (x.state == .proof && proof)) then 1
  else if !(if closing then x.pos == posOpen else x.pos == posClosed || x.pos == posInter) then 2
  else if closing && (List.range 4).any fun m => bit mask m && (drOf s m).pos != posOpen then 3
  else if sdF s d 0 (if closing then 2 else 1) 1 = 1 ∧ !decBit s perm then 4
  else if !(s.sfi.state == .run || (s.sfi.state == .degraded && !closing)) || (s.sfi.clkUnsup && closing) then 5
  else if both then 6
  else if !tokenOk s then 7
  else 0

/-- A request starts an operation or is refused. -/
def sfiRequest (s : State) (d : Nat) (closing proof both : Bool) : State :=
  let r := sfiReason s d closing proof both
  if r ≠ 0 then
    let s := setReg s .sfi 0 (sdO d 0x2C) (setBits (reg s .sfi 0 (sdO d 0x2C)) 0 4 r)
    irq (cnt s .sfi 0 (sdO d 0x28)) .sfi 4
  else
    let x := drOf s d
    let m : BitVec 8 := BitVec.ofNat 8 (2 ^ (2 * d + (if closing then 1 else 0)))
    let s := setDr s d { x with
      state := .moving, closing := closing, byProof := proof, edges := 0, rev := 0, idleEdges := 0, observed := none,
      startLeft := x.pos == posInter, opStart := elapsedNs s, fellAt := none, faulted := false }
    sfiGate { s with sfi := { s.sfi with cmd := s.sfi.cmd ||| m } }

/-- A drive after an operation without a fault in one direction (R312). -/
def provenBy (x : Drive) (closing : Bool) : Drive :=
  let x := if closing then { x with provenClose := true } else { x with provenOpen := true }
  if (x.state == .proof || x.state == .moving) && x.provenOpen && x.provenClose then { x with state := .ready }
  else if x.state = .moving then { x with state := .proof } else x

/-- The target end position is reached (R309 steps 5 and 6). -/
def driveArrival (s : State) (d : Nat) : State :=
  let x := drOf s d
  let off := (x.cnt - (sdF s d 0x10 0 16 : Nat)).natAbs
  let s := outOff s d
  let ms := min ((elapsedNs s - x.opStart) / 1000000) 0xFFFF
  let s := setReg s .sfi 0 (sdO d 0x2C) (setBits (reg s .sfi 0 (sdO d 0x2C)) 16 16 ms)
  if x.closing && decide (sdF s d 0x10 16 8 < off) then sfiFault s 24 d
  else
    let y := drOf s d
    -- a drive that was READY stays so, one in PROOF needs both proofs
    let y := if x.byProof then provenBy y x.closing else { provenBy y x.closing with state := .ready }
    irq (cnt (setDr s d { y with idleEdges := 0 }) .sfi 0 (sdO d 0x24)) .sfi 3

/-- POS decoded from the two contacts, open in bit 0 and closed in bit 1 (R305). -/
def posDecode (contacts : Nat) : Nat :=
  if contacts = 1 then posOpen else if contacts = 2 then posClosed else if contacts = 0 then posInter else posBad

/-- The filtered contacts of a drive (R305). -/
def positionChange (s : State) (d : Nat) (contacts : Nat) : State :=
  if isDown s .safety then s
  else
    let si := setBits s.sfi.si.toNat (4 * d) 2 contacts
    let s := { s with sfi := { s.sfi with si := BitVec.ofNat 16 si } }
    if !drEn s d then s
    else
      let x := drOf s d
      let pos := posDecode contacts
      if pos = x.pos then s
      else
        let s := setDr s d { x with pos := pos, startLeft := true, cnt := if pos = posOpen then 0 else x.cnt }
        let target (c : Bool) : Bool := pos == (if c then posClosed else posOpen)
        if x.state = .moving then (if target x.closing then driveArrival s d else s)
        else match x.observed with
          | some c => if target c then
              let y := { drOf s d with observed := none, idleEdges := 0 }
              setDr s d (if y.faulted then y else provenBy y c) else s
          | none => s

/-- A position that has lasted DISC_TIME (R305). -/
def positionFault (s : State) (d : Nat) : State :=
  if isDown s .safety || !drEn s d then s
  else
    let x := drOf s d
    if x.pos = posBad then sfiFault s 18 d
    else if x.pos = posInter ∧ x.state ≠ .moving ∧ x.observed = none ∧ !afterFall s d then sfiFault s 19 d
    else s

/-- An edge of the encoder tracks, `us` µs after the edge before it (R305, R307, R310). -/
def encoderEdge (s : State) (d : Nat) (tracks us : Nat) : State :=
  if isDown s .safety then s
  else
    let si := setBits s.sfi.si.toNat (4 * d + 2) 2 tracks
    let s := { s with sfi := { s.sfi with si := BitVec.ofNat 16 si } }
    let x := drOf s d
    let old := x.tracks.toNat
    let s := setDr s d { x with tracks := BitVec.ofNat 2 tracks }
    if !drEn s d || old == tracks then s
    else if Nat.xor old tracks = 3 then sfiFault s 20 d
    else
      -- A leads B in the closing direction: (A, B) runs 00, 10, 11, 01
      let next (t : Nat) : Nat := if t = 0 then 1 else if t = 1 then 3 else if t = 3 then 2 else 0
      let closing := next old == tracks
      let x := drOf s d
      let s := setDr s d { x with cnt := wrapS 32 (x.cnt + (if closing then 1 else -1)) }
      let x := drOf s d
      let busy := x.state == .moving || afterFall s d
      let x := if !busy && !tokenOk s && x.observed.isNone then
          { x with observed := some closing, edges := 0, rev := 0, faulted := false } else x
      let dir : Option Bool := if busy then some x.closing else x.observed
      match dir with
      | some c =>
        let fast := decide (1 ≤ x.edges) && decide (us < sdF s d 0x14 0 16 * 100)
        let rev := if c = closing then x.rev else x.rev + 1
        let s := setDr s d { x with edges := x.edges + 1, rev := rev }
        let s := if c ≠ closing ∧ sdF s d 0x10 24 4 < rev then sfiFault s 21 d else s
        if fast then sfiFault s 22 d else s
      | none =>
        let s := setDr s d { x with idleEdges := x.idleEdges + 1 }
        if sdF s d 0x10 24 4 < x.idleEdges + 1 then sfiFault s 25 d else s

/-- START_TIME or TRAVEL_MAX has passed without the motion required (R309). -/
def travelTimeout (s : State) (d : Nat) : State :=
  if isUp s .safety ∧ (drOf s d).state = .moving then sfiFault s 23 d else s

/-- EDGE_MAX has passed without an edge after the first (R310). -/
def speedTimeout (s : State) (d : Nat) : State :=
  let x := drOf s d
  if isUp s .safety ∧ 1 ≤ x.edges ∧ (x.state = .moving ∨ x.observed.isSome) then sfiFault s 22 d else s

/-- An island cycle (R308): request edges of every drive, in order. -/
def islandCycle (s : State) : State :=
  if isDown s .safety then s
  else
    let s := rbFollow s
    let s := if s.sfi.state = .degraded then
        sfiLatch { s with sfi := { s.sfi with degLeft := max 1 (s.sfi.degLeft - 1) } } else s
    forEach ((List.range 4).filter fun d => drEn s d) s fun s d =>
      let x := drOf s d
      let o := decBit s (sdF s d 4 0 10)
      let c := decBit s (sdF s d 4 16 10)
      let s := setDr s d { x with reqOpen := o, reqClose := c }
      let ro := o && !x.reqOpen
      let rc := c && !x.reqClose
      let s := if ro then sfiRequest s d false false (ro && rc) else s
      if rc then sfiRequest s d true false (ro && rc) else s

/-! ### Diagnostics (R311, R312) -/

/-- A test pulse begins on an output whose pad is high. -/
def testPulse (s : State) (o : Nat) : State :=
  if isDown s .safety || !bit (soPads s).toNat o then s
  else rbFollow { s with sfi := { s.sfi with pulse := s.sfi.pulse ||| BitVec.ofNat 8 (2 ^ o) } }

/-- The end of a test pulse: the read-back must be low at its last sample. -/
def testPulseEnd (s : State) (o : Nat) : State :=
  if isDown s .safety || !bit s.sfi.pulse.toNat o then s
  else
    let high := bit s.sfi.rb.toNat o
    let s := rbFollow { s with sfi := { s.sfi with pulse := s.sfi.pulse &&& ~~~(BitVec.ofNat 8 (2 ^ o)) } }
    if high then sfiFault s 17 (o / 2) else s

/-- A read-back that differs from its pad level after RB_DELAY; in a test pulse shorter than RB_DELAY only the level is
taken. -/
def rbMismatch (s : State) (o : Nat) : State :=
  if isDown s .safety || !drEn s (o / 2) then s
  else
    let v := !bit (soPads s).toNat o
    let rb := setBits s.sfi.rb.toNat o 1 (ofBit v 0)
    let s := { s with sfi := { s.sfi with rb := BitVec.ofNat 8 rb } }
    if bit s.sfi.pulse.toNat o && decide (fld s .sfi 0x48 16 12 ≤ fld s .sfi 0x4C 0 10) then s else sfiFault s 16 (o / 2)

def sfiWatchdog (s : State) : State := if isDown s .safety then s else sfiFault s 1 0

def eccScrub (s : State) (corrected : Nat) (bad : Bool) : State :=
  if isDown s .safety then s
  else
    let s := sfiPresent (cntBy s .sfi 0 0x90 corrected) 2 bad
    if bad then sfiFault s 2 0 else s

/-- REFCLK is not judged stable: the comparison is suspended, CLK_UNSUP is set and recorded (R311). -/
def clockSuspend (s : State) : State :=
  if isDown s .safety || s.clk.refclk.stable || s.sfi.clkUnsup then s
  else evt { s with sfi := { s.sfi with clkUnsup := true } } 0x11FF 1 0 0 0

/-- A comparison with REFCLK, or its suspension (R311). -/
def clockCompare (s : State) (dev : Bool) : State :=
  if isDown s .safety then s
  else if !s.clk.refclk.stable then clockSuspend s
  else
    let s := sfiPresent { s with sfi := { s.sfi with clkUnsup := if dev then s.sfi.clkUnsup else false } } 4 dev
    if dev then sfiFault s 4 0 else s

/-- A drive whose EN has been set takes its position from its contacts as they stand (R304, R305). -/
def posTake (s : State) (d : Nat) : State :=
  let x := drOf s d
  let pos := posDecode (getBits s.sfi.si.toNat (4 * d) 2)
  if !drEn s d || pos == x.pos then s
  else setDr s d { x with pos := pos, cnt := if pos = posOpen then 0 else x.cnt }

/-- Every enabled drive enters PROOF. -/
def drivesProof (s : State) : State :=
  forEach (List.range 4) s fun s d =>
    let s := posTake s d
    let x := drOf s d
    setDr s d { x with state := if drEn s d then .proof else .disabled, provenOpen := false, provenClose := false,
                       observed := none, idleEdges := 0, faulted := false }

/-- The end of the self-test: with a latch that shows DEGRADED or SAFE the island goes to SAFE (R315). -/
def selftest (s : State) (pass : Bool) : State :=
  if isDown s .safety || s.sfi.state != .selftest || s.sfi.tested then s
  else if !pass then sfiFault { s with sfi := { s.sfi with tested := true } } 3 0
  else
    let s := drivesProof { s with sfi := { s.sfi with tested := true } }
    match s.aon.safety with
    | some l =>
      if l.state = .degraded ∨ l.state = .safe then
        let s := { s with sfi := { s.sfi with fault1 := (l.code1, l.drive1), fault2 := (l.code2, l.drive2), degLeft := l.left } }
        sfiLatch (sfiGo s .safe)
      else s
    | none => s

/-- The parameter words in the order of R312, as bytes. -/
def paramBytes (s : State) : List Byte :=
  (([0x44, 0x48, 0x4C, 0x50] : List Nat).map (fun o => le 4 (reg s .sfi 0 o))).flatten ++
    (((List.range 4).map fun d => ((List.range 7).map fun i => le 4 (reg s .sfi 0 (sdO d (4 * i)))).flatten)).flatten

/-- The parameter check once SFI is locked (R312). -/
def paramCheck (s : State) : State :=
  if isDown s .safety || s.sfi.state != .selftest || !s.sfi.tested || !flag s .sfi 0x28 0 || blank s then s
  else
    let ok := crc32 (paramBytes s) == reg s .sfi 0 0x40
    let s := drivesProof { s with sfi := { s.sfi with parOk := ok } }
    if ok then sfiLatch (sfiGo s .run) else sfiFault s 5 0

/-- 60 min are left in DEGRADED (R314). -/
def degWarning (s : State) : State :=
  if isDown s .safety || s.sfi.state != .degraded then s
  else sfiLatch (irq { s with sfi := { s.sfi with degLeft := 3600000 } } .sfi 5)

def degExpired (s : State) : State :=
  if isDown s .safety || s.sfi.state != .degraded then s else sfiFault { s with sfi := { s.sfi with degLeft := 0 } } 6 0

/-! ### Commands (R317) -/

/-- Is any fault condition present now (R314)? -/
def faultPresent (s : State) : Bool :=
  s.sfi.present != [] || s.sfi.rb != soPads s ||
    (List.range 4).any fun d => drEn s d && ((drOf s d).pos == posBad ||
      ((drOf s d).pos == posInter && (drOf s d).state != .moving && (drOf s d).observed.isNone && !afterFall s d))

/-- SFI_ACK (R314): false where it ends with STATE. -/
def sfiAck (s : State) : State × Bool :=
  if faultPresent s then (s, false)
  else match s.sfi.state with
    | .degraded =>
      let s := forEach ((List.range 4).filter fun d => (drOf s d).state == .locked) s fun s d =>
        setDr s d { drOf s d with state := .proof, provenOpen := false, provenClose := false }
      (sfiLatch (sfiGo { s with sfi := { s.sfi with fault1 := (0, 0), fault2 := (0, 0), degLeft := 0 } } .run), true)
    | .safe =>
      let s := drivesProof { s with sfi := { s.sfi with tested := false, parOk := false, fault1 := (0, 0), fault2 := (0, 0),
                                                        degLeft := 0 } }
      (sfiLatch (sfiGo s .selftest), true)
    | _ => (s, false)

/-- SFI_STOP (R309): false where it ends with STATE. -/
def sfiStop (s : State) (d : Nat) : State × Bool :=
  if (drOf s d).state ≠ .moving then (s, false)
  else
    let s := outOff s d
    (setDr s d { drOf s d with state := .halted }, true)

/-- A proof operation requested (R308, R312): false where it ends with STATE, its request refused or the drive not PROOF. -/
def sfiProof (s : State) (d : Nat) (closing : Bool) : State × Bool :=
  if (drOf s d).state ≠ .proof then (s, false)
  else (sfiRequest s d closing true false, sfiReason s d closing true false == 0)

/-! ### Reads and resets -/

/-- The registers of SFI computed at the read (R318). -/
def sfiRead (s : State) (o : Nat) : Option Nat :=
  if o = 0x80 then some ((s.sfi.degLeft + 59999) / 60000 * 65536)
  else if o = 0x84 then
    some (s.sfi.fault1.1 + s.sfi.fault1.2 * 256 + s.sfi.fault2.1 * 65536 + s.sfi.fault2.2 * 2 ^ 24)
  else if o = 0x88 then some (s.sfi.cmd.toNat + (soPads s).toNat * 256 + s.sfi.rb.toNat * 65536)
  else if o = 0x8C then some s.sfi.si.toNat
  else if 0x100 ≤ o ∧ o < 0x200 then
    let d := (o - 0x100) / 0x40
    let x := drOf s d
    if (o - 0x100) % 0x40 = 0x20 then
      let st := match x.state with
        | .disabled => 0 | .proof => 1 | .ready => 2 | .moving => 3 | .halted => 4 | .locked => 5
      some (st + x.pos * 16 + ofBit x.provenOpen 6 + ofBit x.provenClose 7)
    else if (o - 0x100) % 0x40 = 0x30 then some (ofSigned 32 x.cnt)
    else none
  else none

/-- Bits [31:8] of SFI PG_STAT (R318). -/
def sfiStat (s : State) : Nat :=
  sfiCode s.sfi.state * 256 + ofBit s.sfi.parOk 10 + ofBit (tokenOk s) 11 + ofBit s.clk.forcing 12 + ofBit s.sfi.clkUnsup 13

/-- A reset of the Safety island: everything but what the AON latch holds (R315). -/
def sfiIslandReset (s : State) : State :=
  match s.aon.safety with
  | some l => { s with sfi := { Sfi.reset with fault1 := (l.code1, l.drive1), fault2 := (l.code2, l.drive2), degLeft := l.left } }
  | none => { s with sfi := Sfi.reset }

end Sys2Proof.Machine
end

