-- ==== Sys2Proof/Machine/Pair.lean ====
section
/-!
DEFINITION. The redundant pair: health and pins (R320 to R322), member states (R323, R330, R338, R339), arbitration
frames and the module's side of them (R331 to R333), the arbiter (R334), and the Elade link's bring-up, frames and
failure (R325 to R328).
-/

namespace Sys2Proof.Machine

/-! ### Health and pins -/

def rdnRole (s : State) : Bool := flag s .rdn 0x40 0
def rdnSide (s : State) : Nat := fld s .rdn 0x40 1 1
def rdnPreferred (s : State) : Bool := flag s .rdn 0x40 2
def rdnOn (s : State) : Bool := pairPart s && enabled s .rdn && isUp s .rt

/-- The health bits (R322). -/
def healthBits (s : State) : Nat :=
  ofBit (!blank s) 0 + ofBit (isUp s .rt) 1 + ofBit (!s.clk.forcing) 2 + ofBit s.rdn.cmdOk 3 +
    ofBit (isUp s .stream && enabled s .svs) 4 + ofBit (decide (s.tim.quality ≤ 1)) 5 +
    ofBit (isUp s .app && s.slc.s.any fun e => e.2.state == .active) 6 +
    ofBit (s.rdn.notWithdrawn && !s.aon.pfWithdrew) 7

/-- The bits that must be 1: the mandatory ones and those of HEALTH_MASK. -/
def healthNeed (s : State) : Nat := 0x8F + fld s .rdn 0x40 8 3 * 16

/-- HEALTHY (R5, R322). -/
def healthyNow (s : State) : Bool :=
  if pairPart s then Nat.land (healthBits s) (healthNeed s) == healthNeed s else getBits (healthBits s) 0 4 == 15

/-- The link heartbeat is alive only while the link is up (R330). -/
def linkAlive (s : State) : Bool := s.rdn.elade.up && s.rdn.elade.hbAlive

/-- The partner's HEALTHY as its HB frames report it. -/
def peerHealthy (s : State) : Bool :=
  s.rdn.peer.seen && Nat.land s.rdn.peer.health.toNat (healthNeed s) == healthNeed s

def peerFlag (s : State) (n : Nat) : Bool := s.rdn.peer.seen && bit s.rdn.peer.flags.toNat n

/-- The conditions of R330. -/
def partnerFailed (s : State) : Bool :=
  (!s.rdn.hbIn && !linkAlive s) || (linkAlive s && s.rdn.peer.seen && !peerHealthy s)

/-- Does the partner hold the token, as its pin or its live report shows? -/
def partnerHolds (s : State) : Bool := s.rdn.tokIn || (linkAlive s && peerFlag s 0)

/-- The flags of an arbitration frame (R331). -/
def arbFlags (s : State) : Nat :=
  ofBit s.rdn.healthy 0 + ofBit (tokenOk s) 1 + ofBit (rdnPreferred s) 2 + ofBit s.rdn.elade.up 3 +
    ofBit s.rdn.hbIn 4 + ofBit s.rdn.window 5

/-! ### Arbitration frames -/

/-- Bytes 0 to 59 of an arbitration frame (R331). -/
def arbBytes (f : ArbFrame) : List Byte :=
  le 2 f.type.toNat ++ le 2 0 ++ le 8 f.counter.toNat ++ le 4 f.pairId.toNat ++ le 1 f.sender.toNat ++
    le 1 f.code.toNat ++ le 2 f.flags.toNat ++ le 4 f.epoch.toNat ++ le 8 f.echo.toNat ++ le 4 f.health.toNat ++
    le 4 f.lot.toNat ++ le 3 f.die.toNat ++ le 1 0 ++ padTo 16 f.time

/-- The tag under ARB_KEY; none without a usable key. -/
def arbTag (s : State) (f : ArbFrame) : State × Option (List Byte) :=
  match loadSym s (fld s .rdn 0x4C 0 6) 2 with
  | (s, some k) => (s, some (kmac256 k (arbBytes f) 32 (ascii "ASDAR-ARB")))
  | (s, none) => (s, none)

/-- The next value of the sender counter (R333). -/
def nextCounter (s : State) : Nat × State :=
  (s.nv.startCount.toNat * 2 ^ 32 + (s.cmd.sender + 1) % 2 ^ 32, { s with cmd := { s.cmd with sender := s.cmd.sender + 1 } })

def dieWord (s : State) : Nat := s.fuse.wafer.toNat + s.fuse.dieX.toNat * 256 + s.fuse.dieY.toNat * 65536

/-- An arbitration frame of this module sent to an address. The counter it carried is answered with the state. -/
def sendArb (s : State) (dst : Mac) (type code sender epoch echo : Nat) : State × Nat :=
  let (n, s) := nextCounter s
  let f : ArbFrame :=
    { type := BitVec.ofNat 16 type, counter := BitVec.ofNat 64 n, pairId := BitVec.ofNat 32 (reg s .rdn 0 0x48),
      sender := BitVec.ofNat 8 sender, code := BitVec.ofNat 8 code, flags := BitVec.ofNat 16 (arbFlags s),
      epoch := BitVec.ofNat 32 epoch, echo := BitVec.ofNat 64 echo, health := BitVec.ofNat 32 (healthBits s),
      lot := s.fuse.lot, die := BitVec.ofNat 24 (dieWord s), time := Stamp.bytes (nowStamp s), tag := [], src := 0 }
  let (s, t) := arbTag s f
  let body := arbBytes f ++ padTo 32 (t.getD Config.freeTag)
  let w := reg s .rdn 0 0x60
  let tagged := bit w 15
  let g : Frame :=
    { dst := dst, src := macOf (reg s .rdn 0 0x58) (reg s .rdn 0 0x5C),
      vlan := if tagged then some (BitVec.ofNat 12 w, BitVec.ofNat 3 (getBits w 12 3)) else none,
      etype := 0x88B5, red := .plain, len := frameLen tagged body.length, pdu := .raw body }
  (sendOwn s 66 g 4, n)

/-- A frame of the module to its arbiter; the counter of a TAKE, HOLD or ABORT is the one a GRANT or DENY must
echo. -/
def sendToArb (s : State) (type code : Nat) : State :=
  if !rdnOn s || rdnRole s then s
  else
    let (s, n) := sendArb s (macOf (reg s .rdn 0 0x50) (reg s .rdn 0 0x54)) type code (rdnSide s) s.rdn.epoch 0
    if type = 0x11 ∨ type = 0x12 ∨ type = 0x13 then { s with rdn := { s.rdn with takeCtr := BitVec.ofNat 64 n } } else s

/-- Does a received frame verify under this pair and key, and does it come from the sender it should? -/
def arbVerify (s : State) (f : ArbFrame) : State × Bool :=
  if f.pairId.toNat ≠ reg s .rdn 0 0x48 then (s, false)
  else
    match arbTag s f with
    | (s, some t) => (s, t == f.tag)
    | (s, none) => (s, false)

/-- A frame of the arbiter (R333): accepted or refused. -/
def arbAccept (s : State) (f : ArbFrame) : State × Bool :=
  if !rdnOn s || rdnRole s then (s, false)
  else
    let (s, ok) := arbVerify s f
    let probe := f.type == 0x22 || f.type == 0x23
    let fresh :=
      if probe then !s.rdn.arbSeen || decide (s.rdn.arbCtr.toNat < f.counter.toNat) else s.rdn.takeCtr != 0 && f.echo == s.rdn.takeCtr
    if ok && f.sender == 0xFF && fresh then
      let c := f.counter
      (if !s.rdn.arbSeen || decide (s.rdn.arbCtr.toNat < c.toNat) then
        { s with rdn := { s.rdn with arbSeen := true, arbCtr := c } } else s, true)
    else (cnt s .rdn 0 0xA8, false)

/-! ### Member states -/

def mCode : MState → Nat
  | .off => 0 | .starting => 1 | .tailstock => 2 | .requesting => 3 | .taking => 4 | .headstock => 5 | .witness => 6

/-- A change of the member state (R323). -/
def rdnGo (s : State) (m : MState) : State :=
  if s.rdn.mstate = m then s
  else
    let s := { s with rdn := { s.rdn with mstate := m, gapFrom := if m = .tailstock then none else s.rdn.gapFrom } }
    evt (irq s .rdn 1) 0x1210 0 0 (mCode m) s.rdn.epoch

/-- A TAKE with its reason (R323, R330, R339, R340). -/
def sendTake (s : State) (code : Nat) : State :=
  rdnGo (sendToArb { s with rdn := { s.rdn with takeCode := code } } 0x11 code) .requesting

/-- The epoch shown is the largest seen. -/
def seeEpoch (s : State) (e : Nat) : State := { s with rdn := { s.rdn with epoch := max s.rdn.epoch e } }

/-- The level of TOK_OUT (R5, R320). -/
def tokLevel (s : State) : Bool :=
  (if pairPart s then s.rdn.mstate == .headstock && !s.rdn.hbSup && isUp s .rt else true) && s.rdn.healthy &&
    !s.clk.forcing

/-- TOK_OUT follows its rule; a withdrawal that waited for the handover takes effect at its fall (R341). -/
def rdnPin (s : State) : State :=
  let v := tokLevel s
  if v = s.rdn.tokOut then s
  else
    let s := { s with rdn := { s.rdn with tokOut := v } }
    if v || !pairPart s then s
    else
      let s := irq s .rdn 3
      if s.rdn.withdrawn then { s with rdn := { s.rdn with withdrawn := false, notWithdrawn := false } } else s

/-- May the takeback count run (R339)? -/
def holdoffRuns (s : State) : Bool :=
  rdnPreferred s && s.rdn.mstate == .tailstock && flag s .rdn 0x40 3 && s.rdn.healthy && linkAlive s && peerHealthy s &&
    (s.rdn.mirrorOk || (s.nv.spn.isNone && !peerFlag s 4)) && !s.rdn.window

/-- One pass of the member state's conditions. -/
def rdnPass (s : State) : State :=
  let s := { s with rdn := { s.rdn with healthy := healthyNow s } }
  let s := rdnPin s
  if !pairPart s then s
  else
    let s := if !s.rdn.hbIn && linkAlive s && !s.rdn.hbPathFault then
        irq (cnt { s with rdn := { s.rdn with hbPathFault := true } } .rdn 0 0xB4) .rdn 7
      else if s.rdn.hbIn then { s with rdn := { s.rdn with hbPathFault := false } } else s
    let s := { s with rdn := { s.rdn with failure := s.rdn.failure && partnerFailed s } }
    let s :=
      if rdnRole s && isUp s .rt then rdnGo s .witness
      else if !rdnOn s || !s.rdn.healthy then
        rdnGo (if s.rdn.mstate = .taking then rdnGo (sendToArb s 0x13 0) .tailstock else s) .off
      else
        match s.rdn.mstate with
        | .off | .witness => rdnGo s .starting
        | .starting =>
          if partnerHolds s then rdnGo s .tailstock else if rdnPreferred s then sendTake s 2 else s
        | .tailstock =>
          if partnerFailed s && !s.rdn.failure then
            sendTake { s with rdn := { s.rdn with failure := true, gapFrom := some (s.rdn.gapFrom.getD (elapsedNs s)) } } 1
          else s
        | .requesting =>
          if (s.rdn.takeCode == 1 && !partnerFailed s) || (s.rdn.takeCode == 2 && partnerHolds s) then rdnGo s .tailstock
          else s
        | .taking => s
        | .headstock =>
          if partnerFailed s && !s.rdn.failure then
            sendToArb { s with rdn := { s.rdn with failure := true } } 0x12 0
          else s
    let s := { s with rdn := { s.rdn with
      holdFrom := if holdoffRuns s then some (s.rdn.holdFrom.getD (elapsedNs s)) else none } }
    rdnPin s

/-- The conditions until nothing follows from them any more. -/
def rdnSettle (s : State) : State := rdnPass (rdnPass (rdnPass (rdnPass s)))

/-- A state change with what follows from it for the pair, the gates and the STATUS frame (R250, R307, R320, R332). -/
def gated (f : State → State) (s : State) : State :=
  let tok := tokenOk s
  let force := s.clk.forcing
  let flags := arbFlags s
  let s := rdnSettle (f s)
  let s := if tokenOk s = tok then s else if tokenOk s then tokenRise s else tokenFall s
  let s := if s.clk.forcing = force then s else decRefresh s
  let s := clockSuspend (sfiGate s)
  if arbFlags s = flags then s else sendToArb s 0x10 0

/-! ### The pins' events -/

/-- HB_OUT toggles while HEALTHY is 1; the AON supervisor lets TOK_OUT go (R320, R321). -/
def heartbeatToggle (s : State) : State :=
  if isDown s .rt || !s.rdn.healthy then s
  else { s with rdn := { s.rdn with hbOut := !s.rdn.hbOut, hbSup := false } }

/-- A filtered change of TOK_IN; the module remembers when it saw the partner's token fall (R336). -/
def tokInChange (s : State) (v : Bool) : State :=
  if v = s.rdn.tokIn then s
  else { s with rdn := { s.rdn with tokIn := v, gapFrom := if v then none else some (elapsedNs s) } }

/-- The first edge in TAKING at which TOK_IN is inactive (R323, R336, R340). -/
def takeToken (s : State) : State :=
  if !rdnOn s || s.rdn.mstate != .taking || s.rdn.tokIn || !s.rdn.healthy then s
  else
    let from_ := s.rdn.gapFrom
    let s := rdnGo { s with rdn := { s.rdn with tokEpoch := s.rdn.epoch } } .headstock
    let s := irq (cnt s .rdn 0 0xA0) .rdn 2
    match from_ with
    | some t =>
      let s := { s with rdn := { s.rdn with gapFrom := none } }
      if s.rdn.takeCode = 1 then
        let g := min (elapsedNs s - t) 0xFFFFFFFF
        evt (setReg s .rdn 0 0x9C g) 0x1211 1 0 0 g
      else s
    | none => s

/-- TOK_IN has stayed active for 1 ms after the GRANT (R323). -/
def tokStuck (s : State) : State :=
  if !rdnOn s || s.rdn.mstate != .taking || !s.rdn.tokIn then s
  else rdnGo (sendToArb (irq (cnt s .rdn 0 0xB8) .rdn 8) 0x13 0) .tailstock

/-- 1 s in STARTING (R323). -/
def startTakeWait (s : State) : State :=
  if !rdnOn s || s.rdn.mstate != .starting || partnerHolds s || (linkAlive s && peerHealthy s && peerFlag s 2) then s
  else sendTake s 2

/-- The repeated TAKE of a module in REQUESTING (R330). -/
def takeRepeat (s : State) : State :=
  if !rdnOn s || s.rdn.mstate != .requesting then s else sendToArb s 0x11 s.rdn.takeCode

/-- The count of R339 has run down. -/
def takebackHoldoff (s : State) : State :=
  if holdoffRuns s && s.rdn.holdFrom.isSome then sendTake { s with rdn := { s.rdn with holdFrom := none } } 3 else s

/-! ### The arbiter's answers -/

/-- A GRANT (R323, R338, R340). -/
def onGrant (s : State) (f : ArbFrame) : State :=
  let (s, ok) := arbAccept s f
  if !ok then s
  else
    let s := seeEpoch s f.epoch.toNat
    let s := if f.code = 0 then s else { s with rdn := { s.rdn with window := true, windowFrom := elapsedNs s } }
    if s.rdn.mstate != .requesting then s
    else
      let s := rdnGo s .taking
      if f.code = 2 then linkSend s 1 6 (le 4 f.epoch.toNat) else s

/-- A DENY (R330, R338). -/
def onDeny (s : State) (f : ArbFrame) : State :=
  let (s, ok) := arbAccept s f
  if !ok then s
  else
    let s := irq (cnt s .rdn 0 0xA4) .rdn 6
    if s.rdn.mstate != .requesting then s
    else if f.code = 2 then sendToArb s 0x10 0
    else rdnGo s .tailstock

/-- A PROBE (R332). -/
def onProbe (s : State) (f : ArbFrame) : State :=
  let (s, ok) := arbAccept s f
  if !ok then s
  else (sendArb s (macOf (reg s .rdn 0 0x50) (reg s .rdn 0 0x54)) 0x14 0 (rdnSide s) s.rdn.epoch f.counter.toNat).1

/-- A REVOKE (R333). -/
def onRevoke (s : State) (f : ArbFrame) : State :=
  let (s, ok) := arbAccept s f
  if !ok then s
  else if s.rdn.mstate = .headstock ∧ s.rdn.tokEpoch < f.epoch.toNat then rdnGo s .tailstock
  else s

/-! ### The arbiter (R334) -/

def arbNow (s : State) : Int := (elapsedNs s : Int)

def sideGet {α : Type} (p : α × α) (m : Nat) : α := if m = 0 then p.1 else p.2
def sideSet {α : Type} (p : α × α) (m : Nat) (v : α) : α × α := if m = 0 then (v, p.2) else (p.1, v)

def isArb (s : State) : Bool := rdnOn s && rdnRole s

/-- Procedure start. -/
def arbStart (s : State) : State :=
  if !isArb s then s
  else { s with rdn := { s.rdn with arb := { Arb.reset with grantedAt := arbNow s - 180000000 } } }

/-- A frame of the arbiter to a side, to the address that side's frames come from. -/
def arbSend (s : State) (m type code : Nat) (echo : Nat) : State :=
  (sendArb s (sideGet s.rdn.arb.src m) type code 0xFF s.rdn.arb.epoch echo).1

/-- Procedure grant. -/
def arbGrant (s : State) (m : Nat) (echo kind : Nat) : State :=
  let a := s.rdn.arb
  let prev := a.holder
  let s := { s with rdn := { s.rdn with
    arb := { a with prev := prev, holder := some m, epoch := (a.epoch + 1) % 2 ^ 32, grantedAt := arbNow s } } }
  let s := arbSend s m 0x20 kind echo
  match prev with
  | some o => if kind = 1 then arbSend s o 0x23 0 0 else s
  | none => s

/-- What every verified frame of a side tells the arbiter; it arrived `dt` cycles ago. -/
def arbHear (s : State) (f : ArbFrame) (dt : Nat) : State × Bool :=
  let m := f.sender.toNat
  if !isArb s || decide (2 ≤ m) then (s, false)
  else
    let (s, ok) := arbVerify s f
    let a := s.rdn.arb
    if !ok || decide (f.counter.toNat ≤ sideGet a.last m) then (s, false)
    else
      let now := (mono s - dt * cycleU s) / nsU
      let tok := bit f.flags.toNat 1
      let alive := (f.type == 0x12 || f.type == 0x14) && tok
      let a' : Arb :=
        { a with
          last := sideSet a.last m f.counter.toNat, seen := sideSet a.seen m (some (f.flags, now)),
          epoch := max a.epoch f.epoch.toNat, holder := if tok then some m else a.holder,
          src := sideSet a.src m f.src, aliveAt := if alive then sideSet a.aliveAt m (some now) else a.aliveAt,
          probing := match a.probing with
            | some (t, t0, y) => some (t, t0, y || (alive && m != t.sender.toNat))
            | none => none }
      ({ s with rdn := { s.rdn with arb := a' } }, true)

/-- A TAKE at the arbiter. -/
def arbOnTake (s : State) (f : ArbFrame) (dt : Nat) : State :=
  let (s, ok) := arbHear s f dt
  if !ok then s
  else
    let m := f.sender.toNat
    let o := 1 - m
    let echo := f.counter.toNat
    let a := s.rdn.arb
    let fl := f.flags.toNat
    let so : Nat := match sideGet a.seen o with
      | some (w, _) => w.toNat
      | none => 0
    let young : Bool := match sideGet a.seen o with
      | some (_, t) => decide (elapsedNs s < t + 30000000)
      | none => false
    if a.holder = some m then arbSend s m 0x20 0 echo
    else if !bit fl 0 then arbSend s m 0x21 1 echo
    else if arbNow s - a.grantedAt < 200000000 then arbSend s m 0x21 2 echo
    else if f.code = 3 ∨ f.code = 4 then
      if a.holder = some o ∧ bit so 0 ∧ bit so 3 ∧ bit fl 3 then arbGrant s m echo 2 else arbSend s m 0x21 5 echo
    else if a.holder = some o then
      let early : Bool := match sideGet a.aliveAt o with
        | some t => decide (elapsedNs s ≤ t + 10000)
        | none => false
      let s := arbSend s o 0x22 0 0
      { s with rdn := { s.rdn with arb := { s.rdn.arb with probing := some (f, elapsedNs s, early) } } }
    else if a.holder = none && !bit fl 2 && young && bit so 0 && bit so 2 then arbSend s m 0x21 4 echo
    else arbGrant s m echo 1

/-- The end of the wait after a PROBE: a grant made in the meantime closes its window first. -/
def probeWaitEnd (s : State) : State :=
  if !isArb s then s
  else
    let a := s.rdn.arb
    match a.probing with
    | none => s
    | some (f, _, alive) =>
      let s := { s with rdn := { s.rdn with arb := { a with probing := none } } }
      let m := f.sender.toNat
      let echo := f.counter.toNat
      if alive then arbSend s m 0x21 3 echo
      else if arbNow s - a.grantedAt < 200000000 then arbSend s m 0x21 2 echo
      else arbGrant s m echo 1

def arbOnHold (s : State) (f : ArbFrame) (dt : Nat) : State :=
  let (s, ok) := arbHear s f dt
  if ok ∧ s.rdn.arb.holder = some f.sender.toNat then arbSend s f.sender.toNat 0x20 0 f.counter.toNat else s

def arbOnAbort (s : State) (f : ArbFrame) (dt : Nat) : State :=
  let (s, ok) := arbHear s f dt
  let a := s.rdn.arb
  if ok ∧ a.holder = some f.sender.toNat ∧ f.epoch.toNat = a.epoch then
    { s with rdn := { s.rdn with arb := { a with holder := a.prev } } }
  else s

/-! ### The Elade link -/

/-- The first bytes of a HELLO, those its tag covers (R328). -/
def helloBytes (h : Hello) : List Byte :=
  le 4 h.pairId.toNat ++ le 1 h.side.toNat ++ le 3 0 ++ le 4 h.lot.toNat ++ le 3 h.die.toNat ++ le 1 0 ++ padTo 16 h.nonce

def helloTag (s : State) (h : Hello) : State × Option (List Byte) :=
  match loadSym s (fld s .rdn 0x4C 8 6) 3 with
  | (s, some k) => (s, some (kmac256 k (helloBytes h) 32 (ascii "ASDAR-ELADE")))
  | (s, none) => (s, none)

/-- A HELLO or HELLO_ACK sent; it carries no sequence of a link that is not yet up. -/
def sendHello (s : State) (type : Nat) (nonce : List Byte) : State :=
  let h : Hello :=
    { pairId := BitVec.ofNat 32 (reg s .rdn 0 0x48), side := BitVec.ofNat 8 (rdnSide s), lot := s.fuse.lot,
      die := BitVec.ofNat 24 (dieWord s), nonce := nonce, tag := [] }
  let (s, t) := helloTag s h
  emit s (.link (mkLink 1 type 0 (helloBytes h ++ padTo 32 (t.getD Config.freeTag))))

/-- The exchange begins: a HELLO with a fresh nonce. -/
def helloStart (s : State) : State :=
  if !rdnOn s || s.rdn.elade.lanes == 0 || s.rdn.elade.up then s
  else
    let (n, s) := draw s 16
    sendHello { s with rdn := { s.rdn with elade := { s.rdn.elade with nonce := n, ackOk := false, ackSent := false } } } 1 n

/-- The PARTNER port lost its link: what is not yet answered is not retried (R327). -/
def eladeDown (s : State) : State :=
  if !s.rdn.elade.up then s
  else
    let e := s.rdn.elade
    let e' : Elade :=
      { e with up := false, hbAlive := false, ctrl := LinkCls.reset, mirror := LinkCls.reset, mig := LinkCls.reset,
               ackSent := false, ackOk := false }
    let s := { s with rdn := { s.rdn with elade := e', mirrorOk := false } }
    evt (irq (cnt s .rdn 0 0xAC) .rdn 4) 0x1212 1 0 0 0

/-- A lane gains or loses block lock; a HELLO follows the gain. -/
def laneLock (s : State) (l : Nat) : State :=
  if !rdnOn s || s.clk.serdes.failed then s
  else
    let was := bit s.rdn.elade.lanes.toNat l
    let s := { s with rdn := { s.rdn with elade := { s.rdn.elade with lanes := s.rdn.elade.lanes ||| BitVec.ofNat 2 (2 ^ l) } } }
    if was then s else helloStart s

def laneDown (s : State) (l : Nat) : State :=
  { s with rdn := { s.rdn with elade := { s.rdn.elade with lanes := s.rdn.elade.lanes &&& ~~~(BitVec.ofNat 2 (2 ^ l)) } } }

/-- Does a HELLO or HELLO_ACK verify? -/
def helloOk (s : State) (h : Hello) : State × Bool :=
  match helloTag s h with
  | (s, some t) => (s, t == h.tag && h.pairId.toNat == reg s .rdn 0 0x48 && h.side.toNat != rdnSide s)
  | (s, none) => (s, false)

def helloReject (s : State) : State := evt (cnt s .rdn 0 0xBC) 0x1213 1 0 0 0

/-- The link comes up once both HELLO_ACKs verify: every class starts at sequence 0. -/
def eladeUp (s : State) (h : Hello) : State :=
  let e := s.rdn.elade
  if e.up || !e.ackSent || !e.ackOk then s
  else
    let e' : Elade :=
      { e with up := true, ctrl := LinkCls.reset, mirror := LinkCls.reset, mig := LinkCls.reset }
    let s := { s with rdn := { s.rdn with elade := e', peer := Peer.reset } }
    let s := setReg (setReg s .rdn 0 0x8C h.lot.toNat) .rdn 0 0x90 (h.die.toNat + (h.side.toNat % 2) * 2 ^ 24)
    irq s .rdn 5

/-- A HELLO: a partner that greets again has lost the link. -/
def onHello (s : State) (h : Hello) : State :=
  if !rdnOn s then s
  else
    let (s, ok) := helloOk s h
    if !ok then helloReject s
    else
      let s := sendHello (eladeDown s) 2 h.nonce
      eladeUp { s with rdn := { s.rdn with elade := { s.rdn.elade with peerNonce := h.nonce, ackSent := true } } } h

/-- A HELLO_ACK with our nonce. -/
def onHelloAck (s : State) (h : Hello) : State :=
  if !rdnOn s || s.rdn.elade.up then s
  else
    let (s, ok) := helloOk s h
    if !ok || padTo 16 h.nonce != s.rdn.elade.nonce then helloReject s
    else eladeUp { s with rdn := { s.rdn with elade := { s.rdn.elade with ackOk := true } } } h

/-- An HB frame (R326). -/
def hbTransmit (s : State) : State :=
  if !rdnOn s || !s.rdn.elade.up then s
  else
    let fl := ofBit (tokenOk s) 0 + ofBit s.rdn.window 1 + ofBit (rdnPreferred s) 2 +
      ofBit (!s.spn.force.isEmpty) 3 + ofBit (s.spn.state == .running) 4
    emit s (.hb { health := BitVec.ofNat 32 (healthBits s + ofBit s.aon.stuck 16), flags := BitVec.ofNat 16 fl,
                  mstate := BitVec.ofNat 8 (mCode s.rdn.mstate), epoch := BitVec.ofNat 32 s.rdn.epoch,
                  stamp := Stamp.bytes (nowStamp s) })

def hbReceive (s : State) (h : HbFrame) : State :=
  if !rdnOn s || !s.rdn.elade.up then s
  else
    let p : Peer :=
      { health := h.health, flags := h.flags, mstate := h.mstate.toNat, epoch := h.epoch.toNat, seen := true }
    seeEpoch { s with rdn := { s.rdn with peer := p, elade := { s.rdn.elade with hbAlive := true } } } h.epoch.toNat

/-- The acknowledgement of what a class has received in order (R326); that of a MIG end record carries the errors in its
reserved bytes (R280). -/
def sendAck (s : State) (cls errs : Nat) : State :=
  let n := (linkCls s cls).nextRx
  if n = 0 then s else emit s (.link (mkLink 4 1 0 (le 1 cls ++ le 3 errs ++ le 4 (n - 1))))

/-- Are the CRCs of a received frame right (R325)? -/
def linkCrcOk (f : LinkFrame) : Bool :=
  f.hdrCrc.toNat == crc32 (linkHeader f.cls.toNat f.type.toNat f.seq.toNat f.payload.length) &&
    (f.payload == [] || f.payCrc.toNat == crc32 f.payload)

/-- A cumulative acknowledgement of a class. -/
def ackReceive (s : State) (cls seq : Nat) : State :=
  if !rdnOn s || !s.rdn.elade.up then s
  else
    let x := linkCls s cls
    -- those after `seq`, whose numbers lie within half the range above it
    let rest := x.unacked.filter fun f =>
      let d := (f.seq.toNat + 2 ^ 32 - seq % 2 ^ 32) % 2 ^ 32
      d != 0 && decide (d < 2 ^ 31)
    if rest.length = x.unacked.length then s
    else linkPump 65 (setLinkCls s cls { x with unacked := rest, retries := 0 }) cls

/-- The oldest frame is unacknowledged for 20 µs: it and those after it are sent again; at the eighth time the link
goes down (R327). -/
def retransmit (s : State) (cls : Nat) : State :=
  let x := linkCls s cls
  if !rdnOn s || !s.rdn.elade.up || x.unacked == [] then s
  else if 7 ≤ x.retries then eladeDown (cnt s .rdn 0 0xB0)
  else
    let s := setLinkCls (cnt s .rdn 0 0xB0) cls { x with retries := x.retries + 1 }
    forEach x.unacked s fun s f => emit s (.link f)

/-- A HANDOVER on the link (R340): the holder drops the token; on the Tailstock it is the Headstock's offer. -/
def onHandover (s : State) (e : Nat) : State :=
  if s.rdn.mstate = .headstock then
    if s.rdn.tokEpoch < e then
      linkSend (rdnPin (seeEpoch (rdnGo s .tailstock) e)) 1 7 (le 4 e)
    else s
  else if s.rdn.mstate = .tailstock ∧ e ≤ s.rdn.epoch then sendTake s 4
  else s

/-! ### Registers -/

/-- RDN_STAT. -/
def rdnStatWord (s : State) : Nat :=
  mCode s.rdn.mstate + ofBit s.rdn.tokIn 4 + ofBit s.rdn.hbIn 5 + ofBit s.rdn.elade.up 6 +
    s.rdn.elade.lanes.toNat * 2 ^ 7 + ofBit s.rdn.window 9 + ofBit (peerHealthy s) 10 + ofBit (peerFlag s 0) 11 +
    ofBit (peerFlag s 3) 12 + ofBit s.rdn.mirrorOk 13 + ofBit s.rdn.hbPathFault 14

/-- Registers of RDN that are computed at the read. -/
def rdnRead (s : State) (o : Nat) : Option Nat :=
  if o = 0x80 then some (rdnStatWord s)
  else if o = 0x84 then some (healthBits s)
  else if o = 0x88 then some s.rdn.epoch
  else if o = 0x94 then
    some (match s.rdn.holdFrom with
      | some t => fld s .rdn 0x44 0 12 - (elapsedNs s - t) / 1000000000
      | none => 0)
  else if o = 0x98 then
    some (if s.rdn.window then (200000000 - (elapsedNs s - s.rdn.windowFrom) + 999999) / 1000000 else 0)
  else none

/-- Bits [31:8] of RDN PG_STAT. -/
def rdnStat (s : State) : Nat := mCode s.rdn.mstate * 256 + ofBit s.rdn.healthy 12 + ofBit (tokenOk s) 13

/-- A reset of the Real-time island: everything takes its reset value (R342); CMD_OK and the pins' inputs are the
world's. -/
def rdnIslandReset (s : State) : State :=
  let r := s.rdn
  { s with rdn := { Rdn.reset with
      cmdOk := r.cmdOk, tokIn := r.tokIn, hbOut := r.hbOut, hbIn := r.hbIn, hbSup := r.hbSup,
      elade := { Elade.reset with lanes := r.elade.lanes } } }

end Sys2Proof.Machine
end

