-- ==== Sys2Proof/Machine/Spindle.lean ====
section
/-!
DEFINITION. Spindle: the image and its sections (R286 to R289), the cycle (R290 to R292), GOOSE inputs (R293), outputs
and publications (R294), forces (R295, R296), retentive variables (R297 to R299, R329), start, stop and online change
(R300, R301). The compiled program is `Config.spindleRun`.
-/

namespace Sys2Proof.Machine

/-! ### The image -/

def imgW (img : List Byte) (o : Nat) : Nat := numAt img o 4

/-- A variable table entry (R287). -/
structure VarEnt where
  id : Nat
  off : Nat
  size : Nat
  type : Nat
  cls : Nat
  retain : Bool
  forceable : Bool
  tag : Nat
  deriving DecidableEq, Repr

def varAt (e : List Byte) : VarEnt :=
  let fl := numAt e 13 1
  { id := numAt e 0 4, off := numAt e 4 4, size := numAt e 8 3, type := numAt e 11 1, cls := numAt e 12 1,
    retain := bit fl 0, forceable := bit fl 1, tag := numAt e 14 2 }

/-- The entries of a section: where its offset and count stand, and the entry's size. -/
def section_ (img : List Byte) (o size : Nat) : List (List Byte) :=
  (List.range (imgW img (o + 4))).map fun k => slice img (imgW img o + size * k) size

def varTable (img : List Byte) : List VarEnt := (section_ img 88 16).map varAt

def findVar (img : List Byte) (id : Nat) : Option VarEnt := (varTable img).find? fun v => v.id == id

/-- Two variables of the same type (R287). -/
def sameType (a b : VarEnt) : Bool := a.type == b.type && a.size == b.size && a.tag == b.tag

/-- The size of an elementary type. -/
def typeSize (t : Nat) : Nat :=
  if t = 0 ∨ t = 1 ∨ t = 10 then 1 else if t = 2 then 2 else if t = 3 ∨ t = 5 then 4 else if t = 4 ∨ t = 6 ∨ t = 7 then 8
  else if t = 8 then 32 else if t = 9 then 4 else 1

/-- An input map entry (R288). -/
structure InEnt where
  station : Nat
  member : Nat
  type : Nat
  fixed : Bool
  off : Nat
  qoff : Nat
  value : Nat
  deriving DecidableEq, Repr

def inMap (img : List Byte) : List InEnt :=
  (section_ img 96 24).map fun e =>
    { station := numAt e 0 1, member := numAt e 1 1, type := numAt e 2 1, fixed := numAt e 3 1 == 1,
      off := numAt e 4 4, qoff := numAt e 8 4, value := numAt e 12 8 }

/-- An output map entry (R288). -/
structure OutEnt where
  pub : Nat
  member : Nat
  type : Nat
  off : Nat
  id : Nat
  deriving DecidableEq, Repr

def outMap (img : List Byte) : List OutEnt :=
  (section_ img 104 12).map fun e =>
    { pub := numAt e 0 1, member := numAt e 1 1, type := numAt e 2 1, off := numAt e 4 4, id := numAt e 8 4 }

/-- The members of a publication in member order (R294). -/
def pubMembers (m : List OutEnt) (p : Nat) : List OutEnt :=
  (List.range 32).filterMap fun k => m.find? fun e => e.pub == p && e.member == k

/-- The GOOSE subscriptions of the stations. -/
def stations (img : List Byte) : List Nat := (section_ img 112 4).map fun e => numAt e 0 2

/-- New and old ID of each migration pair. -/
def migMap (img : List Byte) : List (Nat × Nat) := (section_ img 120 8).map fun e => (numAt e 0 4, numAt e 4 4)

def dataLen (img : List Byte) : Nat := imgW img 76
def retOff (img : List Byte) : Nat := imgW img 80
def retLen (img : List Byte) : Nat := imgW img 84
def hasErrTask (img : List Byte) : Bool := bit (numAt img 6 2) 0
def imgSerial (img : List Byte) : Nat := imgW img 16
def imgDigest (img : List Byte) : Nat := imgW img 136

/-- The part of an image that its signature covers. -/
def imgSigned (img : List Byte) : List Byte := img.take (img.length - sigLen)

/-- The checks of R286 and R289, signature, variant and digest apart. -/
def spnImageForm (img : List Byte) : Bool :=
  let n := img.length
  let fits (o size maxN : Nat) : Bool :=
    decide (imgW img (o + 4) ≤ maxN) &&
      (imgW img (o + 4) == 0 || (decide (256 ≤ imgW img o) && decide (imgW img o % 8 = 0) &&
        decide (imgW img o + size * imgW img (o + 4) ≤ n - sigLen)))
  let dl := dataLen img
  let inData (o k : Nat) : Bool := decide (o + k ≤ dl)
  let head : Bool := decide (256 + sigLen ≤ n) && decide (n ≤ 0x100000) && imgW img 0 == 0x494E5053 &&
    numAt img 4 2 == 1 && imgW img 8 == n
  head && fits 64 1 0x80000 && fits 72 1 0x40000 && decide (0x400 ≤ dl) && decide (dl % 8 = 0) &&
    decide (retOff img % 8 = 0) && decide (retLen img % 8 = 0) && decide (retLen img ≤ 0x20000) &&
    inData (retOff img) (retLen img) && fits 88 16 16384 && fits 96 24 4096 && fits 104 12 4096 && fits 112 4 256 &&
    fits 120 8 4096 && decide (imgW img 128 < imgW img 68) &&
    (imgW img 132 == 0xFFFFFFFF || decide (imgW img 132 < imgW img 68)) &&
    (hasErrTask img == (imgW img 132 != 0xFFFFFFFF)) &&
    (varTable img).all (fun v => decide (1 ≤ v.size) && decide (v.size ≤ 65536) && inData v.off v.size &&
      (!v.retain || (v.cls == 0 && decide (retOff img ≤ v.off) && decide (v.off + v.size ≤ retOff img + retLen img)))) &&
    (inMap img).all (fun e => decide (e.station < imgW img 116) && inData e.off (typeSize e.type) &&
      (e.qoff == 0xFFFFFFFF || inData e.qoff 2)) &&
    (outMap img).all (fun e => decide (128 ≤ e.pub) && decide (e.member < 32) && inData e.off (typeSize e.type)) &&
    decide ((outMap img).map fun e => e.pub * 256 + e.member).Nodup &&
    (stations img).all (fun g => decide (g < 2048))

/-- The digest at offset 32, checked after the signature. -/
def spnDigestOk (img : List Byte) : Bool := slice img 32 32 == shake256 ((imgSigned img).drop 256) 32

/-! ### Data memory -/

def spnImg (s : State) : List Byte :=
  match s.spn.cur with
  | some r => rdBytes s r.addr r.len
  | none => []

def dPut (d : List Byte) (o : Nat) (bs : List Byte) : List Byte := d.take o ++ bs ++ d.drop (o + bs.length)

/-- The initial data of an image with FIRST set in its edge records (R300). -/
def initData (img : List Byte) : List Byte :=
  let d := slice img (imgW img 72) (dataLen img)
  (varTable img).foldl (fun d v => if v.type = 9 then dPut d (v.off + 2) [1] else d) d

def setData (s : State) (d : List Byte) : State := { s with spn := { s.spn with data := d } }

/-- The monotonic time in ns (R288, R290). -/
def monoNs (s : State) : Nat := (((s.tim.time : Int) - s.spn.rtRelease) / (nsU : Int)).toNat

/-- Does Spindle do anything (PG_CTL.EN, the island)? -/
def spnOn (s : State) : Bool := enabled s .spn && isUp s .rt

/-! ### Forces (R295) -/

/-- A variable that may be forced: offset, size, class. -/
def forceVar (img : List Byte) (id : Nat) : Option (Nat × Nat × Nat) :=
  if 0xFFFF0000 ≤ id ∧ id < 0xFFFF0020 then some (0x200 + 4 * (id - 0xFFFF0000), 4, 2)
  else if id = 0xFFFF0100 then some (0x28, 4, 1)
  else match findVar img id with
    | some v => if v.forceable then some (v.off, v.size, v.cls) else none
    | none => none

/-- The forces of a class applied to data. -/
def applyForces (img : List Byte) (fs : List (Nat × Force)) (cls : Nat) (d : List Byte) : List Byte :=
  fs.foldl (fun d e =>
    match forceVar img e.2.id.toNat with
    | some (o, size, c) =>
      if c ≠ cls then d
      else
        let n := min size 8
        let m := e.2.mask.toNat % 2 ^ (8 * n)
        let v := numAt d o n
        dPut d o (le n (v - Nat.land v m + Nat.land e.2.value.toNat m))
    | none => d) d

/-- The valid entry of an ID. -/
def forceOf (s : State) (id : Nat) : Option (Nat × Force) := s.spn.force.find? fun e => e.2.id.toNat == id

/-- An entry added or merged; none where the command ends with STATE. -/
def forceSet (s : State) (id mask value : Nat) : Option State :=
  if s.spn.cur.isNone || (forceVar (spnImg s) id).isNone then none
  else
    let put (k : Nat) (f : Force) : State := irq { s with spn := { s.spn with force := putK s.spn.force k f } } .spn 4
    match forceOf s id with
    | some (k, f) =>
      let m : BitVec 64 := BitVec.ofNat 64 mask
      let v : BitVec 64 := BitVec.ofNat 64 value
      some (put k { f with mask := f.mask ||| m, value := (f.value &&& ~~~m) ||| (v &&& m) })
    | none =>
      match (List.range 256).find? fun k => (findK s.spn.force k).isNone with
      | some k => some (put k { id := BitVec.ofNat 32 id, mask := BitVec.ofNat 64 mask, value := BitVec.ofNat 64 value })
      | none => none

def forceDel (s : State) (id : Nat) : Option State :=
  match forceOf s id with
  | some (k, _) => some (irq { s with spn := { s.spn with force := delK s.spn.force k } } .spn 4)
  | none => none

def forceClear (s : State) : State :=
  if s.spn.force = [] then s else irq { s with spn := { s.spn with force := [] } } .spn 4

/-! ### Publications 128 to 255 (R294) -/

/-- A minimal INTEGER of a signed value. -/
def intBytes : (fuel : Nat) → (n : Nat) → Int → List Byte
  | 0, n, v => be n (ofSigned (8 * n) v)
  | f + 1, n, v => if -(2 ^ (8 * n - 1) : Nat) ≤ v ∧ v < (2 ^ (8 * n - 1) : Nat) then be n (ofSigned (8 * n) v) else intBytes f (n + 1) v

/-- A member's encoding. -/
def encodeMember (d : List Byte) (e : OutEnt) : List Byte :=
  let n := typeSize e.type
  let v := numAt d e.off n
  if e.type = 0 then [0x83, 1, if v = 0 then 0 else 1]
  else if e.type = 5 then [0x87, 5, 8] ++ be 4 v
  else if e.type = 10 then [0x84, 2, 6, BitVec.ofNat 8 (v % 4 * 64)]
  else
    let bs := intBytes 8 1 (toSigned (8 * n) v)
    [0x85, BitVec.ofNat 8 bs.length] ++ bs

/-- A Spindle publication's members taken from the data memory. -/
def loadPubMembers (s : State) (m : List OutEnt) (p : Nat) : State :=
  let ms := pubMembers m p
  setGp s p { gpOf s p with
    values := ms.map (encodeMember s.spn.data), substs := ms.map fun e => (forceOf s e.id).isSome }

/-- Publications at an output phase: a change of a member, or of the member list, makes a new state. -/
def pubsOut (s : State) (m : List OutEnt) : State :=
  let s := forEach (List.range 128) s fun s k =>
    let p := 128 + k
    if pubMembers m p = [] then s
    else
      let old := (gpOf s p).values
      let s := loadPubMembers s m p
      let x := gpOf s p
      if x.state = 1 ∧ (x.values ≠ old ∨ p ∈ s.spn.pubNew) then gpNew s p none else s
  { s with spn := { s.spn with pubNew := [] } }

/-- Every Spindle publication loaded and checked, at a start. -/
def pubsStart (s : State) : State :=
  let m := outMap (spnImg s)
  forEach (List.range 128) s fun s k => gpCheck (loadPubMembers s m (128 + k)) (128 + k)

/-! ### Retentive variables -/

def halfAddr (h : Nat) : Nat := 0x50400000 + h * 0x80000

/-- The header of a half (R297). -/
def retHeader (seq serial digest len open_ : Nat) : List Byte :=
  withCrc (le 4 0x54455253 ++ le 4 seq ++ le 4 serial ++ le 4 digest ++ le 4 len ++ le 4 open_ ++ List.replicate 36 0)

def halfValid (s : State) (h : Nat) : Bool :=
  let b := rdBytes s (halfAddr h) 64
  numAt b 0 4 == 0x54455253 && crcOk b

def halfSeq (s : State) (h : Nat) : Nat := rdNum s (halfAddr h + 4) 4

/-- The active half: the valid one with the higher switch sequence. -/
def activeHalf (s : State) : Option Nat :=
  match halfValid s 0, halfValid s 1 with
  | true, true => some (if halfSeq s 0 < halfSeq s 1 then 1 else 0)
  | true, false => some 0
  | false, true => some 1
  | false, false => none

/-- The words of the retentive region, as offsets in the data memory. -/
def retWords (img : List Byte) : List Nat := (List.range (retLen img / 8)).map fun k => retOff img + 8 * k

def retCopyAddr (s : State) (img : List Byte) (o : Nat) : Nat := halfAddr s.spn.retHalf + 64 + (o - retOff img)

/-- Words sent to the Tailstock, at most 345 in a frame (R326, R329). -/
def mirrorSend (img data : List Byte) : (fuel : Nat) → State → List Nat → State
  | 0, s, _ => s
  | _ + 1, s, [] => s
  | n + 1, s, ws =>
    let w := ws.take 345
    let s := linkSend s 2 1 (le 4 (imgSerial img) ++ le 4 (imgDigest img) ++ le 4 w.length ++
      (w.map fun o => le 4 o ++ slice data o 8).flatten)
    mirrorSend img data n s (ws.drop 345)

/-- The Headstock sends its whole retentive region (R329). -/
def mirrorFull (s : State) : State :=
  if s.rdn.mstate != .headstock || s.spn.cur.isNone || !s.rdn.elade.up then s
  else
    let img := spnImg s
    let s := mirrorSend img s.spn.data 64 s (retWords img)
    linkSend s 2 2 (le 4 (imgSerial img) ++ le 4 (imgDigest img))

/-- Words committed into the active half, and mirrored by the Headstock (R298, R329). While Memory is down they are discarded at the
crossing (R15) and differ on. -/
def commitWords (s : State) (img : List Byte) (ws : List Nat) : State :=
  if isDown s .memory then forEach ws s fun s _ => crossDrop s .spn 0
  else
  let now := monoNs s
  let s := forEach ws s fun s o =>
    let s := wrBytes s (retCopyAddr s img o) (slice s.spn.data o 8)
    cnt { s with spn := { s.spn with committed := putK s.spn.committed o (now, false) } } .spn 0 0xBC
  if s.rdn.mstate = .headstock then mirrorSend img s.spn.data 64 s ws else s

/-- The words that differ from their committed copy. -/
def changedWords (s : State) (img : List Byte) : List Nat :=
  (retWords img).filter fun o => slice s.spn.data o 8 != rdBytes s (retCopyAddr s img o) 8

/-- The comparison of R298 at an output phase. -/
def retCompare (s : State) (img : List Byte) : State :=
  let now := monoNs s
  let due (o : Nat) : Bool := match findK s.spn.committed o with
    | some (t, _) => decide (t + 100000000 ≤ now)
    | none => true
  let ch := changedWords s img
  let late := ch.filter fun o => !due o && !(match findK s.spn.committed o with | some (_, d) => d | none => false)
  let s := forEach late s fun s o =>
    match findK s.spn.committed o with
    | some (t, _) => cnt { s with spn := { s.spn with committed := putK s.spn.committed o (t, true) } } .spn 0 0xC0
    | none => s
  commitWords s img (ch.filter due)

/-- The new region and its header written to the inactive half, which becomes active; the image of a switch is
committed with it (R301). -/
def writeNewHalf (s : State) : State :=
  if !s.spn.newHalf || s.spn.cur.isNone || isDown s .memory then s
  else
    let img := spnImg s
    let h := 1 - s.spn.retHalf
    let q := (s.spn.retSeq + 1) % 2 ^ 32
    let s := wrBytes s (halfAddr h + 64) (slice s.spn.data (retOff img) (retLen img))
    let s := wrBytes s (halfAddr h) (retHeader q (imgSerial img) (imgDigest img) (retLen img) 0)
    let pend := if s.nv.spn = s.spn.cur then s.nv.spnPend else none
    { s with
      nv := { s.nv with spn := s.spn.cur, spnPend := pend }
      spn := { s.spn with retHalf := h, retSeq := q, newHalf := false, committed := [] } }

/-- A flush (R299): the new half of a switch first, then every changed word, inside the header's open mark. -/
def spnFlush (s : State) : State :=
  let s := { s with spn := { s.spn with flushDue := false } }
  if s.spn.cur.isNone || s.spn.data = [] || isDown s .memory then s
  else
    let s := writeNewHalf s
    let img := spnImg s
    let head (o : Nat) : List Byte := retHeader s.spn.retSeq (imgSerial img) (imgDigest img) (retLen img) o
    let s := wrBytes s (halfAddr s.spn.retHalf) (head 1)
    let s := commitWords s img (changedWords s img)
    wrBytes s (halfAddr s.spn.retHalf) (head 0)

/-- The flush at the rise of the power-fail warning waits for the output phase in progress. -/
def spnFlushSoon (s : State) : State :=
  if s.spn.inCycle then { s with spn := { s.spn with flushDue := true } } else spnFlush s

/-- The retentive variables at a start (R299). Without a half that fits, a new one is made after the first cycle. -/
def retRestore (s : State) (img : List Byte) : State :=
  let flags (s : State) (mis torn : Bool) : State :=
    let s := { s with spn := { s.spn with retMismatch := mis, retTorn := torn } }
    if mis || torn then evt (irq s .spn 5) 0x1013 1 0 (ofBit mis 0 + ofBit torn 1) 0 else s
  match activeHalf s with
  | none => flags { s with spn := { s.spn with retHalf := 1, retSeq := 0, newHalf := true } } true false
  | some h =>
    let b := rdBytes s (halfAddr h) 64
    let s := { s with spn := { s.spn with retHalf := h, retSeq := numAt b 4 4 } }
    let torn := numAt b 20 4 != 0
    if numAt b 8 4 = imgSerial img ∧ numAt b 12 4 = imgDigest img then
      flags (setData s (dPut s.spn.data (retOff img) (rdBytes s (halfAddr h + 64) (retLen img)))) false torn
    else flags { s with spn := { s.spn with newHalf := true } } true torn

/-! ### Start and stop -/

/-- Words and publications at the entry to STOPPED or FAULT (R292). -/
def spnHalt (s : State) (st : SpnState) : State :=
  if s.spn.state = st then s
  else
    let s := { s with spn := { s.spn with state := st, inCycle := false, cycleStart := none } }
    let s := if flag s .spn 0x40 1 then clearWords s 64 else s
    forEach ((List.range 128).filter fun k => (gpOf s (128 + k)).state == 1) s fun s k => gpNew s (128 + k) none

/-- A start (R300): the bank loaded, FIRST set, the retentive variables restored; it runs unless RUN_AT_START is 0. -/
def spnStart (s : State) : State :=
  match s.nv.spn with
  | none => s
  | some r =>
    let s := { s with spn := { s.spn with cur := some r, firstStart := true, firstSwitch := false, staged := [], mirror := [] } }
    let img := spnImg s
    let s := extend s 4 img
    let s := retRestore (setData s (initData img)) img
    let s := { s with spn := { s.spn with
      state := if flag s .spn 0x40 0 then .running else .stopped, inCycle := false, cycleStart := none } }
    pubsStart s

/-- SPN_RUN (R300, R302); none where it ends with STATE. -/
def spnRun (s : State) (cold : Bool) : Option State :=
  match s.spn.state with
  | .noImage | .running => none
  | _ =>
    let img := spnImg s
    let d := if cold then dPut (initData img) (retOff img) (slice s.spn.data (retOff img) (retLen img)) else s.spn.data
    some { s with spn := { s.spn with state := .running, data := d, inCycle := false, cycleStart := none } }

/-! ### GOOSE inputs (R293) -/

/-- The top-level elements of allData: tag and content. -/
def tlvs : (fuel : Nat) → List Byte → List (Nat × List Byte)
  | 0, _ => []
  | n + 1, t :: l :: r =>
    let lv := l.toNat
    if lv < 128 then (t.toNat, r.take lv) :: tlvs n (r.drop lv)
    else
      let k := lv - 128
      let len := ofBe (r.take k)
      let r := r.drop k
      (t.toNat, r.take len) :: tlvs n (r.drop len)
  | _ + 1, _ => []

/-- A member decoded into a type, as the bytes of the variable. -/
def decodeMember (type : Nat) (m : Option (Nat × List Byte)) : Option (List Byte) :=
  match m with
  | none => none
  | some (t, c) =>
    let n := typeSize type
    if type = 0 then (if t = 0x83 ∧ c.length = 1 then some [if c = [0] then 0 else 1] else none)
    else if type = 5 then (if t = 0x87 ∧ c.length = 5 ∧ c.take 1 = [8] then some ((c.drop 1).reverse) else none)
    else if type = 10 then (if t = 0x84 ∧ c.length = 2 ∧ c.take 1 = [6] then some [BitVec.ofNat 8 (ofBe (c.drop 1) / 64)] else none)
    else if (t = 0x85 ∨ t = 0x86) ∧ 0 < c.length then
      let v : Int := if t = 0x85 then toSigned (8 * c.length) (ofBe c) else (ofBe c : Int)
      if -(2 ^ (8 * n - 1) : Nat) ≤ v ∧ v < (2 ^ (8 * n) : Nat) then some (le n (ofSigned (8 * n) v)) else none
    else none

/-- A 13-bit quality; bit i of the bit-string in bit i of the word. -/
def decodeQuality (m : Option (Nat × List Byte)) : Option (BitVec 16) :=
  match m with
  | some (0x84, [3, a, b]) =>
    let v := a.toNat * 256 + b.toNat
    some (BitVec.ofNat 16 ((List.range 13).foldl (fun q i => q + ofBit (v.testBit (15 - i)) i) 0))
  | _ => none

/-- A decode error of a station: counted, and recorded the first time in each second. -/
def decodeError (s : State) (st member : Nat) : State :=
  let s := irq (cnt s .spn 0 0xB8) .spn 7
  let sec := nowSec s
  if findK s.spn.decRec st = some sec then s
  else evt { s with spn := { s.spn with decRec := putK s.spn.decRec st sec } } 0x1011 1 st member 0

/-- A new state of subscription `g` decoded into the staging buffer. -/
def decodeState (s : State) (g : Nat) (all : List Byte) : State :=
  if s.spn.cur.isNone then s
  else
    let img := spnImg s
    let st := stations img
    let ms := tlvs (all.length + 1) all
    let es := inMap img
    forEach ((List.range es.length).filter fun k => match es[k]? with
        | some e => st.getD e.station 4096 == g
        | none => false) s fun s k =>
      match es[k]? with
      | none => s
      | some e =>
        let v := decodeMember e.type ms[e.member]?
        let q := if e.qoff = 0xFFFFFFFF then none else decodeQuality ms[e.member + 1]?
        let s := if v.isNone then decodeError s e.station e.member else s
        let s := if e.qoff ≠ 0xFFFFFFFF ∧ q.isNone then decodeError s e.station (e.member + 1) else s
        { s with spn := { s.spn with staged := putK s.spn.staged k (v, q) } }

/-- The oldest state that the subscriber has passed on is decoded. -/
def gooseDecode (s : State) : State :=
  match s.spn.inbox with
  | [] => s
  | m :: rest => if isDown s .rt then s else decodeState { s with spn := { s.spn with inbox := rest } } m.1 m.2

/-- A LIVE-to-STALE transition of the stations of a subscription is queued. -/
def stationDropout (s : State) (g : Nat) : State :=
  if isDown s .rt || s.spn.cur.isNone then s
  else
    let st := stations (spnImg s)
    forEach ((List.range st.length).filter fun k => st.getD k 4096 == g) s fun s k =>
      let s := irq s .spn 2
      if s.spn.errq.length ≥ 256 then cnt s .spn 0 0xB4
      else { s with spn := { s.spn with errq := s.spn.errq ++ [k] } }

/-! ### The cycle -/

/-- State of a station, 2 bits. -/
def stationState (s : State) (g : Nat) : Nat :=
  match (gOf s g).state with
  | .idle => 0
  | .live => 1
  | .stale => 2

/-- The input system area (R290). -/
def systemArea (s : State) (img : List Byte) (cyc last : Nat) : List Byte :=
  let st := stations img
  let fl := ofBit s.spn.firstStart 0 + ofBit s.spn.firstSwitch 1 + ofBit (!s.spn.force.isEmpty) 2 + ofBit (tokenOk s) 3
  let states := (List.range 256).foldl (fun a k => a + (match st[k]? with | some g => stationState s g | none => 0) * 4 ^ k) 0
  let bi (i : Nat) : List Byte := match findK s.dec.biStamp i with
    | some t => le 4 t.sec ++ le 4 (t.ns + t.quality * 2 ^ 30)
    | none => le 8 0
  le 4 cyc ++ le 4 fl ++ le 8 (monoNs s) ++ (nowStamp s).bytes ++ le 4 last ++ le 4 0 ++ le 4 s.dec.bi.toNat ++
    le 4 s.spn.biSeen.toNat ++ ((List.range 32).map fun w => le 4 (decWord s w)).flatten ++ le 64 states ++
    le 16 0 ++ ((List.range 32).map bi).flatten

/-- The input variables of the map (R293). -/
def inputVars (s : State) (img d : List Byte) : List Byte :=
  let st := stations img
  let es := inMap img
  (List.range es.length).foldl (fun d k =>
    match es[k]? with
    | none => d
    | some e =>
      let live := stationState s (st.getD e.station 4096) == 1
      let n := typeSize e.type
      match (if live then findK s.spn.staged k else none) with
      | some (some v, q) =>
        let d := dPut d e.off (padTo n v)
        (match q with
         | some q => dPut d e.qoff (le 2 q.toNat)
         | none => d)
      | _ => if e.fixed then dPut d e.off (le n e.value) else d) d

/-- The error task once for each queued dropout, then the main program (R291, R293). -/
def runTasks (img : List Byte) : List Nat → List Byte → List Byte
  | [], d => padTo (dataLen img) (Config.spindleRun img (imgW img 128) d)
  | st :: r, d =>
    let d := dPut d 0x24 (le 2 st ++ le 2 r.length)
    runTasks img r (if hasErrTask img then padTo (dataLen img) (Config.spindleRun img (imgW img 132) d) else d)

/-- The mirrored words of the Headstock applied (R329). -/
def applyMirror (s : State) : State :=
  let d := s.spn.mirror.foldl (fun d e => if e.1 + 8 ≤ d.length then dPut d e.1 (le 8 e.2.toNat) else d) s.spn.data
  { s with spn := { s.spn with data := d, mirror := [] } }

/-- The input phase and what runs after it (R290, R291). -/
def inputPhase (s : State) : State :=
  if !spnOn s || s.spn.state != .running || s.spn.inCycle then s
  else
    let img := spnImg s
    let now := monoNs s
    let s := applyMirror s
    let gap := if s.spn.firstSwitch then now - s.spn.gapFrom else 0
    let s := if s.spn.firstSwitch then setReg s .spn 0 0x9C gap else s
    let s :=
      match s.spn.cycleStart with
      | none => s
      | some t =>
        let c := min (now - t - gap) 0xFFFFFFFF
        let s := setReg s .spn 0 0x90 c
        let s := setReg s .spn 0 0x94 (min (reg s .spn 0 0x94) c)
        setReg s .spn 0 0x98 (max (reg s .spn 0 0x98) c)
    let cyc := (reg s .spn 0 0x8C + 1) % 2 ^ 32
    let s := setReg s .spn 0 0x8C cyc
    let d := dPut s.spn.data 0 (systemArea s img cyc (reg s .spn 0 0x90))
    let d := applyForces img s.spn.force 1 (inputVars s img d)
    let errq := if hasErrTask img then s.spn.errq else []
    { s with spn := { s.spn with
        data := runTasks img errq d, errq := [], biSeen := 0, firstStart := false, firstSwitch := false, inCycle := true,
        cycleStart := some now } }

/-- The words and DEC_SUBST that an output phase writes (R294, R295), at one edge. -/
def wordsOut (s : State) : State :=
  let own := (List.range 32).filter fun w => wordOwner s w == 64
  let sub (w : Nat) : Nat := match forceOf s (0xFFFF0000 + w) with
    | some (_, f) => f.mask.toNat
    | none => 0
  let s := forEach own s fun s w =>
    { s with dec := { s.dec with subst := modAt s.dec.subst w fun _ => BitVec.ofNat 32 (sub w) } }
  wordsSet s (own.map fun w => (w, numAt s.spn.data (0x200 + 4 * w) 4))

/-- The output phase with its commits; the boundary's actions follow it (R291, R298, R300, R301). -/
def outputPhase (s : State) : State :=
  if !spnOn s || s.spn.state != .running || !s.spn.inCycle then s
  else
    let img := spnImg s
    let s := setData s (applyForces img s.spn.force 2 s.spn.data)
    let s := wordsOut s
    let s := pubsOut s (outMap img)
    let s := { s with spn := { s.spn with inCycle := false } }
    let s := if s.spn.newHalf then mirrorFull (writeNewHalf s) else retCompare s img
    if s.spn.flushDue then spnFlush s else s

/-- No output phase has begun within WD_TIME (R292). -/
def spnWatchdog (s : State) : State :=
  if !spnOn s || s.spn.state != .running || !s.spn.inCycle then s
  else
    let d := padTo s.spn.data.length (Config.spindleAborted (spnImg s) s.spn.data)
    let s := irq (cnt (setData s d) .spn 0 0xB0) .spn 1
    let s := spnHalt (evt s 0x1010 2 0 0 (reg s .spn 0 0x8C)) .fault
    if s.spn.flushDue then spnFlush s else s

/-! ### Online change (R301) -/

/-- What a switch reports. -/
structure SwitchCounts where
  copied : Nat
  fresh : Nat
  retyped : Nat
  deriving DecidableEq, Repr

/-- The carry-over of the variables: new data and counts. -/
def carryOver (old new oldData : List Byte) : List Byte × SwitchCounts :=
  let pairs := migMap new
  let oldVars := varTable old
  (varTable new).foldl (fun acc v =>
    let d := acc.1
    let k := acc.2
    let id := (findK pairs v.id).getD v.id
    match oldVars.find? fun o => o.id == id with
    | some o =>
      if sameType o v then (dPut d v.off (slice oldData o.off o.size), { k with copied := k.copied + 1 })
      else (if v.type = 9 then dPut d (v.off + 2) [1] else d, { k with retyped := k.retyped + 1 })
    | none => (if v.type = 9 then dPut d (v.off + 2) [1] else d, { k with fresh := k.fresh + 1 }))
    (slice new (imgW new 72) (dataLen new), { copied := 0, fresh := 0, retyped := 0 })

/-- Old variables that no entry of the new image takes up. -/
def discarded (old new : List Byte) : Nat :=
  let pairs := migMap new
  let taken := (varTable new).map fun v => (findK pairs v.id).getD v.id
  ((varTable old).filter fun o => !taken.contains o.id).length

/-- A force entry under the new image: kept, or the reason for which it is dropped. -/
def carryForce (old new : List Byte) (f : Force) : Force ⊕ Nat :=
  let id := f.id.toNat
  if 0xFFFF0000 ≤ id then .inl f
  else
    let pairs := migMap new
    match (varTable new).find? fun v => v.id == id || findK pairs v.id == some id with
    | none => .inr 1
    | some v =>
      match findVar old id with
      | none => .inr 1
      | some o =>
        if !sameType o v then .inr 2
        else if !v.forceable || v.cls != o.cls then .inr 3
        else .inl { f with id := BitVec.ofNat 32 v.id }

/-- The staged inputs under the new input map: those of the same member of the same subscription. -/
def carryStaged (s : State) (old new : List Byte) : List (Nat × Option (List Byte) × Option (BitVec 16)) :=
  let so := stations old
  let sn := stations new
  let eo := inMap old
  let en := inMap new
  (List.range en.length).filterMap fun k =>
    match en[k]? with
    | none => none
    | some e =>
      let same (j : Nat) : Bool := match eo[j]? with
        | some o => so.getD o.station 4096 == sn.getD e.station 4097 && o.member == e.member && o.type == e.type &&
            (o.qoff == 0xFFFFFFFF) == (e.qoff == 0xFFFFFFFF)
        | none => false
      match (List.range eo.length).find? same with
      | some j => (findK s.spn.staged j).map fun v => (k, v)
      | none => none

/-- The pending image becomes active (R301): the state and the response's data. -/
def doSwitch (s : State) : State × List Byte :=
  match s.nv.spnPend with
  | none => (s, [])
  | some r =>
    let old := spnImg s
    let new := rdBytes s r.addr r.len
    let fresh := s.spn.cur.isNone
    let was := s.spn.force
    let (d, k) : List Byte × SwitchCounts :=
      if fresh then (initData new, { copied := 0, fresh := 0, retyped := 0 }) else carryOver old new s.spn.data
    let fs := s.spn.force.map fun e => (e.1, e.2, carryForce old new e.2)
    let kept := fs.filterMap fun e => match e.2.2 with
      | .inl f => some (e.1, f)
      | .inr _ => none
    let dropped := fs.filterMap fun e => match e.2.2 with
      | .inl _ => none
      | .inr c => some (e.2.1.id.toNat, c)
    let gone := if fresh then 0 else discarded old new
    let om := outMap old
    let nm := outMap new
    let ids (m : List OutEnt) (p : Nat) : List (Nat × Nat × Nat) := (pubMembers m p).map fun e => (e.member, e.type, e.id)
    let diff := ((List.range 128).map fun p => 128 + p).filter fun p => ids om p != ids nm p
    let running := s.spn.state == .running
    let s := { s with spn := { s.spn with
      cur := some r, data := d, force := kept, firstSwitch := true, lastSwitch := some (monoNs s), gapFrom := monoNs s,
      staged := if fresh then [] else carryStaged s old new, newHalf := true, pubNew := diff, mirror := [],
      state := if s.spn.state == SpnState.noImage then SpnState.stopped else s.spn.state } }
    let s := { s with rdn := { s.rdn with mirrorOk := false } }
    let s := extend s 4 new
    -- a publication that gains its first member, or loses its last, is checked again
    let s := forEach diff s fun s p =>
      if pubMembers om p = [] ∨ pubMembers nm p = [] then gpCheck (loadPubMembers s nm p) p else s
    let s := if running then s else mirrorFull (writeNewHalf s)
    let s := if dropped = [] ∧ kept = was then s else irq s .spn 4
    let s := evt (irq s .spn 3) 0x1014 0 0 dropped.length
      (k.copied % 65536 + k.fresh % 65536 * 65536 + k.retyped % 65536 * 2 ^ 32)
    (s, le 4 k.copied ++ le 4 k.fresh ++ le 4 k.retyped ++ le 4 gone ++ le 4 kept.length ++ le 4 dropped.length ++
      (dropped.map fun e => le 4 e.1 ++ le 4 e.2).flatten)

/-- Has a switch taken the pending image, and is its half not written yet (R301)? -/
def switchOpen (s : State) : Bool := s.spn.newHalf && s.nv.spn != s.spn.cur

/-- Is an image pending? One that a switch in progress has taken is not. -/
def spnPending (s : State) : Bool := s.nv.spnPend.isSome && !switchOpen s

/-- May SPN_SWITCH be accepted? -/
def switchLegal (s : State) : Bool :=
  spnPending s &&
    (match s.spn.lastSwitch with
     | some t => decide (t + 1000000000 ≤ monoNs s)
     | none => true)

/-! ### The mirror's receiving side (R329) -/

/-- A MIRROR frame of the Headstock: words wait for the next input phase when both images are the same. -/
def mirrorReceive (s : State) (type : Nat) (p : List Byte) : State :=
  if s.rdn.mstate = .headstock then s
  else
    let img := spnImg s
    let ok := s.spn.cur.isSome && numAt p 0 4 == imgSerial img && numAt p 4 4 == imgDigest img
    let s := { s with rdn := { s.rdn with mirrorOk := ok } }
    if !ok || type != 1 then s
    else
      { s with spn := { s.spn with
        mirror := s.spn.mirror ++ (List.range (min (numAt p 8 4) 345)).map fun k =>
          (numAt p (12 + 12 * k) 4, BitVec.ofNat 64 (numAt p (16 + 12 * k) 8)) } }

/-! ### Registers -/

def forceSel (s : State) : Option Force := findK s.spn.force (fld s .spn 0x100 0 8)

def spnCode : SpnState → Nat
  | .noImage => 0 | .stopped => 1 | .running => 2 | .fault => 3

def refSerial (s : State) (r : Option ImageRef) : Nat :=
  match r with
  | some r => rdNum s (r.addr + 16) 4
  | none => 0

/-- Registers of SPN that are computed at the read; `busy` says that an SPN_SWITCH waits. -/
def spnRead (s : State) (o : Nat) : Option Nat :=
  let f := forceSel s
  let busy : Bool := match s.cmd.exec with
    | some e => e.wait == .switch
    | none => false
  if o = 0x80 then
    some (spnCode s.spn.state + ofBit (spnPending s) 2 + ofBit (!s.spn.force.isEmpty) 3 + ofBit s.spn.retMismatch 4 +
      ofBit s.spn.retTorn 5 + ofBit (busy || switchOpen s) 6)
  else if o = 0x84 then some (refSerial s s.spn.cur)
  else if o = 0x88 then some (if spnPending s then refSerial s s.nv.spnPend else 0)
  else if o = 0xA0 then some s.spn.force.length
  else if o = 0x104 then some (match f with | some f => f.id.toNat | none => 0)
  else if o = 0x108 then some (match f with | some f => f.mask.toNat % 2 ^ 32 | none => 0)
  else if o = 0x10C then some (match f with | some f => f.mask.toNat / 2 ^ 32 | none => 0)
  else if o = 0x110 then some (match f with | some f => f.value.toNat % 2 ^ 32 | none => 0)
  else if o = 0x114 then some (match f with | some f => f.value.toNat / 2 ^ 32 | none => 0)
  else if o = 0x118 then some (ofBit f.isSome 0)
  else if 0x1000 ≤ o ∧ o < 0x3000 then gpRead s (128 + (o - 0x1000) / 0x40) ((o - 0x1000) % 0x40)
  else none

/-- Bits [31:8] of SPN PG_STAT. -/
def spnStat (s : State) : Nat :=
  spnCode s.spn.state * 256 + ofBit (!s.spn.force.isEmpty) 10 + ofBit (spnPending s) 11

/-- After a write to a register of SPN. -/
def spnWritten (s : State) (o : Nat) : State :=
  match gpAt .spn o with
  | some p => gpCheck s p
  | none => s

/-- A reset of the Real-time island: the flush of R299 has been made; forces are lost with an event (R296). -/
def spnIslandReset (s : State) : State :=
  let n := s.spn.force.length
  let s := { s with spn := { Spn.reset with rtRelease := s.spn.rtRelease } }
  if n = 0 then s else evt s 0x1012 1 0 n 0

/-! ### Rows -/

def execInputPhase (s : State) : Host.Outcome State Fault Refusal := runOn (fun s => inputPhase s) s

def execGooseDecode (s : State) : Host.Outcome State Fault Refusal := runOn (fun s => gooseDecode s) s

def execGooseStale (g : Fin 2048) (s : State) : Host.Outcome State Fault Refusal :=
  runOn (fun s =>
    let live := (gOf s g.val).state == .live
    let s := gooseStale s g.val
    if live && (gOf s g.val).state == .stale then stationDropout s g.val else s) s

end Sys2Proof.Machine
end

