-- ==== Sys2Proof/Machine/Slices.lean ====
section
/-!
DEFINITION. Vreloc slices: the window's pointers and doorbell (R265, R268, R269), descriptors and the scheduler (R267 to
R272), frames received (R270), parting (R273 to R275), freezing and the dirty log (R276 to R278), migration records (R279),
the save image (R281), and the IOMMU's command queue (R262).
-/

namespace Sys2Proof.Machine

/-! ### Share -/

/-- The bucket's capacity in units of 2^-16 bytes. -/
def bucketMax (x : Slice) : Nat := x.burst * 1024 * 65536

/-- Tokens at the present instant: RATE / 1,000 bytes on every cycle, kept with 16 fraction bits. -/
def tokensNow (s : State) (x : Slice) : Nat :=
  min (x.tokens + (elapsedNs s - x.tokTime) * (x.rate * 65536 / 1000)) (bucketMax x)

def accrue (s : State) (x : Slice) : Slice := { x with tokens := tokensNow s x, tokTime := elapsedNs s }

/-- The share as the registers hold it. -/
def shareTaken (s : State) (i : Nat) (x : Slice) : Slice :=
  let x : Slice :=
    { x with
      weight := getBits (slReg s i 0x30) 0 8, rateEn := bit (slReg s i 0) 4, rate := getBits (slReg s i 0x34) 0 15,
      burst := getBits (slReg s i 0x38) 0 15 }
  { x with tokens := min x.tokens (bucketMax x), pend := false }

def sqLog2 (s : State) (i : Nat) : Nat := getBits (slReg s i 0x28) 0 4
def rqLog2 (s : State) (i : Nat) : Nat := getBits (slReg s i 0x28) 4 4

/-- Distance of 16-bit free-running indices. -/
def idxDist (a b : BitVec 16) : Nat := (a - b).toNat

/-! ### Doorbell and queue pointers -/

/-- A write to SQ_TAIL (R268). -/
def doorbell (s : State) (i : Nat) (t : BitVec 16) : State :=
  if isDown s .app then s
  else
    let x := slOf s i
    let old := idxDist x.sqTail x.sqHead
    let new := idxDist t x.sqHead
    let cause : Nat :=
      if windowClosed x then (if x.state = .parting then 3 else 2)
      else if new < old then 4
      else if 2 ^ sqLog2 s i < new then 1
      else 0
    if cause = 0 then setSl s i { x with sqTail := t }
    else
      let s := irq (swIrq (cnt (setSl s i { x with refuse := cause }) .sw i 0x50) i 3) .slc 5
      if windowClosed x then emit s (.accessFault i (Blk.base .sw i + 0x44)) else s

/-- A write to CQ_HEAD (R269): one beyond CQ_TAIL is ignored. -/
def cqHeadWrite (s : State) (i : Nat) (h : BitVec 16) : State :=
  let x := slOf s i
  if isDown s .app then s
  else if windowClosed x then emit s (.accessFault i (Blk.base .sw i + 0x54))
  else if idxDist x.cqTail x.cqHead < idxDist h x.cqHead then s
  else setSl s i { x with cqHead := h }

/-! ### Descriptors (R267, R269) -/

/-- Bytes of a frame without FCS. -/
def wireBytes (f : Frame) : List Byte :=
  let tag : List Byte := match f.vlan with
    | some (v, c) => [0x81, 0] ++ be 2 (v.toNat + c.toNat * 8192)
    | none => []
  padTo (f.len - 4) (macBytes f.dst ++ macBytes f.src ++ tag ++ be 2 f.etype.toNat ++ pduBytes f.pdu)

/-- A frame from bytes without FCS. -/
def frameOfBytes (b : List Byte) : Frame :=
  let tagged := slice b 12 2 == ([0x81, 0] : List Byte)
  let tci := ofBe (slice b 14 2)
  let o := if tagged then 16 else 12
  { dst := BitVec.ofNat 48 (ofBe (slice b 0 6)), src := BitVec.ofNat 48 (ofBe (slice b 6 6)),
    vlan := if tagged then some (BitVec.ofNat 12 tci, BitVec.ofNat 3 (tci / 8192)) else none,
    etype := BitVec.ofNat 16 (ofBe (slice b o 2)), red := .plain, len := max 64 (b.length + 4),
    pdu := .raw (b.drop (o + 2)) }

/-- The entry at SQ_HEAD; a fault or a bad entry ends it at once. -/
def fetchDesc (s : State) (i : Nat) : State :=
  let x := slOf s i
  let a := slReg2 s i 0x10 + x.sqHead.toNat % 2 ^ sqLog2 s i * 32
  match dmaRead s i a 32 with
  | (s, none) =>
    setSl s i { slOf s i with desc := some ⟨0, 0, 0, 0, 0, 0, 0, 1⟩ }
  | (s, some b) =>
    let op := numAt b 0 1
    let n := numAt b 4 4
    let ok := (op == 1 || op == 2) && decide (1 ≤ n) && decide (n ≤ 16777216) ||
      (op == 3 && decide (60 ≤ n) && decide (n ≤ 9596))
    let d : Desc :=
      { op := op, queue := numAt b 1 1 % 4, len := n, src := numAt b 8 8, dst := numAt b 16 8,
        tag := BitVec.ofNat 64 (numAt b 24 8), done := 0, status := if ok then 0 else 2 }
    setSl s i { slOf s i with desc := some d }

/-- Is the descriptor at its end? -/
def descEnded (d : Desc) : Bool := d.status != 0 || d.done == d.len

/-- The length of the next unit of a descriptor. -/
def unitLen (d : Desc) : Nat :=
  let left := d.len - d.done
  let toDst := 4096 - (d.dst + d.done) % 4096
  if d.op = 3 then d.len
  else if d.op = 2 then min left toDst
  else min left (min toDst (4096 - (d.src + d.done) % 4096))

/-- A frame a slice sends: admission tells whether it was refused (R101, R269). -/
def netTx (s : State) (d : Desc) (b : List Byte) : State × Bool :=
  let f := frameOfBytes b
  if !ipUp s 67 then (s, false)
  else
    let t := sendOwn s 67 f d.queue
    (t, t.swc.nextId != s.swc.nextId || (reg t .swc 0 0x300 == reg s .swc 0 0x300 && reg t .swc 0 0x304 == reg s .swc 0 0x304))

/-- A unit issued: its bytes move; a translation fault ends the descriptor. -/
def issueUnit (s : State) (i : Nat) (d : Desc) : State :=
  let n := unitLen d
  let put (s : State) (d : Desc) : State := setSl s i { slOf s i with desc := some d }
  if d.op = 2 then
    let pat := le 8 d.src
    let bs := (List.range n).map fun k => pat.getD ((d.done + k) % 8) 0
    match dmaWrite s i (d.dst + d.done) bs with
    | (s, true) => put s { d with done := d.done + n }
    | (s, false) => put s { d with status := 1 }
  else
    match dmaRead s i (d.src + d.done) n with
    | (s, none) => put s { d with status := 1 }
    | (s, some b) =>
      if d.op = 3 then
        match netTx s d b with
        | (s, true) => put s { d with done := n }
        | (s, false) => put s { d with status := 3 }
      else
        match dmaWrite s i (d.dst + d.done) b with
        | (s, true) => put s { d with done := d.done + n }
        | (s, false) => put s { d with status := 1 }

/-- May units of the slice be issued (R269, R273, R276)? -/
def runsUnits (x : Slice) : Bool := x.state == .active || (x.state == .parting && !x.squash)

/-- The descriptor at the head read when its first unit is scheduled and its completion entry is free. -/
def prepare (s : State) (i : Nat) : State :=
  let x := slOf s i
  if !runsUnits x || x.desc.isSome || x.sqHead == x.sqTail || decide (2 ^ sqLog2 s i ≤ idxDist x.cqTail x.cqHead) then s
  else fetchDesc s i

/-- A unit that is ready, as its descriptor. -/
def readyUnit (s : State) (i : Nat) : Option Desc :=
  let x := slOf s i
  match x.desc with
  | some d => if runsUnits x && !descEnded d then some d else none
  | none => none

/-- The inner loop of R271. -/
def issueLoop : (fuel : Nat) → State → (i : Nat) → State
  | 0, s, _ => s
  | n + 1, s, i =>
    match readyUnit s i with
    | none => s
    | some d =>
      let x := slOf s i
      let u := unitLen d
      if x.deficit < u || (x.rateEn && decide (x.tokens < u * 65536)) then s
      else
        let s := issueUnit s i d
        let x := slOf s i
        issueLoop n (setSl s i { x with
          deficit := x.deficit - u, tokens := if x.rateEn then x.tokens - u * 65536 else x.tokens }) i

/-- One slice of a round. -/
def roundSlice (s : State) (i : Nat) : State :=
  let x := accrue s (slOf s i)
  let s := setSl s i (if x.pend then shareTaken s i x else x)
  let s := prepare s i
  let x := slOf s i
  if (readyUnit s i).isNone then setSl s i { x with deficit := 0 }
  else
    let q := x.weight * 256
    issueLoop 80000 (setSl s i { x with deficit := min (x.deficit + q) (q + 9600) }) i

/-- A round (R271); nothing is issued into Memory while that is down (R15). -/
def schedulerRound (s : State) : State :=
  if isDown s .app || isDown s .memory then s else forEach ((List.range 64).filter fun i => (findK s.slc.s i).isSome) s roundSlice

/-- The transactions issued are answered. -/
def answered (s : State) (i : Nat) : State := setSl s i { slOf s i with outst := 0 }

/-- A descriptor that has ended: completion entry, pointers, interrupt (R269). -/
def descComplete (s : State) (i : Nat) : State :=
  let s := answered s i
  let x := slOf s i
  match x.desc with
  | none => s
  | some d =>
    if isDown s .app || !descEnded d || !(runsUnits x || x.state == .freezing) then s
    else
      let depth := 2 ^ sqLog2 s i
      let e := le 8 d.tag.toNat ++ le 2 x.sqHead.toNat ++ le 1 d.status ++
        le 1 ((x.sqHead.toNat / depth + 1) % 2) ++ le 4 d.done
      let s := (dmaWrite s i (slReg2 s i 0x18 + x.cqTail.toNat % depth * 16) e).1
      let x := slOf s i
      let s := setSl s i { x with desc := none, cqTail := x.cqTail + 1, sqHead := x.sqHead + 1 }
      swIrq (cnt s .slc 0 (slOff i 0x74)) i 1

/-! ### Frames for slices (R270) -/

def slMac (s : State) (i : Nat) : Mac := macOf (slReg s i 0x3C) (slReg s i 0x40)

/-- A frame into the receive queue of a slice, or dropped for it. -/
def rqDeliver (s : State) (i : Nat) (f : Frame) (stamp : Stamp) : State :=
  let x := slOf s i
  let drop (s : State) : State := cnt s .sw i 0x64
  let n := f.len - 4
  if x.rqHead = x.rqTail ∨ 2048 < n then drop s
  else
    let e := slReg2 s i 0x20 + x.rqHead.toNat % 2 ^ rqLog2 s i * 32
    match dmaRead s i e 8 with
    | (s, none) => drop s
    | (s, some b) =>
      match dmaWrite s i (ofLe b) (wireBytes f) with
      | (s, false) => drop s
      | (s, true) =>
        match dmaWrite s i (e + 8) (le 2 n ++ le 2 1 ++ le 4 0 ++ stamp.bytes) with
        | (s, false) => drop s
        | (s, true) =>
          let x := slOf s i
          swIrq (setSl s i { x with rqHead := x.rqHead + 1 }) i 2

/-- A frame that internal port 67 delivers. -/
def sliceFrame (s : State) (f : Frame) (stamp : Stamp) : State :=
  if isDown s .app then s
  else
    let takes_ (i : Nat) : Bool :=
      (slOf s i).state == .active && (if isMulticast f.dst then bit (slReg s i 0) 5 else slMac s i == f.dst)
    forEach ((List.range 64).filter takes_) s fun s i => rqDeliver s i f stamp

/-! ### Operations -/

/-- EN = 1 in FREE (R264): every queue pointer is 0; the device ID is released. -/
def sliceEnable (s : State) (i : Nat) : State :=
  let x := slOf s i
  if x.state ≠ .free then s
  else slGo (setSl s i { (shareTaken s i Slice.free) with tokTime := elapsedNs s }) i .active

/-- The registers of a window and of the group that take their reset values when the slice becomes FREE (R273); a response that waited for
the window's mailbox goes with it. -/
def sliceRegsFree (s : State) (i : Nat) : State :=
  let s := { s with cmd := { s.cmd with sliceHeld := s.cmd.sliceHeld.filter fun e => e.1 != i } }
  let s := clearRegs s fun k => (keyIn .sw i k).isSome || k == Blk.base .slc 0 + slOff i 0x64
  setReg s .slc 0 (slOff i 0) (setBits (slReg s i 0) 0 1 0)

/-- Parting begins, or a DRAIN becomes a SQUASH (R273, R274). None where the result is STATE. `restoring` says that
SLC_RESTORE has the slice. -/
def partStart (s : State) (i : Nat) (squash restoring : Bool) : Option State :=
  let x := slOf s i
  let block (x : Slice) : Slice := { x with squash := true, blocked := true, desc := none }
  match x.state with
  | .free => if restoring then some (slGo (setSl s i { block x with busy := true }) i .parting) else none
  | .parting =>
    if squash && !x.squash then some (setSl s i { block x with escalated := true }) else none
  | .receiving => some (slGo (setSl s i { block x with busy := true, log := false }) i .parting)
  | .active | .freezing | .frozen =>
    let y : Slice := { x with busy := true, log := false, swapping := false, squash := false }
    some (slGo (setSl s i (if squash then block y else y)) i .parting)

/-- Has the work of a parting ended? -/
def partEnded (x : Slice) : Bool := x.state == .parting && (x.squash || (x.desc.isNone && x.sqHead == x.sqTail))

/-- PART_TMO has passed: a DRAIN that has not ended becomes SQUASH (R273 step 3). -/
def partTimeout (s : State) (i : Nat) : State :=
  let x := slOf s i
  if x.state = .parting ∧ !partEnded x then
    setSl s i { x with squash := true, blocked := true, desc := none, escalated := true }
  else s

/-- The decision words of a parted slice (R245). -/
def partWords (s : State) (i : Nat) : State := if flag s .dec 0x40 0 && isUp s .rt then clearWords s i else s

/-- Parting completes, at the instant at which S_OUTST is 0 (R273 step 4): every transaction is answered. -/
def partComplete (s : State) (i : Nat) : State :=
  let x := slOf s i
  if isDown s .app || !partEnded x then s
  else
    let s := partWords s i
    let s := sliceRegsFree (setSl s i { Slice.free with blocked := x.blocked }) i
    evt (irq s .slc 1) 0x0F10 0 i (ofBit x.escalated 0) 0

/-- FREEZE (R276). -/
def freezeStart (s : State) (i : Nat) : Option State :=
  let x := slOf s i
  if x.state = .active ∧ !x.busy then some (slGo (setSl s i { x with busy := true }) i .freezing) else none

/-- S_OUTST is 0 in FREEZING; a descriptor whose last unit is done has completed. -/
def freezeDone (s : State) (i : Nat) : State :=
  if isDown s .app || (slOf s i).state != .freezing then s
  else
    let s := descComplete s i
    irq (slGo (setSl s i { slOf s i with busy := false }) i .frozen) .slc 2

/-- RESUME (R276). -/
def resumeSlice (s : State) (i : Nat) : Option State :=
  let x := slOf s i
  if x.state = .frozen ∧ !x.busy then some (slGo s i .active) else none

/-- May the dirty log be started, swapped or stopped? -/
def logState (x : Slice) : Bool := x.state == .active || x.state == .freezing || x.state == .frozen

def logStart (s : State) (i : Nat) : Option State :=
  let x := slOf s i
  if logState x && !x.swapping then some (setSl s i { x with log := true, act := false }) else none

def logSwap (s : State) (i : Nat) : Option State :=
  let x := slOf s i
  if logState x && x.log && !x.swapping then some (setSl s i { x with act := !x.act, busy := true, swapping := true }) else none

/-- Every write of the former bitmap is in memory. -/
def logSwapEnd (s : State) (i : Nat) : State :=
  let x := slOf s i
  if isDown s .app || !x.swapping then s
  else irq (setSl s i { x with swapping := false, busy := x.state == .freezing }) .slc 3

def logStop (s : State) (i : Nat) : Option State :=
  let x := slOf s i
  if logState x && !x.swapping then some (setSl s i { x with log := false }) else none

/-- RECEIVE (R280). The device ID stays blocked if a SQUASH blocked it, until EN = 1 (R273). -/
def receiveStart (s : State) (i : Nat) : Option State :=
  let x := slOf s i
  if x.state = .free then some (slGo (setSl s i { Slice.free with blocked := x.blocked }) i .receiving) else none

/-- An operation of S_OP by its code; none where it is not legal in the slice's state. An operation in progress lets only
SQUASH, and DRAIN of a slice that freezes, go on (R274). -/
def sliceOp (s : State) (i op : Nat) (restoring : Bool) : Option State :=
  let x := slOf s i
  if x.busy && op != 2 && !(op == 1 && x.state == .freezing) then none
  else if op = 1 then partStart s i false restoring
  else if op = 2 then partStart s i true restoring
  else if op = 3 then freezeStart s i
  else if op = 4 then resumeSlice s i
  else if op = 5 then logStart s i
  else if op = 6 then logSwap s i
  else if op = 7 then logStop s i
  else receiveStart s i

/-! ### Migration records and the save image -/

/-- The owned-word mask and the 32 words, 0 where not owned (R279, R281). -/
def ownedWords (s : State) (i : Nat) : List Byte :=
  let own (w : Nat) : Bool := wordOwner s w == i
  le 4 ((List.range 32).foldl (fun a w => a + ofBit (own w) w) 0) ++
    ((List.range 32).map fun w => le 4 (if own w then decWord s w else 0)).flatten

/-- The words of the window from 0x044 to 0x064, and the group's computed words. -/
def swRead (s : State) (i o : Nat) : Option Nat :=
  let x := slOf s i
  let code : Nat := match x.state with
    | .free => 0 | .active => 1 | .freezing => 2 | .frozen => 3 | .parting => 4 | .receiving => 5
  if o = 0x40 then some code
  else if o = 0x44 then some x.sqTail.toNat
  else if o = 0x48 then some x.sqHead.toNat
  else if o = 0x4C then some x.refuse
  else if o = 0x54 then some x.cqHead.toNat
  else if o = 0x58 then some x.cqTail.toNat
  else if o = 0x5C then some x.rqTail.toNat
  else if o = 0x60 then some x.rqHead.toNat
  else if 0x800 ≤ o ∧ o < 0xA00 ∧ o % 16 = 0 then some (decWord s ((o - 0x800) / 16))
  else if o = 0xA00 then some s.dec.bi.toNat
  else none

def slcRead (s : State) (o : Nat) : Option Nat :=
  if o < 0x1000 then none
  else
    let i := (o - 0x1000) / 0x80
    let k := (o - 0x1000) % 0x80
    let x := slOf s i
    if 64 ≤ i then none
    else if k = 0x68 then
      some ((swRead s i 0x40).getD 0 + ofBit x.busy 3 + ofBit x.pend 4 + ofBit x.log 5 + ofBit x.act 6 +
        ofBit x.escalated 7 + x.outst * 65536)
    else if k = 0x6C then some ((if x.state = .free then 0 else tokensNow s x) / 65536)
    else none

/-- The state block of a slice (R279). -/
def stateBlock (s : State) (i : Nat) : List Byte :=
  padTo 512 (((List.range 26).map fun k => le 4 (slReg s i (4 * k))).flatten ++
    ((List.range 9).map fun k => le 4 ((swRead s i (0x44 + 4 * k)).getD (reg s .sw i (0x44 + 4 * k)))).flatten ++
    ownedWords s i)

/-- A migration record (R279). -/
def migRecord (d kind gpa n : Nat) (payload : List Byte) : List Byte :=
  le 4 0x4547504D ++ le 2 1 ++ le 1 d ++ le 1 kind ++ le 8 gpa ++ le 4 n ++
    le 4 (if payload = [] then 0 else crc32 payload) ++ le 8 0 ++ payload

/-- The save image of a slice (R281). -/
def saveImage (s : State) (i : Nat) : List Byte :=
  let x := slOf s i
  let w (o : Nat) : List Byte := le 4 (slReg s i o)
  let sw (o : Nat) : List Byte := le 4 ((swRead s i o).getD 0)
  let wt := getBits (slReg s i 0x30) 0 8
  let ps := getBits (slReg s i 4) 0 20
  let scp := getBits (slReg s i 0) 2 2
  let base : List (Nat × List Byte) :=
    [(1, le 4 (ps % 65536) ++ w 8 ++ w 0xC),
     (2, ((List.range 7).map fun k => w (0x10 + 4 * k)).flatten ++ sw 0x44 ++ sw 0x48 ++ sw 0x54 ++ sw 0x58 ++ sw 0x5C ++ sw 0x60),
     (3, w 0 ++ le 4 (min wt 127) ++ w 0x34 ++ w 0x38 ++ le 4 (tokensNow s x / 65536) ++ le 4 x.deficit),
     (4, ownedWords s i),
     (5, w 0x3C ++ w 0x40)]
  let big := decide (65535 < ps) || decide (127 < wt) || decide (10 < sqLog2 s i) || decide (10 < rqLog2 s i) || scp != 0
  let secs : List (Nat × List Byte) := base ++ (if big then [(0x80, le 4 ps ++ le 4 wt ++ w 0x28 ++ le 4 scp)] else [])
  let n := secs.length
  let first := roundUp (64 + 16 * n) 16
  let (table, body) : List Byte × List Byte := secs.foldl (fun (a : List Byte × List Byte) e =>
    let body := padTo (roundUp a.2.length 16) a.2
    (a.1 ++ le 2 e.1 ++ le 2 0 ++ le 4 (first + body.length) ++ le 4 e.2.length ++ le 4 0, body ++ e.2)) ([], [])
  let len := first + body.length
  let tail := (nowStamp s).bytes ++ le 1 i ++ List.replicate 31 0 ++ padTo (first - 64) table ++ body
  le 4 0x4D494C53 ++ le 2 3 ++ le 2 n ++ le 4 len ++ le 4 (crc32 tail) ++ tail

/-- The section of a type in a save image: its bytes. -/
def saveSection (img : List Byte) (t : Nat) : Option (List Byte) :=
  let n := numAt img 6 2
  ((List.range n).find? fun k => numAt img (64 + 16 * k) 2 == t).map fun k =>
    slice img (numAt img (64 + 16 * k + 4) 4) (numAt img (64 + 16 * k + 8) 4)

/-- Does SLC_RESTORE take the image (R282)? -/
def saveImageOk (img : List Byte) : Bool :=
  let n := numAt img 6 2
  let len := numAt img 8 4
  decide (64 + 16 * n ≤ img.length) && numAt img 0 4 == 0x4D494C53 && numAt img 4 2 == 3 && decide (len ≤ img.length) &&
    decide (64 ≤ len) && numAt img 12 4 == crc32 ((img.take len).drop 16) &&
    [1, 2, 3, 4].all (fun t => (saveSection img t).isSome) &&
    (List.range n).all fun k => [1, 2, 3, 4, 5, 0x80].contains (numAt img (64 + 16 * k) 2)

/-! ### The IOMMU's queues (R262; RISC-V IOMMU 1.0, assumption 19) -/

/-- Commands from cqh to cqt. Invalidations leave nothing that the model holds; IOFENCE.C may store a word. A command or a word outside DRAM
is a memory fault, a command with a part that R262 leaves out is illegal; either stops the queue. -/
def iommuRun : (fuel : Nat) → State → State
  | 0, s => s
  | k + 1, s =>
    let csr := ioReg s 0x48
    let n := 2 ^ ioLog2 s 0x18
    let h := ioReg s 0x20 % n
    if !bit csr 16 || getBits csr 8 3 != 0 || h == ioReg s 0x24 % n then s
    else
      let a := ioBase s 0x18 + h * 16
      if !inDram s a 16 || isDown s .memory then ioCmdIrq (ioSet s 0x48 0x100)
      else
      let d0 := rdNum s a 8
      let d1 := rdNum s (a + 8) 8
      let op := getBits d0 0 7
      let f3 := getBits d0 7 3
      if op = 1 ∧ f3 ≤ 1 ∨ op = 3 ∧ f3 ≤ 1 then iommuRun k (setReg s .apc 0 (ioOff 0x20) ((h + 1) % n))
      else if op = 2 ∧ f3 = 0 ∧ !bit d0 11 then
        let w := d1 % 2 ^ 62 * 4
        if bit d0 10 && !inDram s w 4 then ioCmdIrq (ioSet s 0x48 0x100)
        else
          let s := if bit d0 10 then wrNum s w 4 (d0 / 2 ^ 32) else s
          iommuRun k (setReg s .apc 0 (ioOff 0x20) ((h + 1) % n))
      else ioCmdIrq (ioSet s 0x48 0x400)

/-- Conditions that stand raise their interrupts again once it is cleared or enabled. -/
def ioStanding (s : State) : State :=
  let s := if getBits (ioReg s 0x48) 8 3 = 0 then s else ioCmdIrq s
  if getBits (ioReg s 0x4C) 8 2 = 0 then s else ioFaultIrq s

/-- A vector unmasked: the messages kept for it are sent. -/
def ioUnmask (s : State) (v : Nat) : State :=
  let mine := s.slc.msiPend.filter fun n => getBits (ioReg s 0x2F8) (4 * n) 4 == v && !bit (ioReg s (0x30C + 16 * v)) 0
  forEach mine { s with slc := { s.slc with msiPend := s.slc.msiPend.filter fun n => !mine.contains n } } fun s n =>
    match ioMsi s n with
    | (s, true) => ioFaultIrq s
    | (s, false) => s

/-- After a write to the IOMMU page. -/
def iommuWritten (s : State) (o : Nat) : State :=
  if o = ioOff 0x48 then
    let c := ioReg s 0x48
    let on := bit c 0
    let start := on && !bit c 16
    let s := if start then setReg s .apc 0 (ioOff 0x20) 0 else s
    let c := if start then setBits c 8 4 0 else c
    ioStanding (iommuRun 65536 (setReg s .apc 0 o (setBits c 16 1 (ofBit on 0))))
  else if o = ioOff 0x4C then
    let c := ioReg s 0x4C
    let on := bit c 0
    let start := on && !bit c 16
    let s := if start then setReg s .apc 0 (ioOff 0x34) 0 else s
    let c := if start then setBits c 8 2 0 else c
    ioStanding (setReg s .apc 0 o (setBits c 16 1 (ofBit on 0)))
  else if o = ioOff 0x24 then iommuRun 65536 s
  else if o = ioOff 0x54 then ioStanding s
  else if ioOff 0x300 ≤ o ∧ o < ioOff 0x400 ∧ o % 16 = 12 then ioUnmask s ((o - ioOff 0x300) / 16)
  else s

/-- Cores out of reset (R285). -/
def apcRead (s : State) (o : Nat) : Option Nat := if o = 0x44 then some (reg s .apc 0 0x40 % 65536) else none

/-! ### Reset (R275, R284) -/

/-- A reset of the Application island: every slice is FREE at once; its words wait for the release. -/
def slcIslandReset (s : State) : State :=
  let gone := (List.range 64).filter fun i => (slOf s i).state != .free
  let s := { s with slc := { Slc.reset with clear := gone } }
  if gone = [] then s else evt s 0x0F11 1 0 0 (gone.foldl (fun a i => a + 2 ^ i) 0)

/-- R245 at the release. -/
def slcRelease (s : State) : State :=
  let l := s.slc.clear
  forEach l { s with slc := { s.slc with clear := [] } } partWords

/-! ### Rows -/

def execDoorbell (i : Fin 64) (t : BitVec 16) (s : State) : Host.Outcome State Fault Refusal :=
  runOn (fun s => doorbell s i.val t) s

def execCqHeadWrite (i : Fin 64) (h : BitVec 16) (s : State) : Host.Outcome State Fault Refusal :=
  runOn (fun s => cqHeadWrite s i.val h) s

def execSchedulerRound (s : State) : Host.Outcome State Fault Refusal := runOn (fun s => schedulerRound s) s

def execDescriptorComplete (i : Fin 64) (s : State) : Host.Outcome State Fault Refusal :=
  runOn (fun s => descComplete s i.val) s

def execSliceFrameReceive (f : Frame) (dt : Nat) (s : State) : Host.Outcome State Fault Refusal :=
  runOn (fun s => sliceFrame s f (stampBefore s dt)) s

def execPartTimeout (i : Fin 64) (s : State) : Host.Outcome State Fault Refusal :=
  runOn (fun s => partTimeout s i.val) s

end Sys2Proof.Machine
end

