-- ==== Sys2Proof/Machine/Time.lean ====
section
/-!
DEFINITION. The timebase, its servo, the grain and the PTP stack (R46 to R69): steps and restarts (R20, R21, R397),
offsets (R60 to R64), grain strobes (R49), peer delay, the transparent clock and the choice of the parent clock
(R55 to R59), PPS_OUT, REF10_OUT and PPS_IN (R66, R67).
-/

namespace Sys2Proof.Machine

/-! ### Time quality and servo states (R60, R64) -/

/-- The Time island runs on the RC oscillator, or is about to, or is not yet back on REFCLK (R378). -/
def timFallback (s : State) : Bool := s.clk.sysOnRc || s.clk.refclk.failed || !bit s.clk.lock.toNat 1

/-- The time quality of a state as it is entered. -/
def servoQuality : Servo → Nat
  | .finishing => 0
  | .holdover => 1
  | .roughing | .free => 2
  | .invalid => 3

/-- Is PPS_OUT gated (R66)? -/
def ppsGated (s : State) : Bool := flag s .tim 0x40 7 && decide (2 ≤ s.tim.quality)

/-- The first top of second at or after a time. -/
def topFrom (t : Nat) : Nat := (t + (secU - 1)) / secU

/-- The gate begins: REF10_OUT stops after its next falling edge; or it ends: the pins restart at the first top of second after it
(R66). `was` says whether the pins were gated. -/
def ppsGate (was : Bool) (s : State) : State :=
  if ppsGated s then { s with tim := { s.tim with ref10 := false } }
  else if was then { s with tim := { s.tim with ppsFloor := max s.tim.ppsFloor (topFrom s.tim.time) } }
  else s

/-- A new time quality. -/
def setQuality (s : State) (q : Nat) : State :=
  let q := if timFallback s then 2 else q
  if q = s.tim.quality then s
  else
    let was := ppsGated s
    let s := if s.tim.quality = 0 then { s with tim := { s.tim with quality0Left := some (mono s) } } else s
    ppsGate was (irq { s with tim := { s.tim with quality := q } } .tim 1)

/-- The integrator counts 2^-48 in parts of 10^9 × 2^15, so that R61 is exact. -/
def integUnit : Nat := 1000000000 * 2 ^ 15

/-- A servo state entered (R60): HOLDOVER and FREE run at the integrator value (R61). -/
def servoGo (s : State) (v : Servo) : State :=
  let s := if v = .roughing then { s with tim := { s.tim with lockRun := 0 } } else s
  if s.tim.servo = v then s
  else
    let s := if v = .holdover then irq s .tim 5 else s
    let s := if v = .holdover ∨ v = .free then
        { s with tim := { s.tim with freq := roundAway s.tim.integ integUnit } } else s
    setQuality { s with tim := { s.tim with servo := v } } (servoQuality v)

/-- PERSIST clears with its record (R62). -/
def persistEnd (s : State) : State :=
  if s.tim.persist then
    evt { s with tim := { s.tim with persist := false } } 0x0311 0 0 s.tim.run.length
      (ofSigned 64 (toSigned 32 (reg s .tim 0 0x84)))
  else s

/-! ### Steps and restarts (R20, R21, R53, R397) -/

/-- What every consumer of time does at a step: epoch, flag on the next grain, re-phasing; the monotonic time runs on (R290). A
record keeps what stamps of earlier instants need (R53). PPS_OUT rises next at a top not before the new time, and
REF10_OUT, to be re-phased to that rise, is low until then (R66, assumption 106). -/
def timeBroken (s : State) (new : Nat) : State :=
  let s := ggeStep s
  let old := s.tim.time
  let r : StepRec := { old := old, new := new, epoch := s.tim.epoch, quality := s.tim.quality }
  let s := { s with
    tim := { s.tim with time := new, epoch := (s.tim.epoch + 1) % 4, steps := (r :: s.tim.steps).take 8,
                        stepSum := s.tim.stepSum + ((new : Int) - old), stepFlag := true, rephase := true, ref10 := false,
                        ppsFloor := topFrom new },
    spn := { s.spn with rtRelease := s.spn.rtRelease + ((new : Int) - old) } }
  twvStep (svsStep s)

/-- The grain sequence at a break of time (R20): a forward one jumps over the grains whose labelled instant lies after the old time and
before the new, none generated before; a backward one makes due again those it had jumped over. A restart also passes
those that were due in the reset (R397); only a step counts. -/
def skipGrains (s : State) (old new : Nat) (counted : Bool) : State :=
  let b := grainsBefore new
  if new ≤ old then
    { s with tim := { s.tim with gaps := s.tim.gaps.filterMap fun e =>
        if (e.1 < min e.2 b) then some (e.1, min e.2 b) else none } }
  else
    let first : Nat := match s.tim.lastGrain with
      | some (sec, k) => sec * 14400 + k + 1
      | none => 0
    let a := if counted then max first (grainsBefore (old + 1)) else first
    if b ≤ a then s
    else
      let s := { s with tim := { s.tim with gaps := (s.tim.gaps.filter fun e => decide (e.1 < a)) ++ [(a, b)] } }
      if counted then cntBy s .tim 0 0x98 (b - a) else s

/-- The instant of the last grain generated, by its label. -/
def lastGrainTime (s : State) : Nat :=
  match s.tim.lastGrain with
  | some (sec, k) => sec * secU + k * 625000 * nsU / 9
  | none => 0

/-- A pause of the grains ends, when the timebase passes the last grain generated or is stepped: its length adds to NRG_GAP_NS
(R193). -/
def pauseEnd (s : State) : State :=
  match s.tim.pause with
  | none => s
  | some m =>
    let n := (mono s - (s.tim.time - lastGrainTime s) - m) / nsU
    let s := { s with tim := { s.tim with pause := none } }
    if s.fuse.variant = .s || isDown s .phasor then s else cntBy s .nrg 0 0xD4 n

/-- A step back to before the last grain begins a pause (R20). -/
def pauseStart (s : State) : State :=
  if s.tim.time ≤ lastGrainTime s && s.tim.lastGrain.isSome then { s with tim := { s.tim with pause := some (mono s) } } else s

/-- The timebase steps to a time (R20, R60, R68). -/
def timStep (s : State) (new : Nat) : State :=
  let old := s.tim.time
  let s := pauseStart (skipGrains (timeBroken (pauseEnd s) new) old new true)
  let s := phxStepped (irq (cnt s .tim 0 0x94) .tim 4)
  evt s 0x0312 1 0 s.tim.epoch (ofSigned 64 (roundAway ((new : Int) - old) nsU))

/-- The timebase restarts from the AON seconds (R396, R397): treated as a step, and counted as none. -/
def timRestart (s : State) (sec : Nat) : State :=
  let old := s.tim.time
  phxStepped (pauseStart (skipGrains (timeBroken (pauseEnd s) (sec * secU)) old (sec * secU) false))

/-! ### Offsets (R60 to R62) -/

/-- An offset applied by the PI servo (R61); `th` in 2^-16 ns, `e` the exponent of 1 / tau. -/
def servoUpdate (s : State) (th : Int) (e : Nat) : State :=
  let w := reg s .tim 0 0x4C
  let rough := s.tim.servo == .roughing
  let kp := if rough then getBits w 0 4 else getBits w 8 4
  let ki := if rough then getBits w 4 4 else getBits w 12 4
  let lim : Int := (getBits w 16 9 * 2 ^ 48 / 1000000 : Nat)
  let err : Int := th * (2 ^ (32 + e) : Nat)
  let integ := clampInt (s.tim.integ - err * (2 ^ (15 - ki) : Nat)) (-(lim * integUnit)) (lim * integUnit)
  let freq := clampInt (roundAway (integ - err * (2 ^ (15 - kp) : Nat)) integUnit) (-lim) lim
  { s with tim := { s.tim with integ := integ, freq := freq } }

/-- An offset that is accepted ends the run and PERSIST (R62). -/
def offsetAccepted (s : State) : State :=
  let s := persistEnd s
  { s with tim := { s.tim with run := [] } }

/-- The time before a step by an offset. -/
def timeMinus (s : State) (th : Int) : Nat := ((s.tim.time : Int) - th * (2 ^ 31 : Nat)).toNat

/-- A refused offset (R62). -/
def refuse (s : State) (th : Int) : State :=
  let s := irq (cnt s .tim 0 0x90) .tim 2
  if s.tim.persist then s
  else
    let run := s.tim.run ++ [th]
    let hi := run.foldl max th
    let lo := run.foldl min th
    let run := if hi - lo > 100 * 65536 then [th] else run
    let s := { s with tim := { s.tim with run := run } }
    if run.length < 8 then s
    else if flag s .tim 0x40 6 then
      let mean := roundAway (run.foldl (fun a b => a + b) 0) (8 * 65536)
      let s := { s with tim := { s.tim with run := [] } }
      servoGo (timStep s (timeMinus s (mean * 65536))) .finishing
    else
      let s := servoGo { s with tim := { s.tim with persist := true } } .holdover
      evt (irq s .tim 3) 0x0310 1 0 run.length (ofSigned 64 (roundAway th 65536))

/-- An offset from the selected source (R60 to R62, R67, R378); `th` in 2^-16 ns. -/
def takeOffset (s : State) (th : Int) (pps : Bool) : State :=
  if timFallback s || s.tim.servo == .free then s
  else
    let s := setReg s .tim 0 0x84 (ofSigned 32 (satS 32 (roundAway th 65536)))
    let jump := fld s .tim 0x44 0 30
    let mag := th.natAbs
    let e := if pps then 0 else fld s .tim 0x40 16 3
    match s.tim.servo with
    | .invalid => servoGo (timStep (offsetAccepted s) (timeMinus s th)) .roughing
    | .roughing =>
      let s := offsetAccepted s
      if mag > jump * 65536 then
        timStep { s with tim := { s.tim with lockRun := 0 } } (timeMinus s th)
      else
        let near := min (fld s .tim 0x48 0 16) jump
        let s := servoUpdate s th e
        let n := if mag ≤ near * 65536 then s.tim.lockRun + 1 else 0
        let s := { s with tim := { s.tim with lockRun := n } }
        if n ≥ fld s .tim 0x48 16 8 then servoGo s .finishing else s
    | .finishing | .holdover =>
      let lim := if pps then min jump 100000 else jump
      if mag > lim * 65536 then refuse s th
      else servoUpdate (servoGo (offsetAccepted s) .finishing) th e
    | .free => s

/-- No offset has been applied for HOLD_DELAY (R64). -/
def holdDelay (s : State) : State := if s.tim.servo = .finishing then servoGo s .holdover else s

/-- HOLD_LIMIT has passed in HOLDOVER (R64). -/
def holdLimit (s : State) : State := if s.tim.servo = .holdover then setQuality s 2 else s

/-- ROUGHING by command, or after the fall-back (R68, R378); none in INVALID and FREE. -/
def reroughen (s : State) : Option State :=
  if s.tim.servo = .invalid ∨ s.tim.servo = .free then none
  else some (servoGo (offsetAccepted s) .roughing)

/-- The Time island leaves the RC oscillator and is locked again (R378). -/
def fallbackEnd (s : State) : State :=
  let s := { s with tim := { s.tim with stepFlag := true, rephase := true } }
  setQuality ((reroughen s).getD s) (servoQuality ((reroughen s).getD s).tim.servo)

/-- A change of SOURCE (R60). -/
def sourceChange (s : State) (src : Nat) : State :=
  if src = 2 then servoGo s .free
  else if s.tim.servo = .invalid then s
  else if src = 1 && !s.tim.setDone then servoGo s .invalid
  else servoGo s .roughing

/-- TIM_SET (R68); none is STATE. -/
def timSet (s : State) (sec ns : Nat) : Option State :=
  let src := fld s .tim 0x40 2 2
  if src = 0 ∨ 1000000000 ≤ ns then none
  else
    let s := timStep s ((sec * 1000000000 + ns) * nsU)
    let s := { s with tim := { s.tim with setDone := true } }
    some (if src = 1 then servoGo s .roughing else s)

/-! ### GRAIN_STROBE (R19, R20, R21, R49) -/

/-- The next grain; while the Time island is on the RC oscillator it is skipped and counted (R378). -/
def grainStrobe (s : State) : State :=
  if isDown s .time then s
  else
    let g := nextGrain s
    let sec := g / 14400
    let k := g % 14400
    let t := max s.tim.time (sec * secU + strobeNs k * nsU)
    let s := pauseEnd { s with tim := { s.tim with time := t } }
    let s := { s with tim := { s.tim with time := t, lastGrain := some (sec, k),
                                          gaps := s.tim.gaps.filter fun e => decide (g < e.2) } }
    if timFallback s then energyBoundary (cnt s .tim 0 0x98)
    else
      let l : Label :=
        { sec := sec, k := k, n := s.tim.grains + 1, quality := s.tim.quality, epoch := s.tim.epoch,
          step := s.tim.stepFlag }
      let re := s.tim.rephase
      let s := { s with tim := { s.tim with grains := l.n, stepFlag := false, rephase := false } }
      let s := emit s (.grain l)
      let s := if re then acqStep s else s
      energyBoundary (gpPumpAll (ggeTransfer (ggeFill (ggeGrain (cfgMarks (openSet s l) l.n) l))))

/-! ### The parent clock (R55, R59, R63) -/

/-- The module's clock identity: the address of its first PTP port with FF FE inserted (assumption 29). -/
def ownClock (s : State) : BitVec 64 :=
  let p := ((List.range 64).find? fun p => isPtpPort s p).getD 0
  let m := (portMac s p).toNat
  BitVec.ofNat 64 (m / 2 ^ 24 * 2 ^ 40 + 0xFFFE * 2 ^ 24 + m % 2 ^ 24)

/-- The class the module announces (R59). -/
def ownClass (s : State) : Nat :=
  if fld s .tim 0x40 2 2 = 1 ∧ s.tim.quality = 0 then 6 else if s.tim.servo = .holdover then 7 else 248

/-- A port identity as a number: clock identity, port number. -/
def portIdent (clock : BitVec 64) (port : Nat) : Nat := clock.toNat * 65536 + port

/-- A data set as the comparison of IEEE 1588-2008 (9.3.4) sees it: what ranks the grandmaster, its identity, the steps removed, and
the port identities of sender and receiver. -/
structure ClockDs where
  rank : List Nat
  gm : Nat
  steps : Nat
  sender : Nat
  receiver : Nat
  deriving DecidableEq, Repr

def annDs (s : State) (e : Foreign) : ClockDs :=
  let a := e.ann
  { rank := [a.gmPriority1.toNat, a.gmClass.toNat, a.gmAccuracy.toNat, a.gmVariance.toNat, a.gmPriority2.toNat, a.gmId.toNat],
    gm := a.gmId.toNat, steps := a.stepsRemoved, sender := portIdent a.clockId a.portNum.toNat,
    receiver := portIdent (ownClock s) (e.port + 1) }

def ownDs (s : State) : ClockDs :=
  let me := ownClock s
  { rank := [fld s .tim 0x68 0 8, ownClass s, 0xFE, 0xFFFF, fld s .tim 0x68 8 8, me.toNat], gm := me.toNat, steps := 0,
    sender := portIdent me 0, receiver := portIdent me 0 }

/-- Lexicographic order. -/
def keyLt : List Nat → List Nat → Bool
  | [], [] => false
  | [], _ :: _ => true
  | _ :: _, [] => false
  | a :: as, b :: bs => if a = b then keyLt as bs else decide (a < b)

/-- Is the first data set better than the second, or better by topology (IEEE 1588-2008, figures 27 and 28)? -/
def dsBetter (a b : ClockDs) : Bool :=
  if a.gm ≠ b.gm then keyLt a.rank b.rank
  else if a.steps + 1 < b.steps then true
  else if b.steps + 1 < a.steps then false
  else if a.steps < b.steps then decide (b.receiver ≠ b.sender)
  else if b.steps < a.steps then false
  else if a.sender ≠ b.sender then decide (a.sender < b.sender)
  else decide (a.receiver < b.receiver)

/-- The window in which two Announces must have come for their sender to be a candidate (IEEE 1588-2008, 9.3.2.4.4): 4 intervals of
1 s (assumption 107). -/
def annWindow : Nat := 4 * secU

/-- Is a foreign master a candidate: qualified, or the present parent at the slave port? -/
def qualified (s : State) (e : Foreign) : Bool :=
  (s.tim.slavePort == some e.port && s.tim.parent == some e.ann.clockId) ||
    decide (2 ≤ (e.times.filter fun t => decide (mono s ≤ t + annWindow)).length)

/-- The best of some foreign masters. -/
def bestOf (s : State) : List Foreign → Option Foreign
  | [] => none
  | e :: es => match bestOf s es with
    | none => some e
    | some f => if dsBetter (annDs s f) (annDs s e) then some f else some e

/-- The best candidate of a port. -/
def portBest (s : State) (p : Nat) : Option Foreign := bestOf s (s.tim.foreign.filter fun e => e.port == p && qualified s e)

/-- The parent clock's identity in its registers (R69). -/
def setParent (s : State) (id : BitVec 64) : State :=
  setReg (setReg { s with tim := { s.tim with parent := some id } } .tim 0 0xA0 (ofLe ((be 8 id.toNat).take 4)))
    .tim 0 0xA4 (ofLe ((be 8 id.toNat).drop 4))

/-- A change of the parent clock (R62, R63). -/
def parentChange (s : State) (id : BitVec 64) : State :=
  let s := irq (cnt (setParent s id) .tim 0 0x9C) .tim 7
  let s := if s.tim.persist then s else { s with tim := { s.tim with run := [] } }
  let s := { s with tim := { s.tim with sync := none } }
  if flag s .tim 0x40 5 && s.tim.servo != .invalid && s.tim.servo != .free then servoGo s .roughing else s

/-- The state decision of IEEE 1588-2008 (figure 26) over the PTP ports (R55, R59): the slave port, and the ports at which the module is
master with its own data set. A port that has heard nothing is master only once its first timeout has passed. A module
that turns master leaves the parent's registers and the run as they are (assumption 97). -/
def bmca (s : State) : State :=
  let slaveOnly := flag s .tim 0x40 4
  let me := ownDs s
  let top := decide (ownClass s ≤ 127)
  let all := bestOf s (s.tim.foreign.filter fun e => qualified s e)
  let beats (o : Option Foreign) : Bool := match o with
    | none => true
    | some e => dsBetter me (annDs s e)
  let master (p : Nat) : Bool := !slaveOnly && isPtpPort s p &&
    ((portBest s p).isSome || s.tim.left.toNat.testBit p) && (if top then beats (portBest s p) else beats all)
  let ms := (List.range 64).filter master
  let left := (List.range 64).filter fun p => (portBest s p).isSome
  let s' := { s with tim := { s.tim with
    left := left.foldl (fun (v : BitVec 64) p => v ||| BitVec.ofNat 64 (2 ^ p)) s.tim.left,
    masters := ms.foldl (fun (v : BitVec 64) p => v ||| BitVec.ofNat 64 (2 ^ p)) 0 } }
  match all with
  | none => { s' with tim := { s'.tim with slavePort := none } }
  | some e =>
    if !slaveOnly && (top || beats all) then { s' with tim := { s'.tim with slavePort := none } }
    else
      let s' := { s' with tim := { s'.tim with slavePort := some e.port } }
      if s'.tim.parent = some e.ann.clockId then s' else parentChange s' e.ann.clockId

/-- Is an Announce one that the module accepts? -/
def annAccepted (s : State) (p : Nat) (a : Announce) : Bool :=
  isPtpPort s p && a.domain.toNat == fld s .tim 0x40 8 8 && a.clockId != ownClock s && decide (a.stepsRemoved < 255)

/-- An Announce enters the foreign masters of its port: the newest message and the instants of its last two. Masters not heard in the
window are forgotten, but for the parent. -/
def foreignHeard (s : State) (p : Nat) (a : Announce) : State :=
  let here (e : Foreign) : Bool := e.port == p && e.ann.clockId == a.clockId && e.ann.portNum == a.portNum
  let times := match s.tim.foreign.find? here with
    | some e => e.times
    | none => []
  let rest := s.tim.foreign.filter fun e => !here e && (qualified s e || e.times.any fun t => decide (mono s ≤ t + annWindow))
  { s with tim := { s.tim with foreign := rest ++ [{ port := p, ann := a, times := (mono s :: times).take 2 }] } }

/-- An accepted Announce, but for the UTC offset and its flags (R55, R63). -/
def announce (s : State) (p : Nat) (a : Announce) : State :=
  let s := foreignHeard s p a
  let s := match a.tlvInacc with
    | some v => if fld s .tim 0x40 0 2 = 1 then setReg s .tim 0 0xB8 (min v 0xFFFFFFFF) else s
    | none => s
  bmca s

/-- No Announce has come at a port for ANN_TIMEOUT intervals (R55, R59): its masters are lost, and it may be a master. -/
def announceTimeout (s : State) (p : Nat) : State :=
  if isDown s .time || !isPtpPort s p then s
  else
    bmca { s with tim := { s.tim with
      foreign := s.tim.foreign.filter (fun e => e.port != p), left := s.tim.left ||| BitVec.ofNat 64 (2 ^ p),
      slavePort := if s.tim.slavePort = some p then none else s.tim.slavePort } }

/-! ### PTP messages (R55 to R58) -/

/-- A PTP message of the module to one port, through internal port 65 (R109; addresses and tagging: assumption 29). -/
def ptpSend (s : State) (p : Nat) (peer : Bool) (n : Nat) (pdu : Pdu) (stamp : Option Stamp) : State :=
  let f : Frame :=
    { dst := if peer then 0x0180C200000E else 0x011B19000000, src := portMac s p, vlan := none, etype := 0x88F7,
      red := .plain, len := frameLen false n, pdu := pdu }
  sendTo s 65 f stamp (fldI s .prt p 0x48 0 12) (fldI s .prt p 0x48 12 3) 7 [{ port := p, pair := pairNum s p }]

/-- A message that the switch has bound to the other PTP ports as it came in is on its way; one that has not come through there is
forwarded now (R58, R109; assumption 104). -/
def ptpRelay (s : State) (p : Nat) (f : Frame) (stamp : Option Stamp) : State :=
  match ptpWay f with
  | .stay => s
  | .pass k =>
    if s.tim.bound.contains (p, k) then { s with tim := { s.tim with bound := s.tim.bound.erase (p, k) } }
    else if !enabled s .swc || isDown s .switch || blank s then s
    else
      let (s, ds) := ptpForward s p f
      if ds = [] then s
      else
        let (vid, pcp) := vidOf s p f
        let n := 1 + (fldI s .prt p 0x40 16 14 + 6 - 64 + 127) / 128
        takeIn s { fromInside p f stamp vid pcp 7 with strip := redBytes s p f } n
          (List.replicate (billets f.len) (mono s)) true ds

def sameKey (x : TwoStep) (m : PtpMsg) : Bool := x.clockId == m.clockId && x.portNum == m.portNum && x.seqId == m.seqId

/-- Is the message from the parent at the slave port, in the domain (R55, R60)? -/
def fromParent (s : State) (p : Nat) (m : PtpMsg) : Bool :=
  s.tim.slavePort == some p && s.tim.parent == some m.clockId && m.domain.toNat == fld s .tim 0x40 8 8

/-- The offset of a completed Sync exchange (R60): stamp and correction in 2^-16 ns, origin time of the message. A stamp from before a
step gives none: the local time it measures is no longer the timebase's (R53, assumption 108). -/
def ptpOffset (s : State) (p : Nat) (stamp corr : Int) (epoch : Nat) (m : PtpMsg) : State :=
  match peerDelay s p with
  | none => s
  | some d =>
    if epoch ≠ s.tim.epoch ∨ fld s .tim 0x40 2 2 ≠ 0 then s
    else takeOffset s (stamp - ((((m.sec * 1000000000 + m.ns) * 65536 : Nat) : Int) + corr + d)) false

/-- A Sync at the stack. -/
def stackSync (s : State) (p : Nat) (m : PtpMsg) (stamp : Option Stamp) : State :=
  if !fromParent s p m then s
  else
    match stamp with
    | none => { s with tim := { s.tim with sync := none } }
    | some st =>
      if m.twoStep then
        let x : TwoStep := { clockId := m.clockId, portNum := m.portNum, seqId := m.seqId, inPort := p, stamp := st.units,
                             corr := m.correction, epoch := st.epoch }
        { s with tim := { s.tim with sync := some x } }
      else ptpOffset s p st.units m.correction st.epoch m

/-- A Follow_Up at the stack; one marked "stamp lost" ends its exchange without an offset (R52). -/
def stackFollowUp (s : State) (p : Nat) (m : PtpMsg) (lost : Bool) : State :=
  match s.tim.sync with
  | some x =>
    if fromParent s p m && sameKey x m && x.inPort == p then
      let s := { s with tim := { s.tim with sync := none } }
      if lost then s else ptpOffset s p x.stamp (x.corr + m.correction) x.epoch m
    else s
  | none => s

/-- The open peer-delay exchange that a response belongs to. -/
def pdelayOf (s : State) (p : Nat) (m : PtpMsg) : Option Pdelay :=
  s.tim.pdelay.find? fun x => x.port == p && x.seqId == m.seqId && m.reqClockId == ownClock s

def pdelayDrop (s : State) (p : Nat) : State :=
  { s with tim := { s.tim with pdelay := s.tim.pdelay.filter fun x => x.port != p } }

/-- A peer-delay exchange is complete: half of the round trip less the partner's part. -/
def pdelayEnd (s : State) (p : Nat) (x : Pdelay) (t3 : Int) : State :=
  let s := pdelayDrop s p
  match x.t1, x.t2, x.t4 with
  | some t1, some t2, some t4 =>
    { s with tim := { s.tim with peer := putK s.tim.peer p ((t4 - t1 - (t3 - t2) - x.corr) / 2) } }
  | _, _, _ => s

/-- The body time of a message in 2^-16 ns. -/
def msgTime (m : PtpMsg) : Int := ((m.sec * 1000000000 + m.ns) * 65536 : Nat)

/-- A Pdelay_Resp: of one step it completes the exchange. -/
def pdelayResp (s : State) (p : Nat) (m : PtpMsg) (stamp : Option Stamp) : State :=
  match pdelayOf s p m, stamp with
  | some x, some st =>
    if st.epoch ≠ x.epoch ∨ x.t1.isNone then pdelayDrop s p
    else
      let x := { x with t2 := some (msgTime m), t4 := some (st.units : Int), corr := m.correction }
      if m.twoStep then
        { s with tim := { s.tim with pdelay := s.tim.pdelay.map fun y => if y.port = p then x else y } }
      else pdelayEnd s p x (msgTime m)
  | some _, none => pdelayDrop s p
  | none, _ => s

def pdelayFollowUp (s : State) (p : Nat) (m : PtpMsg) : State :=
  match pdelayOf s p m with
  | some x => pdelayEnd s p { x with corr := x.corr + m.correction } (msgTime m)
  | none => s

/-- The answer to a Pdelay_Req: of one step, its correction the time it lay in the module (R55). -/
def pdelayAnswer (s : State) (p : Nat) (m : PtpMsg) (stamp : Option Stamp) : State :=
  match stamp with
  | none => s
  | some st =>
    let r : PtpMsg :=
      { m with type := .pdelayResp, clockId := ownClock s, portNum := BitVec.ofNat 16 (p + 1), twoStep := false, sec := 0,
               ns := 0, reqClockId := m.clockId, reqPortNum := m.portNum }
    ptpSend s p true 54 (.ptp r) (some st)

/-- A message at the stack, with its ingress stamp, none where that is lost (R52, R56). -/
def ptpStack (s : State) (p : Nat) (m : PtpMsg) (stamp : Option Stamp) : State :=
  match m.type with
  | .sync => stackSync s p m stamp
  | .followUp => stackFollowUp s p m stamp.isNone
  | .pdelayReq => pdelayAnswer s p m stamp
  | .pdelayResp => pdelayResp s p m stamp
  | .pdelayRespFollowUp => if stamp.isNone then pdelayDrop s p else pdelayFollowUp s p m
  | .management | .announce | .other => s

/-- A PTP frame reaches the time core (R52, R56 to R58), received `dt` timebase cycles ago. -/
def ptpReceive (s : State) (p : Nat) (f : Frame) (dt : Nat) : State :=
  if isDown s .time then s
  else if !isPtpPort s p then cnt s .tim 0 0xB0
  else
    let stamp := if f.stampLost then none else some (rxStamp s p dt)
    let s := ptpRelay s p f stamp
    match f.pdu with
    | .ptp m => ptpStack s p m stamp
    | .raw _ | .sv _ | .goose _ | .ann _ | .udp _ => s

/-- A Pdelay_Req is sent (R55, R57). -/
def pdelayReq (s : State) (p : Nat) : State :=
  if isDown s .time || !isPtpPort s p then s
  else
    let q := s.tim.seqPd
    let x : Pdelay := { port := p, seqId := q, t1 := none, t2 := none, t4 := none, corr := 0, epoch := s.tim.epoch }
    let s := pdelayDrop s p
    let s := { s with tim := { s.tim with seqPd := q + 1, pdelay := s.tim.pdelay ++ [x] } }
    let m : PtpMsg :=
      { type := .pdelayReq, domain := BitVec.ofNat 8 (fld s .tim 0x40 8 8), clockId := ownClock s,
        portNum := BitVec.ofNat 16 (p + 1), seqId := q, twoStep := false, correction := 0, sec := 0, ns := 0,
        reqClockId := 0, reqPortNum := 0 }
    ptpSend s p true 54 (.ptp m) none

/-- As grandmaster the module sends Sync and Announce at a PTP port (R59). -/
def syncTransmit (s : State) (p : Nat) : State :=
  if isDown s .time || !s.tim.masters.toNat.testBit p || !isPtpPort s p then s
  else
    let dom := BitVec.ofNat 8 (fld s .tim 0x40 8 8)
    let me := ownClock s
    let port := BitVec.ofNat 16 (p + 1)
    let m : PtpMsg :=
      { type := .sync, domain := dom, clockId := me, portNum := port, seqId := s.tim.seqSync, twoStep := false,
        correction := 0, sec := 0, ns := 0, reqClockId := 0, reqPortNum := 0 }
    let a : Announce :=
      { domain := dom, clockId := me, portNum := port, seqId := s.tim.seqAnn,
        gmPriority1 := BitVec.ofNat 8 (fld s .tim 0x68 0 8), gmClass := BitVec.ofNat 8 (ownClass s), gmAccuracy := 0xFE,
        gmVariance := 0xFFFF, gmPriority2 := BitVec.ofNat 8 (fld s .tim 0x68 8 8), gmId := me, stepsRemoved := 0,
        utcOffset := fld s .tim 0x54 0 16, utcValid := true, leap61 := flag s .tim 0x54 16, leap59 := flag s .tim 0x54 17,
        tlvInacc := none }
    let s := { s with tim := { s.tim with seqSync := s.tim.seqSync + 1, seqAnn := s.tim.seqAnn + 1 } }
    ptpSend (ptpSend s p false 44 (.ptp m) none) p false 64 (.ann a) none

/-! ### UTC (R48) -/

/-- At the end of a leap, sources other than PTP move UTC_OFFSET and clear the flag. -/
def leapSecond (s : State) : State :=
  let off := fld s .tim 0x54 0 16
  let go (s : State) (off bit : Nat) : State :=
    let s := setFld (setFld s .tim 0x54 0 16 off) .tim 0x54 bit 1 0
    irq { s with tim := { s.tim with utcChanged := some (mono s) } } .tim 9
  if isDown s .time || fld s .tim 0x40 2 2 == 0 then s
  else if flag s .tim 0x54 16 then go s (min (off + 1) 255) 16
  else if flag s .tim 0x54 17 then go s (off - 1) 17
  else s

/-! ### PPS_OUT, REF10_OUT, PPS_IN (R66, R67) -/

/-- The levels at the pins; low while the Tool rest forces (R409). -/
def ppsPin (s : State) : Bool := s.tim.ppsHigh && !s.clk.forcing && isUp s .time

def ref10Runs (s : State) : Bool := s.tim.ref10 && !s.clk.forcing && isUp s .time

/-- A top of second is marked: the ranges of marked tops, the newest last. -/
def ppsMarked : List (Nat × Nat) → Nat → List (Nat × Nat)
  | [], t => [(t, t + 1)]
  | [(a, b)], t => if b = t then [(a, t + 1)] else [(a, b), (t, t + 1)]
  | e :: l, t => e :: ppsMarked l t

/-- The top of the present second: PPS_OUT rises unless it is gated, has marked this top before, or waits for a later one (R66). -/
def ppsPulse (s : State) : State :=
  let top := nowSec s
  if isDown s .time || ppsGated s || decide (top < s.tim.ppsFloor) || s.tim.ppsMark.any (fun e => decide (e.1 ≤ top) && decide (top < e.2))
  then s
  else { s with tim := { s.tim with ppsHigh := true, ref10 := true, ppsMark := ppsMarked s.tim.ppsMark top } }

def ppsFall (s : State) : State := { s with tim := { s.tim with ppsHigh := false } }

/-- An offset to the nearest top of second, in (−0.5 s, +0.5 s]. -/
def toSecond (x : Int) : Int :=
  let u : Int := 1000000000 * 65536
  let m := x % u
  if 2 * m > u then m - u else m

/-- A rising edge at PPS_IN, `dt` cycles ago. -/
def ppsIn (s : State) (dt : Nat) : State :=
  if isDown s .time then s
  else
    let st := stampBefore s dt
    let s := if s.tim.ppsUnread then setReg s .tim 0 0xD0 1 else s
    let s := setReg (setReg2 s .tim 0 0xC0 st.sec) .tim 0 0xC8 st.ns
    let s := irq (setReg s .tim 0 0xCC st.frac) .tim 8
    let s := { s with tim := { s.tim with ppsUnread := true } }
    if fld s .tim 0x40 2 2 = 1 && s.tim.setDone && s.tim.servo != .invalid then
      takeOffset s (toSecond ((st.units : Int) - toSigned 32 (reg s .tim 0 0x5C) * 65536)) true
    else s

/-! ### Registers (R69) -/

def timStat (s : State) : Nat :=
  (match s.tim.servo with
   | .invalid => 0 | .roughing => 1 | .finishing => 2 | .holdover => 3 | .free => 4) * 2 ^ 8 +
    s.tim.quality % 4 * 2 ^ 12 + ofBit s.tim.persist 14

/-- The registers that are computed at the read. -/
def timRead (s : State) (o : Nat) : Option Nat :=
  let st := timStat s
  if o = 0x80 then
    some (getBits st 8 3 + getBits st 12 2 * 16 + ofBit s.tim.persist 6 + s.tim.epoch % 4 * 2 ^ 8 +
      min s.tim.run.length 8 * 2 ^ 16)
  else if o = 0x88 then some (ofSigned 32 s.tim.freq)
  else if o = 0x8C then some (getBits (ofSigned 40 s.tim.freq) 32 8)
  else none

/-- What follows a write (R48, R60, R66, R69). -/
def timWritten (s : State) (o old : Nat) : State :=
  if o = 0x40 then
    let src := fld s .tim 0x40 2 2
    let s := if src = getBits old 2 2 then s else sourceChange s src
    let s := if fld s .tim 0x40 8 8 = getBits old 8 8 then s else { s with tim := { s.tim with foreign := [] } }
    bmca (ppsGate (bit old 7 && decide (2 ≤ s.tim.quality)) s)
  else if o = 0x68 then bmca s
  else if o = 0x54 then
    let s := if fld s .tim 0x54 16 2 = getBits old 16 2 then s else irq s .tim 9
    if fld s .tim 0x54 0 16 = getBits old 0 16 then s
    else { s with tim := { s.tim with utcChanged := some (mono s) } }
  else s

/-! ### Rows that need no bus -/

def execPtpFrameReceive (p : Fin 64) (f : Frame) (dt : Nat) (s : State) : Host.Outcome State Fault Refusal :=
  runOn (fun s => gated (fun s => ptpReceive s p.val f dt) s) s

def execAnnounceTimeout (p : Fin 64) (s : State) : Host.Outcome State Fault Refusal :=
  runOn (fun s => gated (fun s => announceTimeout s p.val) s) s

def execPdelayReq (p : Fin 64) (s : State) : Host.Outcome State Fault Refusal := runOn (fun s => pdelayReq s p.val) s

def execSyncTransmit (p : Fin 64) (s : State) : Host.Outcome State Fault Refusal :=
  runOn (fun s => syncTransmit s p.val) s

def execHoldDelayExpiry (s : State) : Host.Outcome State Fault Refusal :=
  runOn (fun s => gated (fun s => holdDelay s) s) s

def execHoldLimitExpiry (s : State) : Host.Outcome State Fault Refusal :=
  runOn (fun s => gated (fun s => holdLimit s) s) s

def execLeapSecond (s : State) : Host.Outcome State Fault Refusal := runOn (fun s => leapSecond s) s

def execPpsOutPulse (s : State) : Host.Outcome State Fault Refusal := runOn (fun s => ppsPulse s) s

def execPpsWidthExpiry (s : State) : Host.Outcome State Fault Refusal := runOn (fun s => ppsFall s) s

def execPpsInEdge (dt : Nat) (s : State) : Host.Outcome State Fault Refusal :=
  runOn (fun s => gated (fun s => ppsIn s dt) s) s

end Sys2Proof.Machine
end

