-- ==== Sys2Proof/Machine/ChuckOps.lean ====
section
/-!
DEFINITION. The operations of Chuck (R347 to R360): key writes and updates, sealing, debug, attestation, firmware,
secure boot, measurements, scrubs, and the registers of CHK; and the result codes of commands (R38).
-/

namespace Sys2Proof.Machine

/-! ### Result codes (R38) -/

def rOk : Nat := 0
def rClamped : Nat := 1
def rBadFormat : Nat := 0x10
def rUnknown : Nat := 0x11
def rNotAuth : Nat := 0x20
def rAuthFailed : Nat := 0x21
def rBusy : Nat := 0x22
def rLocked : Nat := 0x30
def rPolicy : Nat := 0x31
def rAbsent : Nat := 0x32
def rState : Nat := 0x33
def rSignature : Nat := 0x40
def rVariant : Nat := 0x41
def rFailed : Nat := 0x42
def rInterrupted : Nat := 0x43
def rProgress : Nat := 0xFFFF

/-- What an operation of a command gives: the state, the result and the response's data. -/
abbrev Res := State × Nat × List Byte

/-- The variant code (R40, R403). -/
def variantCode (s : State) : Nat :=
  match s.fuse.variant with
  | .x => 0x64400058
  | .s => 0x64400053
  | .n => 0x6416004E

/-- A result by whether the operation was possible; none is STATE. -/
def orState (s : State) : Option State → Res
  | some t => (t, rOk, [])
  | none => (s, rState, [])

/-! ### The MGMT counter table (R34, R42) -/

/-- The table's bytes in the configuration store. -/
def mgmtStore (s : State) : State :=
  wrBytes s 0x50001000 (padTo 4096 ((s.nv.mgmt.map fun e => macBytes e.1 ++ [0, 0] ++ le 8 e.2.toNat).flatten))

/-- The key of the MGMT slot changed: the table is emptied. -/
def mgmtClear (s : State) : State := mgmtStore { s with nv := { s.nv with mgmt := [] } }

/-- CMD_MGMT_KEY written: the table is emptied when the slot is another than the one last written (R34). The slot last written
is kept through resets as the table is, so that an image applied again leaves the table (assumption 100). -/
def mgmtSlotSet (s : State) (n : Nat) : State :=
  let slot : BitVec 6 := BitVec.ofNat 6 n
  if s.nv.mgmtSlot = slot then s else mgmtClear { s with nv := { s.nv with mgmtSlot := slot } }

/-- A symmetric slot has a new content. -/
def symChanged (s : State) (kind n : Nat) : State :=
  if kind = 0 && n == s.nv.mgmtSlot.toNat then mgmtClear s else s

/-- What a command whose commit has begun gives so far; without a copy that reads back it has failed (R350 step 2). -/
def begun (s : State) : Option State → Res
  | some t => (t, rProgress, [])
  | none => (s, rFailed, [])

/-! ### KEY_WRITE, KEY_ERASE (R347, R350, R358, R359) -/

/-- Is the length of a key legal for its kind, with its usage and identifier? -/
def keyForm (kind id usage len : Nat) (value : List Byte) : Bool :=
  value.length == len && (if kind = 0 then (len == 16 || len == 32) && decide (usage < 128)
    else len == pubLen && usage == 0 && id == 0)

def keyWrite (s : State) (kind n id usage len : Nat) (value : List Byte) : Res :=
  if s.fuse.debug then
    if kind ≠ 0 then (s, if slotExists kind n then rPolicy else rFailed, [])
    else if !slotExists kind n || !keyForm kind id usage len value then (s, rFailed, [])
    else
      let (m, s) := draw s len
      let k := mkKey m 0 n value (BitVec.ofNat 32 id) (BitVec.ofNat 16 usage)
        (match findK s.chk.test n with | some k => k.version + 1 | none => 1)
      (symChanged { s with chk := { s.chk with test := putK s.chk.test n k } } 0 n, rOk, [])
  else if s.fuse.sealed then (s, rPolicy, [])
  else if !slotExists kind n then (s, rFailed, [])
  else if (kind ≠ 0 && n == 0) || (kind == 2 && (slotOf s 2 1).valid) then (s, rPolicy, [])
  else if !keyForm kind id usage len value then (s, rFailed, [])
  else
    let op := if kind = 0 then 1 else if kind = 1 then 3 else 5
    begun s (commitKey s kind n op s.chk.keyCtr.toNat value (BitVec.ofNat 32 id) (BitVec.ofNat 16 usage))

def keyErase (s : State) (kind n : Nat) : Res :=
  if s.fuse.sealed then (s, rPolicy, [])
  else if !slotExists kind n then (s, rFailed, [])
  else if kind = 2 ∨ (kind = 1 ∧ n = 0) then (s, rPolicy, [])
  else if s.fuse.debug then
    if kind = 0 then (symChanged { s with chk := { s.chk with test := delK s.chk.test n } } 0 n, rOk, [])
    else (s, rPolicy, [])
  else begun s (commitErase s kind n (if kind = 0 then 2 else 4) s.chk.keyCtr.toNat)

/-! ### KEY_UPDATE (R348 to R350) -/

/-- The form of an update message. -/
def updForm (m : List Byte) : Bool :=
  let op := numAt m 6 1
  let klen := numAt m 54 2
  let n := numAt m 64 4
  decide (128 + sigLen ≤ m.length) && numAt m 0 4 == 0x444B5055 && numAt m 4 2 == 1 && decide (1 ≤ op) && decide (op ≤ 7) &&
    (if op = 1 then (klen == 16 || klen == 32) && n == klen + 8 && decide (numAt m 52 2 < 128)
     else if op = 3 ∨ op = 5 then klen == pubLen && n == pubLen
     else klen == 0 && n == 0) &&
    (op == 1 || numAt m 56 1 == 0xFF) && numAt m 57 7 == 0 && numAt m 68 60 == 0 && m.length == 128 + n + sigLen

/-- Is the target legal for the operation? Under debug the production slots cannot be written (R358). -/
def updTarget (s : State) (op n : Nat) : Bool :=
  if op = 1 ∨ op = 2 then decide (n < 64) && !s.fuse.debug
  else if op = 3 ∨ op = 4 then decide (1 ≤ n) && decide (n ≤ 3) && !s.fuse.debug
  else if op = 5 then n == 0 && !s.fuse.debug
  else n == 0

/-- The key wrapped in the payload of operation 1. -/
def updKey (s : State) (m : List Byte) : State × Option (List Byte) :=
  match loadSym s (numAt m 56 1) 6 with
  | (s, some k) =>
    if k.length = 32 then
      match kwUnwrap k (slice m 128 (numAt m 64 4)) with
      | some v => (s, if v.length = numAt m 54 2 then some v else none)
      | none => (s, none)
    else (s, none)
  | (s, none) => (s, none)

/-- Debug switched at the next start (R358). -/
def debugPend (s : State) (on : Bool) : State :=
  if on = s.fuse.debug then { s with chk := { s.chk with debugPend := none } }
  else irq { s with chk := { s.chk with debugPend := some on } } .chk 6

/-- Step 4 of R350: the copy of the record is the active one, its counter and MIN_SVN are in force. -/
def commitSwitch (s : State) (u : Upd) : State :=
  let s := { s with chk := { s.chk with commitSeq := s.chk.commitSeq + 1, keyCtr := u.ctr, minSvn := u.minSvn, upd := none } }
  if u.op = 8 then { s with chk := { s.chk with unconfirmed := false } }
  else if u.kind = 3 then debugPend s (u.op == 6)
  else
    symChanged (setSlot s u.kind u.slot { slotOf s u.kind u.slot with active := u.copy, valid := !u.erase, bad := false }) u.kind u.slot

/-- One cycle of a commit in progress (R350): the record, then its CRC word, then the switch. At a power-fail warning a commit whose
record is not begun stops; one whose memory is down before its record is complete fails. -/
def commitStep (s : State) : State :=
  match s.chk.upd with
  | none => s
  | some u =>
    let rec60 := u.record s
    let a := commitAddr (s.chk.commitSeq + 1)
    let next (s : State) (p : Nat) : State := { s with chk := { s.chk with upd := some { u with phase := p } } }
    if u.result.isSome || (s.aon.pf && u.phase == 0) then s
    else if 2 ≤ u.phase then
      let s := commitSwitch s u
      let s := if u.op = 8 then s else irq s .chk 2
      { s with chk := { s.chk with upd := some { u with result := some rOk } } }
    else if isDown s .memory then { s with chk := { s.chk with upd := some { u with result := some rFailed } } }
    else if u.phase = 0 then next (wrBytes s a (rec60.take 60)) 1
    else next (wrBytes s (a + 60) (rec60.drop 60)) 2

/-- The commit that the last run left in progress, at a start (R350): completed when its record stands whole in the ring, else rolled
back. -/
def commitResolve (s : State) : State :=
  match s.chk.upd with
  | none => s
  | some u =>
    let old := { s with chk := { s.chk with upd := none } }
    if u.result.isSome then old
    else if rdBytes s (commitAddr (s.chk.commitSeq + 1)) 64 = u.record s ∧ 2 ≤ u.phase then
      evt (irq (commitSwitch s u) .chk 4) 0x1312 1 (u.slot + u.kind * 256) 0 u.ctr.toNat
    else evt (irq old .chk 5) 0x1311 1 (u.slot + u.kind * 256) 0 s.chk.keyCtr.toNat

/-- A commit that a power-fail warning stopped, when the warning ends: the command is interrupted. -/
def commitStopped (s : State) : State :=
  match s.chk.upd with
  | none => s
  | some u =>
    if u.phase = 0 ∧ u.result = none then { s with chk := { s.chk with upd := some { u with result := some rInterrupted } } } else s

/-- A refusal of R349 is counted. -/
def updRefused (s : State) : State := irq (cnt s .chk 0 0xB0) .chk 3

/-- The checks of R349 after the form, and the commit. -/
def updApply (s : State) (m : List Byte) : Res :=
  let op := numAt m 6 1
  let n := numAt m 7 1
  let ctr := numAt m 8 8
  let n128 := 128 + numAt m 64 4
  if !(slotOf s 2 1).valid then (updRefused s, rState, [])
  else
    let (s, root) := verifyKey s 0
    let good : Bool := match root with
      | some k => Config.mldsaVerify k (m.take n128) (m.drop n128)
      | none => false
    if !good then (updRefused s, rSignature, [])
    else if slice m 16 32 ≠ idDigest s.fuse then (updRefused s, rPolicy, [])
    else if ctr ≤ s.chk.keyCtr.toNat then (updRefused s, rPolicy, [])
    else if !updTarget s op n then (updRefused s, rFailed, [])
    else if op = 1 then
      match updKey s m with
      | (s, some v) =>
        (match commitKey s 0 n 1 ctr v (BitVec.ofNat 32 (numAt m 48 4)) (BitVec.ofNat 16 (numAt m 52 2)) with
        | some t => (t, rProgress, [])
        | none => (s, rFailed, []))
      | (s, none) => (updRefused s, rFailed, [])
    else
      begun s
        (if op = 2 then commitErase s 0 n 2 ctr
         else if op = 3 then commitKey s 1 n 3 ctr (slice m 128 pubLen) 0 0
         else if op = 4 then commitErase s 1 n 4 ctr
         else if op = 5 then commitKey s 2 1 5 ctr (slice m 128 pubLen) 0 0
         else commitBare s op s.chk.minSvn ctr)

/-- An update: the form first. -/
def keyUpdate (s : State) (m : List Byte) : Res := if updForm m then updApply s m else (updRefused s, rFailed, [])

/-! ### CHK_SEAL, CHK_DEBUG -/

def chkSeal (s : State) (digest : List Byte) : Res :=
  if s.fuse.variant = .s then (s, rPolicy, [])
  else if !(slotOf s 2 1).valid || digest != idDigest s.fuse then (s, rState, [])
  else ({ s with fuse := { s.fuse with sealed := true } }, rOk, [])

def chkDebug (s : State) (on : Nat) : Res :=
  if s.fuse.sealed then (s, rPolicy, [])
  else if 2 ≤ on then (s, rState, [])
  else (debugPend s (on == 1), rOk, [])

/-! ### Attestation (R356, R357) -/

/-- The serial of the committed image of a reference; 0 without one. -/
def serialAt (s : State) (r : Option ImageRef) (o : Nat) : Nat :=
  match r with
  | some r => rdNum s (r.addr + o) 4
  | none => 0

/-- The statement without its proof. -/
def statement (s : State) (nonce : List Byte) : List Byte :=
  le 4 0x54415453 ++ le 2 1 ++
    le 2 (ofBit s.fuse.debug 0 + ofBit s.fuse.sealed 1 + ofBit s.chk.recovery 2 + ofBit s.chk.unconfirmed 3) ++
    le 4 (variantCode s) ++ le 4 s.fuse.lot.toNat ++ [s.fuse.wafer, s.fuse.dieX, s.fuse.dieY, 0] ++
    le 4 s.nv.startCount.toNat ++ padTo 32 nonce ++ (nowStamp s).bytes ++ le 8 s.chk.keyCtr.toNat ++
    le 4 s.chk.minSvn.toNat ++ le 4 s.chk.fwSerial.toNat ++ le 4 (serialAt s s.nv.cfg 20) ++
    le 4 (serialAt s s.nv.spn 16) ++ idDigest s.fuse ++ s.chk.meas.flatten

def attest (s : State) (nonce : List Byte) : Res :=
  let st := statement s nonce
  if fld s .chk 0x40 0 1 = 0 then
    (s, rOk, st ++ Config.mldsaSign (if s.fuse.debug then Config.testPrivate else Config.devicePrivate) st)
  else
    match loadSym s (fld s .chk 0x40 8 6) 5 with
    | (s, some k) => (s, rOk, st ++ kmac256 k st 32 (ascii "ASDAR-ATT"))
    | (s, none) => (s, rState, [])

def pubkey (s : State) : Res := (s, rOk, padTo pubLen (if s.fuse.debug then Config.testPublic else Config.devicePublic))

/-- CHK_SLOT_INFO (R359). -/
def slotInfo (s : State) (kind n : Nat) : Res :=
  if !slotExists kind n then (s, rFailed, [])
  else
    let x := slotOf s kind n
    let (valid, k, bad) : Bool × Option Key × Bool :=
      if s.fuse.debug && kind == 0 then ((findK s.chk.test n).isSome, findK s.chk.test n, false) else (x.valid, x.key, x.bad)
    match k with
    | some k =>
      (s, rOk, [BitVec.ofNat 8 (ofBit valid 0), BitVec.ofNat 8 (ofBit bad 0)] ++ le 2 k.usage.toNat ++ le 4 k.id.toNat ++
        le 2 (8 * k.share.length) ++ le 2 0 ++ le 4 k.version.toNat)
    | none =>
      let v : BitVec 32 := match x.inactive with | some k => k.version | none => 0
      (s, rOk, [0, BitVec.ofNat 8 (ofBit bad 0)] ++ List.replicate 10 0 ++ le 4 v.toNat)

/-! ### Firmware (R352, R353) -/

def fwAddr (i : Nat) : Nat := 0x52570000 + i * 0x400000

/-- The form of a firmware image, signature, variant and digest apart. -/
def fwForm (img : List Byte) : Bool :=
  numAt img 0 4 == 0x57465341 && numAt img 4 2 == 1 && numAt img 6 2 == 0 && numAt img 8 4 == img.length &&
    decide (img.length ≤ 0x400000) && decide (256 + sigLen ≤ img.length)

def fwDigestOk (img : List Byte) : Bool :=
  slice img 32 32 == shake256 ((img.take (img.length - sigLen)).drop 256) 32

/-- The key firmware is verified under. -/
def fwKey (s : State) : State × Option (List Byte) := if s.fuse.debug then (s, some Config.testRoot) else loadPub s 2 0

/-- Does the signature at an image's end verify? -/
def sigOk (key : Option (List Byte)) (img : List Byte) : Bool :=
  match key with
  | some k => Config.mldsaVerify k (img.take (img.length - sigLen)) (img.drop (img.length - sigLen))
  | none => false

def variantOk (s : State) (v : Nat) : Bool := v == 0 || v == variantCode s

def verifyFailed (s : State) : State := cnt s .chk 0 0xB4

def fwLoad (s : State) (img : List Byte) : Res :=
  if !fwForm img then (s, rFailed, [])
  else
    let (s, k) := fwKey s
    if !sigOk k img then (verifyFailed s, rSignature, [])
    else if !variantOk s (numAt img 12 4) then (s, rVariant, [])
    else if !fwDigestOk img then (s, rFailed, [])
    else if numAt img 20 4 < s.chk.minSvn.toNat then (s, rPolicy, [])
    else (wrBytes s (fwAddr (1 - s.chk.fwSlot)) img, rOk, [])

def fwConfirm (s : State) : Res :=
  if !s.chk.unconfirmed then (s, rState, [])
  else begun s (commitBare s 8 s.chk.fwSvn s.chk.keyCtr.toNat)

/-- Slot 0 holds the image that the module was delivered with for as long as nothing has been written there; it is the
maker's, so it verifies under ROOT0 and not under the test root (R10, R353; assumption 2). -/
def fwDelivered (s : State) (key : Option (List Byte)) (i : Nat) : Bool :=
  i == 0 && rdNum s (fwAddr 0) 4 == 0 && !s.fuse.debug && key.isSome &&
    (s.chk.minSvn.toNat == 0 || decide (s.chk.minSvn.toNat ≤ numAt Config.deliveredFw 20 4))

/-- The image of a firmware slot, when it verifies and may start. -/
def fwAt (s : State) (key : Option (List Byte)) (i : Nat) : Option (List Byte) :=
  let n := rdNum s (fwAddr i + 8) 4
  if fwDelivered s key i then some Config.deliveredFw
  else if n < 256 + sigLen ∨ 0x400000 < n then none
  else
    let img := rdBytes s (fwAddr i) n
    if fwForm img && sigOk key img && variantOk s (numAt img 12 4) && fwDigestOk img &&
      decide (s.chk.minSvn.toNat ≤ numAt img 20 4) then some img else none

/-- A slot's image of a right form whose signature does not verify. -/
def fwBadSig (s : State) (key : Option (List Byte)) (i : Nat) : Bool :=
  let n := rdNum s (fwAddr i + 8) 4
  let img := rdBytes s (fwAddr i) n
  decide (256 + sigLen ≤ n) && decide (n ≤ 0x400000) && fwForm img && !sigOk key img

/-- The live array is loaded: every valid slot's active copy is checked again (R344, R345). -/
def loadSlots (s : State) : State :=
  let keys := (2, 0) :: (1, 0) :: (s.chk.slots.map fun e => e.1).filter fun k => k != (2, 0) && k != (1, 0)
  forEach keys s fun s k =>
    let x := slotOf s k.1 k.2
    (checkSlot (if x.bad then setSlot s k.1 k.2 { x with bad := false } else s) k.1 k.2).1

/-- Secure boot (R352): measurements, slots, firmware, or RECOVERY. -/
def secureBoot (s : State) : State :=
  let s := { s with chk := { s.chk with
    meas := List.replicate 8 (List.replicate 32 0), test := [], extData := List.replicate 8 0, recovery := false,
    unconfirmed := false, fwSvn := 0, fwSerial := 0, fwSlot := 0, booted := true } }
  let s := extend s 0 Config.romDigest
  let s := loadSlots (commitResolve s)
  let pub (n : Nat) : List Byte := match (slotOf s 2 n).key with
    | some k => shake256 k.value 32
    | none => List.replicate 32 0
  let s := extend s 2
    ([BitVec.ofNat 8 (ofBit s.fuse.sealed 0), BitVec.ofNat 8 (ofBit s.fuse.debug 0)] ++ pub 0 ++ pub 1 ++
      le 4 s.chk.minSvn.toNat)
  let lost := s.chk.recoveryNext || (slotOf s 2 0).bad || (slotOf s 2 1).bad || (slotOf s 1 0).bad
  let (s, key) := fwKey s
  let s := forEach [0, 1] s fun s i => if fwBadSig s key i then verifyFailed s else s
  let pick : Option (Nat × List Byte) := match fwAt s key 0, fwAt s key 1 with
    | some a, some b => some (if numAt a 16 4 < numAt b 16 4 then (1, b) else (0, a))
    | some a, none => some (0, a)
    | none, some b => some (1, b)
    | none, none => none
  let s := { s with chk := { s.chk with recoveryNext := false } }
  match pick with
  | none => { s with chk := { s.chk with recovery := true } }
  | some (i, img) =>
    if lost then { s with chk := { s.chk with recovery := true } }
    else
      let svn := BitVec.ofNat 32 (numAt img 20 4)
      let s := extend s 1 img
      { s with chk := { s.chk with
          fwSlot := i, fwSvn := svn, fwSerial := BitVec.ofNat 32 (numAt img 16 4),
          unconfirmed := decide (s.chk.minSvn.toNat < svn.toNat) } }

/-! ### Live array -/

/-- Every copy's mask drawn anew: the values stay (R344). -/
def remask (s : State) : State :=
  let fresh (s : State) (kind : Nat) (k : Key) : State × Key :=
    if kind ≠ 0 then (s, k)
    else
      let (m, s) := draw s k.share.length
      (s, { k with share := xorBytes k.value m, mask := m })
  let (s, l) := s.chk.slots.foldl (fun (a : State × List ((Nat × Nat) × Slot)) e =>
    let (s, x) := match e.2.key with
      | none => (a.1, e.2)
      | some k =>
        let (s, k) := fresh a.1 e.1.1 k
        (s, if e.2.active then { e.2 with b := some k } else { e.2 with a := some k })
    (s, a.2 ++ [(e.1, x)])) (s, [])
  { s with chk := { s.chk with slots := l } }

/-- The scrub of the live array (R345). -/
def tagScrub (s : State) : State :=
  forEach ((2, 0) :: (1, 0) :: (s.chk.slots.map fun e => e.1).filter fun k => k != (2, 0) && k != (1, 0)) s fun s k =>
    if (slotOf s k.1 k.2).bad then s else (checkSlot s k.1 k.2).1

/-- CHK_EXT_GO (R354). -/
def extGo (s : State) : State :=
  extend (setReg s .chk 0 0xE4 0) (fld s .chk 0xC0 0 3) ((s.chk.extData.map fun w => le 4 w.toNat).flatten)

/-! ### Registers (R360) -/

def chkStat (s : State) : Nat :=
  ofBit s.fuse.sealed 8 + ofBit s.fuse.debug 9 + ofBit s.chk.recovery 10 +
    ofBit (s.chk.upd.any fun u => u.result.isNone) 11

/-- The bits of the symmetric slots that are valid: under debug those of the test slots (R358). -/
def symValid (s : State) : Nat :=
  (List.range 64).foldl (fun a i =>
    a + ofBit (if s.fuse.debug then (findK s.chk.test i).isSome else (slotOf s 0 i).valid) i) 0

/-- The bits of the slots of a kind that satisfy a predicate. -/
def slotBits (s : State) (kind n : Nat) (p : Slot → Bool) : Nat :=
  (List.range n).foldl (fun a i => a + ofBit (p (slotOf s kind i)) i) 0

def chkRead (s : State) (o : Nat) : Option Nat :=
  if o = 0x80 then
    some (ofBit s.fuse.sealed 0 + ofBit s.fuse.debug 1 + ofBit s.chk.debugPend.isSome 2 + ofBit (slotOf s 2 1).valid 3 +
      ofBit s.chk.recovery 4 + s.chk.fwSlot * 32 + ofBit s.chk.unconfirmed 6)
  else if o = 0x84 then some (s.chk.keyCtr.toNat % 2 ^ 32)
  else if o = 0x88 then some (s.chk.keyCtr.toNat / 2 ^ 32)
  else if o = 0x8C then some s.chk.minSvn.toNat
  else if o = 0x90 then some s.chk.fwSvn.toNat
  else if o = 0x94 then some s.chk.fwSerial.toNat
  else if o = 0x98 then some (slotBits s 0 64 (·.bad) % 2 ^ 32)
  else if o = 0x9C then some (slotBits s 0 64 (·.bad) / 2 ^ 32)
  else if o = 0xA0 then some (slotBits s 1 4 (·.bad) + slotBits s 2 2 (·.bad) * 16)
  else if o = 0xA4 then some (symValid s % 2 ^ 32)
  else if o = 0xA8 then some (symValid s / 2 ^ 32)
  else if 0x100 ≤ o ∧ o < 0x200 then some (numAt (s.chk.meas.getD ((o - 0x100) / 32) []) ((o - 0x100) % 32) 4)
  else if 0x200 ≤ o ∧ o < 0x220 then some (numAt (idDigest s.fuse) (o - 0x200) 4)
  else none

/-- After a write to a register of CHK; `v` is the value written. -/
def chkWritten (s : State) (o v : Nat) : State :=
  if 0xC4 ≤ o ∧ o < 0xE4 then
    setReg { s with chk := { s.chk with extData := modAt s.chk.extData ((o - 0xC4) / 4) fun _ => BitVec.ofNat 32 v } }
      .chk 0 o 0
  else if o = 0xE4 then (if bit (reg s .chk 0 o) 0 then extGo s else s)
  else s

/-- A reset of the Security island (R354, R358, R360). -/
def chkIslandReset (s : State) : State :=
  { s with chk := { s.chk with
      meas := List.replicate 8 (List.replicate 32 0), extData := List.replicate 8 0, test := [], booted := false,
      fwSlot := 0, fwSvn := 0, fwSerial := 0, unconfirmed := false, recovery := false } }

/-! ### Rows -/

def execRemask (s : State) : Host.Outcome State Fault Refusal :=
  runOn (fun s => if isDown s .security then s else remask s) s

def execTagScrub (s : State) : Host.Outcome State Fault Refusal :=
  runOn (fun s => if isDown s .security then s else tagScrub s) s

end Sys2Proof.Machine
end

