-- ==== Sys2Proof/Machine/Comtrade.lean ====
section
/-!
DEFINITION. Reading Gouge's store: the index and the raw record, the COMTRADE files of a record (R239), and the
commands GGE_INDEX, GGE_READ, GGE_EXPORT, GGE_MANUAL and GGE_DELETE (R240). What IEEE C37.111-2013 leaves to the writer of
a file is assumption 18.
-/

namespace Sys2Proof.Machine

/-! ### Text -/

def dec (n : Nat) : String := toString n

/-- A number in `w` digits. -/
def decPad (w n : Nat) : String :=
  let t := toString (n % 10 ^ w)
  String.ofList (List.replicate (w - t.length) '0') ++ t

/-- A line of a file. -/
def crlf (t : String) : List Byte := ascii t ++ [13, 10]

/-- Year, month and day of a count of days since 1970-01-01. -/
def civil (days : Nat) : Nat × Nat × Nat :=
  let z := days + 719468
  let era := z / 146097
  let doe := z % 146097
  let yoe := (doe - doe / 1460 + doe / 36524 - doe / 146096) / 365
  let doy := doe - (365 * yoe + yoe / 4 - yoe / 100)
  let mp := (5 * doy + 2) / 153
  let m := if mp < 10 then mp + 3 else mp - 9
  (yoe + era * 400 + (if m ≤ 2 then 1 else 0), m, doy - (153 * mp + 2) / 5 + 1)

/-- The date and time line of an instant in TAI, in UTC (R48), with six digits of a second, or nine. -/
def dateLine (s : State) (sec ns : Nat) (fine : Bool) : String :=
  let u := sec - fld s .tim 0x54 0 16
  let (y, m, d) := civil (u / 86400)
  let h := u % 86400
  decPad 2 d ++ "/" ++ decPad 2 m ++ "/" ++ decPad 4 y ++ "," ++ decPad 2 (h / 3600) ++ ":" ++ decPad 2 (h / 60 % 60) ++ ":" ++
    decPad 2 (h % 60) ++ "." ++ (if fine then decPad 9 ns else decPad 6 (ns / 1000))

/-! ### A record's header -/

/-- A held record by its number. -/
def heldRec (s : State) (num : Nat) : Option Held := s.gge.recs.find? fun h => h.num == num

/-- A number of the header of a record at `base`. -/
def hdr (s : State) (base k n : Nat) : Nat := rdNum s (base + k) n

def hdrFrames (s : State) (b : Nat) : Nat := hdr s b 40 4
def hdrNA (s : State) (b : Nat) : Nat := hdr s b 46 2
def hdrNP (s : State) (b : Nat) : Nat := hdr s b 48 1
def hdrND (s : State) (b : Nat) : Nat := hdr s b 49 1
def hdrRows (s : State) (b : Nat) : Nat := hdr s b 56 4
def hdrTw (s : State) (b : Nat) : List Nat := bitsOf (hdr s b 60 4) 24

/-- The frame of a record at index `i`. -/
def hdrFrame (s : State) (b i : Nat) : Nat := b + hdr s b 104 4 + i * hdr s b 44 2

/-- A stored timestamp: seconds, ns, fraction. -/
def storedStamp (s : State) (a : Nat) : Nat × Nat × Nat := (rdNum s a 8, rdNum s (a + 8) 4 % 2 ^ 30, rdNum s (a + 12) 2)

/-! ### .cfg -/

/-- An analogue channel's line. -/
def anaLine (i : Nat) (name : String) : List Byte :=
  crlf (dec (i + 1) ++ "," ++ name ++ ",,,cnt,1,0,0,-2147483647,2147483647,1,1,P")

/-- A status channel's line. -/
def staLine (i : Nat) (name : String) : List Byte := crlf (dec (i + 1) ++ "," ++ name ++ ",,,0")

/-- The names of a part's analogue channels. -/
def anaNames (s : State) (b part : Nat) : List String :=
  if part = 0 then
    ((List.range (hdrNA s b)).map fun i => "CH" ++ decPad 4 (hdr s b (128 + 2 * i) 2)) ++
      (List.range (hdrNP s b)).map fun i => "PQ" ++ decPad 2 i
  else (hdrTw s b).map fun c => "TW" ++ decPad 2 c

/-- The names of a part's status channels. -/
def staNames (s : State) (b part : Nat) : List String :=
  if part = 0 then
    ((List.range 32).map fun i => "BI" ++ decPad 2 i) ++ ((List.range 16).map fun i => "BO" ++ decPad 2 i) ++
      ((List.range 16).map fun i => "TR" ++ decPad 2 i) ++
      ((List.range (hdrND s b)).map fun w =>
        (List.range 32).map fun i => "DW" ++ decPad 2 (hdr s b (80 + w) 1) ++ "_" ++ decPad 2 i).flatten
  else []

/-- The .cfg file of a part. -/
def cfgFile (s : State) (b num part : Nat) : List Byte :=
  let an := anaNames s b part
  let st := staNames s b part
  let n := if part = 0 then hdrFrames s b else hdrRows s b
  let (fs, fn, _) := storedStamp s (if part = 0 then hdrFrame s b 0 else b + 64)
  let (ts, tn, _) := storedStamp s (b + 16)
  let q := rdNum s (b + 24) 4 / 2 ^ 30
  let leap := fld s .tim 0x54 16 2
  crlf (",ASDAR-" ++ dec (hdr s b 124 4) ++ "-" ++ dec num ++ ",2013") ++
    crlf (dec (an.length + st.length) ++ "," ++ dec an.length ++ "A," ++ dec st.length ++ "D") ++
    (an.mapIdx fun i t => anaLine i t).flatten ++ (st.mapIdx fun i t => staLine i t).flatten ++ crlf (dec (f0Hz s)) ++ crlf "1" ++
    crlf (dec (if part = 0 then 14400 else 3600000) ++ "," ++ dec n) ++ crlf (dateLine s fs fn (part == 1)) ++
    crlf (dateLine s ts tn (part == 1)) ++ crlf "BINARY32" ++ crlf (if part = 0 then "1" else "0.001") ++ crlf "0,0" ++
    crlf ((if q = 0 then "0" else if q = 1 then "B" else "F") ++ "," ++ (if leap = 0 then "0" else "1"))

/-! ### .dat -/

/-- A value not valid. -/
def datInvalid : List Byte := le 4 0x80000000

/-- The length of a row of a part's .dat file. -/
def datRowLen (s : State) (b part : Nat) : Nat :=
  if part = 0 then 8 + 4 * hdrNA s b + 4 * hdrNP s b + 8 + 4 * hdrND s b else 8 + 4 * (hdrTw s b).length

/-- Row `i` of the grain part. -/
def datGrain (s : State) (b i : Nat) : List Byte :=
  let a := hdrFrame s b i
  let (s0, n0, f0) := storedStamp s (hdrFrame s b 0)
  let (s1, n1, f1) := storedStamp s a
  let t : Int := ((s1 * 1000000000 + n1) * 65536 + f1 : Nat) - ((s0 * 1000000000 + n0) * 65536 + f0 : Nat)
  let na := hdrNA s b
  let val (o : Nat) (ok : Nat → Bool) : List Byte := if ok (rdNum s (o + 4) 2) then rdBytes s o 4 else datInvalid
  let an := ((List.range na).map fun j => val (a + 32 + 6 * j) fun fl => bit fl 0).flatten
  let pq := ((List.range (hdrNP s b)).map fun j =>
    let w := hdr s b (640 + 2 * j) 2
    val (a + 32 + 6 * na + 6 * j) (qValid (w / 2 ^ 13, w % 2 ^ 13))).flatten
  let o := a + 32 + 6 * na + 6 * hdrNP s b
  le 4 (i + 1) ++ le 4 (ofSigned 32 (roundAway t 65536000)) ++ an ++ pq ++ rdBytes s o 8 ++ rdBytes s (o + 16) (4 * hdrND s b)

/-- Row `i` of the travelling-wave part. -/
def datTw (s : State) (b i : Nat) : List Byte :=
  let tw := hdrTw s b
  let a := b + hdr s b 108 4 + i * 2 * tw.length
  le 4 (i + 1) ++ le 4 ((i * 5000 + 9) / 18) ++ (tw.mapIdx fun j c =>
    let w := rdNum s (a + 2 * j) 2
    if bit w 13 then datInvalid else le 4 (ofSigned 32 (tapValue s c (w % 8192)))).flatten

/-- Bytes `off` to `off + len - 1` of a part's .dat file: of the rows that hold them. -/
def datRange (s : State) (b part off len : Nat) : List Byte :=
  let r := datRowLen s b part
  let first := off / r
  let rows := ((List.range ((off + len - 1) / r + 1 - first)).map fun i =>
    if part = 0 then datGrain s b (first + i) else datTw s b (first + i)).flatten
  slice rows (off - first * r) len

/-- The length of a file of a part. -/
def fileLen (s : State) (b num part file : Nat) : Nat :=
  if file = 0 then (cfgFile s b num part).length
  else (if part = 0 then hdrFrames s b else hdrRows s b) * datRowLen s b part

/-! ### Operations (R240) -/

/-- GGE_INDEX: the entries of the records from the first while held. -/
def ggeIndexOp (s : State) (first count : Nat) : Res :=
  if count < 1 ∨ 63 < count ∨ (heldRec s first).isNone then (s, rState, [])
  else
    let nums := (s.gge.recs.dropWhile fun h => h.num != first).take count
    (s, rOk, (nums.map fun h => rdBytes s (recEntry s h.num) 64).flatten)

/-- GGE_READ: raw bytes of a record. -/
def ggeReadOp (s : State) (num off len : Nat) : Res :=
  match heldRec s num with
  | none => (s, rState, [])
  | some h =>
    if len < 1 ∨ 4064 < len ∨ rdNum s (recEntry s num + 12) 4 < off + len then (s, rState, [])
    else (s, rOk, rdBytes s (pageAddr s h.off + off) len)

/-- GGE_EXPORT: bytes of a COMTRADE file of a record that is no longer RECORDING. -/
def ggeExportOp (s : State) (num part file off len : Nat) : Res :=
  match heldRec s num with
  | none => (s, rState, [])
  | some h =>
    let b := pageAddr s h.off
    if 1 < part ∨ 1 < file ∨ len < 1 ∨ 4064 < len ∨ h.recording = true ∨ hdr s b 0 4 ≠ 0x43524747 then (s, rState, [])
    else
      let n := fileLen s b num part file
      if n < off + len then (s, rState, [])
      else (s, rOk, le 8 n ++ (if file = 0 then slice (cfgFile s b num part) off len else datRange s b part off len))

/-- GGE_MANUAL: unit 64 fires. -/
def ggeManualOp (s : State) : Res :=
  if s.gge.state = .disarmed ∨ ggeOn s = false then (s, rState, []) else (manualFiring s, rOk, [])

/-- GGE_DELETE: the oldest records that are not RECORDING. -/
def ggeDeleteOp (s : State) (count : Nat) : Res :=
  let (s, d) := deleteRecords (if count = 0xFFFFFFFF then 4096 else min count 4096) s 0
  (evt (unblock s) 0x0C14 1 0 0 d, rOk, [])

end Sys2Proof.Machine
end

