-- ==== Sys2Proof/Machine/Flags.lean ====
section
/-!
DEFINITION. What a register access finds: units fused off (R3), ranges that depend on the part, the state or other
fields, the status words computed at a read, PG_STAT of every block, and the reset of a block's registers.
-/

namespace Sys2Proof.Machine

/-! ### Units fused off (R2, R3) -/

/-- Is the unit of a page fused off on this part? -/
def fusedOff (s : State) (b : Blk) (i : Nat) : Bool :=
  match b with
  | .nrg | .twv => s.fuse.variant == .s
  | .rdn => s.fuse.variant == .n
  | .prt => !portPresent s i
  | _ => false

/-! ### Ranges (R32) -/

/-- A binary32 value that is positive and finite. -/
def f32Positive (v : Nat) : Bool := decide (0 < v) && decide (v < 0x7F800000)

/-- The range of a field that depends on the part, the state or other fields; `new` is the word being made. -/
def dynRange (s : State) (b : Blk) (i o : Nat) (f : Fld) (new v : Nat) : Rng :=
  let upTo (n : Nat) : Rng := .u 0 n 1
  if o = 8 then (if b.alwaysOn then .u 1 1 1 else .all)
  else match b with
  | .cmd => let d := if s.fuse.debug then 1 else 0; .u d d 1
  | .prt =>
    let sp := getBits new 0 2
    if f.lsb = 0 then (if i < 48 then .en [0, 1] 0 else .en [2, 3] 3)
    else if f.lsb = 4 then .en (if i < 48 then [0] else if sp = 2 then [0, 1] else [0, 1, 2]) 0
    else upTo (if sp = 0 then 1 else 0)
  | .swc =>
    if o = 0x108 then
      let t := getBits new 0 2
      upTo (if t = 0 then 67 else if t = 1 then 15 else if t = 2 then 1023 else 0)
    else upTo (if pairLegal s ((o - 0x9000) / 4) new then 1 else 0)
  | .svs =>
    let sv := decide (fld s .svs 0x80 0 12 < 512)
    if o = 0x8C then (if sv then .u 1000 16000 1 else .all) else if sv then upTo 10000 else .all
  | .acq => upTo (if s.fuse.variant == .s then 0 else 1)
  | .nrg | .twv => if f32Positive v then .all else .en [] 0x3F800000
  | .gge =>
    if o = 0x58 then (if s.fuse.variant == .s then upTo 0 else .all)
    else if o = 0x60 then (if s.fuse.variant == .s then upTo 3 else .all)
    else if f.off = 0x1000 then
      let src := getBits new 4 2
      .en (if src = 3 then [0, 1, 2, 4] else if src = 1 ∧ s.fuse.variant = .s then [0] else List.range 6) 0
    else
      let src := tgF s ((o - 0x1000) / 0x20) 0 4 2
      upTo (if src = 0 then 4119 else if src = 1 then 23 else if src = 3 then 1087
        else if getBits new 16 3 < 3 then 4119 else 1023)
  | .slc => if (slOf s ((o - 0x1000) / 0x80)).state = .free then .all else .u 1 1 1
  | _ => .all

/-- The fields of a register as they stand: with their ranges, and with the words W6 and W7 of an SV subscription, of
which W6 has 14 bits and W7 none (R121). -/
def fieldsAt (s : State) (b : Blk) (o : Nat) : List Fld :=
  (fieldsOf b o).map fun f =>
    if b = .svs ∧ o = 0x9C ∧ fld s .svs 0x80 0 12 < 512 then { f with w := 14 }
    else if b = .svs ∧ o = 0xA0 ∧ fld s .svs 0x80 0 12 < 512 then { f with acc := .ro }
    else f

/-- The range of a field for a value. -/
def rangeOf (s : State) (b : Blk) (i o : Nat) (f : Fld) (new v : Nat) : Rng :=
  match f.rng with
  | .dyn => dynRange s b i o f new v
  | g => g

/-! ### Words computed at a read -/

def srcWord (x : ClkSrc) : Nat := ofBit x.stable 0 + ofBit x.failed 1 + ofBit x.stable 2

/-- The clock enables of the present power state (R382, R392). -/
def clkEn (s : State) (i : Nat) : Bool := bit (reg s .clk 0 (0x48 + 4 * s.aon.pwr)) i

/-- Is the clock of island `i` made at its selected frequency (R373)? -/
def clkRuns (s : State) (i : Nat) : Bool :=
  if i = 0 then (if s.clk.aonOnRef then s.clk.refclk.stable else s.clk.rc.stable)
  else clkEn s i && (if i = 6 then s.clk.lock.toNat.testBit 1 && !s.clk.sysOnRc
    else if i = 10 then s.clk.rc.stable else s.clk.lock.toNat.testBit i)

/-- The fall-back of the system PLLs is in use: from the switch to the RC oscillator until they are locked on REFCLK
again. -/
def onFallback (s : State) : Bool :=
  s.clk.sysOnRc || s.clk.fallback

def clkRead (s : State) (o : Nat) : Option Nat :=
  if o = 0x80 then some (srcWord s.clk.refclk + srcWord s.clk.serdes * 16 + srcWord s.clk.rc * 256)
  else if o = 0x84 then some (ofBit s.clk.aonOnRef 0 + ofBit s.clk.sysOnRc 1 + getBits (reg s .clk 0 o) 2 1 * 4)
  else if o = 0x88 then some ((List.range 13).foldl (fun a i => a + ofBit (clkRuns s i) i) 0)
  else if o = 0x8C then some s.clk.cause.toNat
  else if o = 0x90 then some s.clk.seenCause.toNat
  else if o = 0x94 then some (if s.clk.rc.stable && s.clk.refclk.stable then reg s .clk 0 o else 0)
  else none

/-- The AON seconds counter: it follows the timebase while the Time island runs (R394, R395, R397). -/
def aonSec (s : State) : Nat := if isUp s .time then nowSec s else s.aon.sec

def aonRead (s : State) (o : Nat) : Option Nat :=
  if o = 0x80 then some (variantCode s)
  else if o = 0x84 then some s.fuse.lot.toNat
  else if o = 0x88 then some (dieWord s)
  else if o = 0x8C then some (s.aon.kind + ofBit s.aon.stuck 8 + ofBit s.aon.pinArmed 9)
  else if o = 0x90 then some s.nv.startCount.toNat
  else if o = 0x94 then some s.aon.pwr
  else if o = 0x98 then some (ofBit s.aon.pf 0)
  else if o = 0xA0 then some (aonSec s % 2 ^ 32)
  else if o = 0xA4 then some (aonSec s / 2 ^ 32)
  else none

/-- The base of the staging area (R434). A move of the base leaves the DRAM as it stands (DESIGN CHOICE, assumption 113). -/
def stageBase (s : State) : Nat :=
  let e := dramEnd s
  if storeBase s + 2 ^ 30 = e then storeBase s - 0x4000000 else e - 0x4000000

def cmdRead (s : State) (o : Nat) : Option Nat :=
  if o = 0x40 then some (setBits (reg s .cmd 0 o) 5 1 (ofBit s.fuse.debug 0))
  else if o = 0x58 then some s.nv.jnlNewest
  else if o = 0x5C then some s.nv.jnlCount
  else if o = 0x78 then some (stageBase s % 2 ^ 32)
  else if o = 0x7C then some (stageBase s / 2 ^ 32)
  else none

def swcRead (s : State) (o : Nat) : Option Nat :=
  if o = 0x110 then some (ofBit s.swc.fdbBusy 0 + s.swc.fdbResult * 2)
  else if o = 0x114 then
    some (s.swc.fdb.length % 65536 + (s.swc.fdb.filter fun e => e.static).length % 65536 * 65536)
  else if o = 0x164 then some (ofBit s.swc.clsBusy 0)
  else if o = 0x1C0 then some (freeBillets s)
  else if 0x1D0 ≤ o ∧ o < 0x210 then some (bankFree s ((o - 0x1D0) / 4))
  else if o = 0x214 then some (occ s (fld s .swc 0x210 0 7) (fld s .swc 0x210 8 3))
  else if o = 0x218 then some (copiesAt s (fld s .swc 0x210 0 7) (fld s .swc 0x210 8 3)).length
  else if 0x400 ≤ o ∧ o < 0x480 ∧ (o - 0x400) % 0x20 = 0 then some (ofBit (ipUp s (64 + (o - 0x400) / 0x20)) 0)
  else if o = 0x9044 then some s.swc.dd.length
  else none

def svsRead (s : State) (o : Nat) : Option Nat :=
  let i := fld s .svs 0x80 0 12
  if o = 0xA8 then
    if i < 512 then
      let x := svOf s i
      some ((match x.state with
        | .idle => 0 | .running => 2 | .lost => 4) + ofBit (x.state == .running && x.sync != some 2) 3 + ofBit x.est.isSome 4)
    else
      some (match (gOf s (i - 512)).state with
        | .idle => 0 | .live => 2 | .stale => 4)
  else if o = 0xAC then
    let rate := entRate ((findK s.svs.tab i).getD [])
    some (match (svOf s i).est with
      | some e => if i < 512 ∧ rate ≠ 0 then ofSigned 32 (satS 32 (roundAway e (rate * 65536))) else 0
      | none => 0)
  else if o = 0x120 then
    let k := fld s .svs 0x100 0 6
    some (ofBit (ringOf s.svs.ring k).fault 0 + ofBit (ringOf s.svs.gring k).fault 1)
  else none

def acqRead (s : State) (o : Nat) : Option Nat :=
  if o = 0x50 then some (calStat s)
  else if o = 0x54 then some (bankStat s)
  else if o = 0x58 then some (gdMax s)
  else if 0x100 ≤ o ∧ o < 0x700 then
    let c := (o - 0x100) / 0x40
    let k := (o - 0x100) % 0x40
    if k = 0x24 then some (chStat s c)
    else if k = 0x28 then some (chGd s c)
    else if k = 0x2C then some (chCalMeas s c)
    else if k = 0x30 then some (loEff s c)
    else none
  else none

def evrRead (s : State) (o : Nat) : Option Nat :=
  if o = 0x40 then some s.evr.count
  else if o = 0x44 then some s.evr.gen
  else if o = 0x48 then some s.evr.buf.length
  else if o = 0x4C then some s.evr.lost
  else none

/-- A word computed at the read, for those that are. -/
def statusWord (s : State) (b : Blk) (i o : Nat) : Option Nat :=
  match b with
  | .aon => aonRead s o
  | .clk => clkRead s o
  | .tim => timRead s o
  | .cmd => cmdRead s o
  | .prt => none
  | .swc => swcRead s o
  | .svs => svsRead s o
  | .acq => acqRead s o
  | .phx => phxRead s o
  | .nrg => nrgRead s o
  | .twv => twvRead s o
  | .gge => ggeRead s o
  | .dec => decRead s o
  | .apc => apcRead s o
  | .slc => slcRead s o
  | .spn => spnRead s o
  | .sfi => sfiRead s o
  | .rdn => rdnRead s o
  | .chk => chkRead s o
  | .evr => evrRead s o
  | .mem => none
  | .sw => swRead s i o

/-- Bits [31:8] of PG_STAT. -/
def blkStat (s : State) (b : Blk) (i : Nat) : Nat :=
  match b with
  | .aon => s.aon.pwr * 2 ^ 8 + ofBit s.aon.pf 10 + ofBit s.aon.stuck 11
  | .clk => ofBit s.clk.forcing 8 + ofBit (onFallback s) 9 + ofBit s.clk.aonOnRef 10
  | .tim => timStat s
  | .prt =>
    ofBit (portUp s i) 8 + speedOf s i * 2 ^ 9 + ofBit (s.ports.anDone.toNat.testBit i) 11 + ofBit (pairOf s i).isSome 12 +
      ofBit (s.ports.flushing.toNat.testBit i) 13
  | .swc => ofBit (decide (freeBillets s < fld s .swc 0x4C 0 18)) 8 + ofBit s.swc.fdbBusy 9 + ofBit s.swc.clsBusy 10 +
      ofBit s.swc.grpBusy 11
  | .svs => s.svs.opened.length * 2 ^ 9
  | .acq =>
    ofBit s.acq.cal.isSome 8 + ofBit (s.acq.ch.any fun e => e.2.fade.isSome) 9 +
      ofBit (s.acq.ch.any fun e => e.2.cfgFault || e.2.mdFault) 10
  | .phx => ofBit (decide (restartLeft s ≠ 0)) 8 + ofBit s.phx.grpBusy 9
  | .nrg =>
    ofBit s.nrg.snapReq.isSome 8 + ofBit s.nrg.saveReq.isSome 9 + ofBit s.nrg.storeLost 10 + ofBit s.nrg.unsaved 11
  | .twv => twvStat s
  | .gge => ggeStat s
  | .dec => decStat s
  | .spn => spnStat s
  | .sfi => sfiStat s
  | .rdn => rdnStat s
  | .chk => chkStat s
  | .evr => ofBit s.evr.full 8 + ofBit s.evr.high 9
  | .cmd | .apc | .slc | .mem | .sw => 0

/-- PG_STAT (R430). -/
def pgStat (s : State) (b : Blk) (i : Nat) : Nat :=
  ofBit (bit (reg s b i 8) 0) 0 + ofBit (bit (reg s b i 8) 1) 1 + ofBit (bit (reg s b i 0x28) 0) 2 +
    ofBit (decide (reg s b i 0x1C ≠ 0)) 3 + blkStat s b i

/-- A word as it reads, without the effect of the read. -/
def peekWord (s : State) (b : Blk) (i o : Nat) : Nat :=
  if o = 0 then b.code * 65536 + i
  else if fusedOff s b i then 0
  else if o = 0xC then pgStat s b i
  else match statusWord s b i o with
    | some v => v
    | none => reg s b i o

/-! ### Resets of registers -/

/-- Every register of a block's pages, in every bank, at its reset value; nothing latched of it. -/
def resetBlk (s : State) (b : Blk) (i : Nat) : State :=
  clearRegs { s with latch := s.latch.filter fun e => (keyIn b i e.1).isNone } fun k => (keyIn b i k).isSome

end Sys2Proof.Machine
end

