-- ==== Sys2Proof/Machine/CmdQueue.lean ====
section
/-!
DEFINITION. The entrance of the command processor: opcodes and the sizes of their arguments (R37), the checks that lead
to a place in a queue (R33 to R36, R433), refusals (R38), and responses with the mailboxes' holding rule (R34, R39).
-/

namespace Sys2Proof.Machine

/-! ### Ports and opcodes -/

def portNum : Port → Nat
  | .host => 0 | .mgmt => 1 | .console => 2 | .partner => 3 | .slice => 4 | .debug => 5

def portsInOrder : List Port := [.host, .mgmt, .console, .partner, .slice, .debug]

/-- The PG_OWNER class of a port (R30). -/
def portClass (p : Port) : Nat := portNum p + 1

/-- An opcode: number, bytes of its fixed arguments, 1 when more may follow and 2 for an object given under R434. -/
def opcodes : List (Nat × Nat × Nat) :=
  [(0x1001, 0, 0), (0x1002, 6, 0), (0x1003, 8, 0), (0x1004, 6, 0), (0x3001, 16, 0), (0x3002, 4, 1), (0x3003, 8, 2),
    (0x2010, 12, 0), (0x2011, 0, 0), (0x2020, 4, 0), (0x2021, 4, 0), (0x2030, 0, 0), (0x8010, 12, 0), (0x1020, 6, 0),
    (0x1021, 14, 0), (0x1022, 16, 0), (0x2040, 0, 0), (0x8020, 4, 0), (0x4001, 4, 0), (0x4002, 1, 0), (0x4003, 1, 0),
    (0x4004, 2, 0), (0x4005, 1, 0), (0x4006, 16, 0), (0x4007, 13, 0), (0x4008, 13, 0), (0x1030, 4, 0), (0x2050, 0, 0)] ++
  [(0x2051, 1, 0), (0x2052, 0, 0), (0x2053, 20, 0), (0x2054, 4, 0), (0x2055, 0, 0), (0x5010, 8, 2), (0x5011, 0, 0),
    (0x2060, 2, 0), (0x2061, 0, 0), (0x2062, 1, 0), (0x7001, 0, 0), (0x7002, 0, 0), (0x7003, 1, 0), (0x7004, 0, 0),
    (0x1040, 32, 0), (0x1041, 0, 0), (0x1042, 2, 0), (0x5001, 8, 2), (0x5002, 0, 0), (0x6001, 10, 1), (0x6002, 2, 0),
    (0x6003, 0, 1), (0x6004, 8, 2), (0x6005, 32, 0), (0x6006, 1, 0), (0x1050, 0, 0), (0x1051, 6, 0), (0x8030, 4, 0)] ++
  [(0x2070, 0, 0), (0x2080, 0, 0), (0x2081, 1, 0), (0x2082, 0, 0), (0x2083, 0, 0), (0x2084, 0, 0)]

def opcodeInfo (op : Nat) : Option (Nat × Nat) := (opcodes.find? fun e => e.1 == op).map fun e => e.2

/-- Have the arguments the size that the opcode names (R433)? -/
def argsFit (p : Port) (op n : Nat) : Bool :=
  match opcodeInfo op with
  | none => true
  | some (k, v) => if v = 2 then n == (if p = .host then k + 4 else k) else if v = 1 then decide (k ≤ n) else n == k

/-- Is the class of an opcode permitted to a port (R35)? -/
def classPermitted (p : Port) (op : Nat) : Bool :=
  let c := op / 4096
  match p with
  | .host => c != 9
  | .mgmt => [1, 2, 3, 5, 6, 8].contains c
  | .console => [1, 3, 5, 7, 8].contains c
  | .partner => [1, 4, 7].contains c
  | .slice => c == 1
  | .debug => true

/-- The registers of AON that a slice may read: faceplate identity and status, and the identity and status words. -/
def aonForSlice (o : Nat) : Bool := o == 0 || o == 4 || o == 0xC || (decide (0x80 ≤ o) && decide (o < 0xA8))

/-- A slice's own limits (R35, R266, R359, R369): REG_READ of its own window and of AON identity and status, the event log, and
Chuck's public key, attestation and slot information. -/
def sliceMayRead (i op : Nat) (args : List Byte) : Bool :=
  op == 0x1050 || op == 0x1051 || op == 0x1040 || op == 0x1041 || op == 0x1042 || op == 0x1003 && ((numAt args 0 2 == 0x16 && numAt args 2 2 == i) ||
    (numAt args 0 2 == 1 && numAt args 2 2 == 0 && aonForSlice (numAt args 4 4)))

/-- In RECOVERY only HOST and CONSOLE are served, with READ and FIRMWARE (R352). -/
def recoveryServes (p : Port) (op : Nat) : Bool := (p == .host || p == .console) && (op / 4096 == 1 || op / 4096 == 5)

/-- Authority (R35, R266, R352). -/
def authorised (s : State) (m : CmdMsg) : Bool :=
  let op := m.opcode.toNat
  classPermitted m.ctx.port op && (m.ctx.port != .slice || sliceMayRead m.ctx.index.toNat op m.args) &&
    (!s.chk.recovery || recoveryServes m.ctx.port op)

/-! ### Responses (R37, R39) -/

/-- A response message. -/
def responseBytes (op result seq : Nat) (tag : BitVec 64) (data : List Byte) : List Byte :=
  le 2 op ++ le 2 result ++ le 2 data.length ++ le 2 0 ++ le 4 seq ++ le 4 tag.toNat ++ data

/-- A message written into a response area. -/
def writeArea (s : State) (b : Blk) (i : Nat) (m : List Byte) : State :=
  forEach (List.range ((m.length + 3) / 4)) s fun s k => setReg s b i (0x2000 + 4 * k) (numAt m (4 * k) 4)

/-- A response placed in the host's mailbox, or held until RSP_VALID is clear. -/
def hostRespond (s : State) (m : List Byte) : State :=
  if bit (reg s .cmd 0 0x54) 1 || s.cmd.hostHeld != [] then
    { s with cmd := { s.cmd with hostHeld := s.cmd.hostHeld ++ [m] } }
  else setFld (writeArea s .cmd 0 m) .cmd 0x54 1 1 1

/-- The same for a slice's mailbox. -/
def sliceRespond (s : State) (i : Nat) (m : List Byte) : State :=
  if bit (reg s .sw i 0x74) 1 || s.cmd.sliceHeld.any (fun e => e.1 == i) then
    { s with cmd := { s.cmd with sliceHeld := s.cmd.sliceHeld ++ [(i, m)] } }
  else
    let s := writeArea s .sw i m
    setReg s .sw i 0x74 (setBits (reg s .sw i 0x74) 1 1 1)

/-- The tag of an MGMT frame over its first bytes (R34); none when the slot holds no key for it. -/
def mgmtTag (s : State) (body : List Byte) : State × Option (List Byte) :=
  match loadSym s (fld s .cmd 0x4C 0 6) 1 with
  | (s, some k) => (s, some (kmac256 k body 32 (ascii "ASDAR-MGMT")))
  | (s, none) => (s, none)

/-- A response frame, on the port of the command alone (R34); none when its slot holds no key, and the counter, which counts frames
sent, then stands (DEDUCED, assumption 116). -/
def mgmtRespond (s : State) (p : Nat) (r : MgmtReply) (m : List Byte) : State :=
  let (n, _) := nextCounter s
  let body := le 2 2 ++ le 2 0 ++ le 8 n ++ m
  match mgmtTag s body with
  | (s, some t) =>
    let s := (nextCounter s).2
    let w := body ++ t
    let f : Frame :=
      { dst := r.mac, src := portMac s p, vlan := r.vlan, etype := 0x88B5, red := .plain,
        len := frameLen r.vlan.isSome w.length, pdu := .raw w }
    let (vid, pcp) := match r.vlan with
      | some (v, c) => (v.toNat, c.toNat)
      | none => (fldI s .prt p 0x48 0 12, fldI s .prt p 0x48 12 3)
    sendTo s 66 f none vid pcp 4 [{ port := p, pair := pairNum s p }]
  | (s, none) => s

/-- A response sent the way its command came. -/
def respond (s : State) (c : CmdCtx) (m : List Byte) : State :=
  let s := emit s (.response c m)
  match c.port with
  | .host => hostRespond s m
  | .slice => sliceRespond s c.index.toNat m
  | .mgmt => (match c.reply with
    | some r => mgmtRespond s c.index.toNat r m
    | none => s)
  | .partner => linkSend s 1 4 m
  | .console | .debug => s

/-- RSP_VALID cleared by the host: the held response follows. -/
def hostCleared (s : State) : State :=
  match s.cmd.hostHeld with
  | [] => s
  | m :: rest => setFld (writeArea { s with cmd := { s.cmd with hostHeld := rest } } .cmd 0 m) .cmd 0x54 1 1 1

/-- RSP_VALID cleared by a slice. -/
def sliceCleared (s : State) (i : Nat) : State :=
  match s.cmd.sliceHeld.find? fun e => e.1 == i with
  | none => s
  | some (_, m) =>
    let s := { s with cmd := { s.cmd with
      sliceHeld := (s.cmd.sliceHeld.takeWhile fun e => e.1 != i) ++ ((s.cmd.sliceHeld.dropWhile fun e => e.1 != i).drop 1) } }
    let s := writeArea s .sw i m
    setReg s .sw i 0x74 (setBits (reg s .sw i 0x74) 1 1 1)

/-! ### Acceptance (R433) -/

/-- Does the command processor run: its island up and its program started (R352)? -/
def cmdUp (s : State) : Bool := isUp s .security && (s.chk.booted || s.chk.recovery)

/-- A message refused (R38): counted, written as an event, answered without a journal sequence. -/
def refuseMsg (s : State) (m : CmdMsg) (result : Nat) : State :=
  let s := cnt s .cmd 0 (0x60 + 4 * portNum m.ctx.port)
  let s := evt s 0x0410 1 (portClass m.ctx.port + m.ctx.index.toNat * 16) m.opcode.toNat result
  respond s m.ctx (responseBytes m.opcode.toNat result 0 m.ctx.tag [])

/-- Is a port open: its bit of CMD_PORT_EN, debug for DEBUG (R33)? -/
def portOpen (s : State) (p : Port) : Bool := if p = .debug then s.fuse.debug else flag s .cmd 0x40 (portNum p)

/-- The first check of R433 that fails, authentication having been decided; none when the message gets its place. -/
def msgCheck (s : State) (c : CmdCtx) (auth : Bool) (r : RawMsg) : Option Nat :=
  let m : CmdMsg := { ctx := c, opcode := r.opcode, args := r.args }
  if !auth then some rAuthFailed
  else if r.flags ≠ 0 ∨ r.args.length ≠ r.argLen ∨ 4080 < r.argLen ∨ argsFit c.port r.opcode.toNat r.argLen = false then
    some rBadFormat
  else if (opcodeInfo r.opcode.toNat).isNone then some rUnknown
  else if !authorised s m then some rNotAuth
  else if 8 ≤ (s.cmd.queue.filter fun q => q.ctx.port == c.port).length then some rBusy
  else none

/-- Is there a PCIe link: the host port's island up, its reference there, PCIE_PERST_N high (R376, R382, R408)? -/
def hostUp (s : State) : Bool := isUp s .portB && !s.clk.serdes.failed && !s.aon.perst

/-- A message arrives on a port; none of the host without a PCIe link. -/
def arrive (s : State) (c : CmdCtx) (auth : Bool) (r : RawMsg) : State :=
  if !cmdUp s || (c.port == .host && !hostUp s) then s
  else if !portOpen s c.port then emit (cnt s .cmd 0 (0x60 + 4 * portNum c.port)) (.discarded c.port)
  else
    let m : CmdMsg := { ctx := c, opcode := r.opcode, args := r.args, late := s.aon.pf }
    match msgCheck s c auth r with
    | some e => refuseMsg s m e
    | none => { s with cmd := { s.cmd with queue := s.cmd.queue ++ [m] } }

/-- A message from its bytes; a reserved field that is not 0 spoils the header as a flag does. -/
def rawOf (b : List Byte) (args : List Byte) : RawMsg :=
  { opcode := BitVec.ofNat 16 (numAt b 0 2), flags := BitVec.ofNat 16 (Nat.lor (numAt b 2 2) (numAt b 6 2)), argLen := numAt b 4 2,
    tag := BitVec.ofNat 64 (numAt b 8 8), args := args }

/-- The message in a request area. -/
def areaMsg (s : State) (b : Blk) (i : Nat) : RawMsg :=
  let w := ((List.range 1024).map fun k => le 4 (reg s b i (0x1000 + 4 * k))).flatten
  rawOf w (slice w 16 (min (numAt w 4 2) 4080))

/-- GO of the host's mailbox. -/
def mbxGo (s : State) : State :=
  let m := areaMsg s .cmd 0
  arrive s { port := .host, index := 0, tag := m.tag } true m

/-- GO of a slice's mailbox. -/
def sliceGo (s : State) (i : Nat) : State :=
  let m := areaMsg s .sw i
  arrive s { port := .slice, index := BitVec.ofNat 8 i, tag := m.tag } true m

/-- The counter check of R34 and the table after it. -/
def mgmtCounter (s : State) (mac : Mac) (n : Nat) : State × Bool :=
  match s.nv.mgmt.find? fun e => e.1 == mac with
  | some e =>
    if e.2.toNat < n then
      (mgmtStore { s with nv := { s.nv with
        mgmt := s.nv.mgmt.map fun x => if x.1 = mac then (mac, BitVec.ofNat 64 n) else x } }, true)
    else (s, false)
  | none =>
    if s.nv.mgmt.length < 256 then
      (mgmtStore { s with nv := { s.nv with mgmt := s.nv.mgmt ++ [(mac, BitVec.ofNat 64 n)] } }, true)
    else (s, false)

/-- An MGMT command frame from switch port `p` at internal port 66 (R34). The tag is looked for where the header's argument length puts
it, and reserved bytes 2 and 3 are not looked at (DEDUCED, assumption 114). -/
def mgmtFrame (s : State) (p : Nat) (f : Frame) : State :=
  match f.pdu with
  | .raw b =>
    if f.etype ≠ 0x88B5 ∨ numAt b 0 2 ≠ 1 ∨ !isMgmtPort s p ∨ !cmdUp s then s
    else
      let n := 12 + 16 + numAt b 16 2
      let m := rawOf (b.drop 12) (slice b 28 (min (numAt b 16 2) (b.length - 28)))
      let c : CmdCtx := { port := .mgmt, index := BitVec.ofNat 8 p, tag := m.tag, reply := some { mac := f.src, vlan := f.vlan } }
      if !portOpen s .mgmt then arrive s c true m
      else
        match mgmtTag s (b.take n) with
        | (s, some t) =>
          if b.drop n = t then
            let (s, ok) := mgmtCounter s f.src (numAt b 4 8)
            arrive s c ok m
          else arrive s c false m
        | (s, none) => arrive s c false m
  | _ => s

/-! ### Rows -/

def execConsoleMessage (m : RawMsg) (s : State) : Host.Outcome State Fault Refusal :=
  runOn (fun s => arrive s { port := .console, index := 0, tag := m.tag } true m) s

def execDebugMessage (m : RawMsg) (s : State) : Host.Outcome State Fault Refusal :=
  runOn (fun s => arrive s { port := .debug, index := 0, tag := m.tag } true m) s

def execMgmtFrame (p : Fin 64) (f : Frame) (s : State) : Host.Outcome State Fault Refusal := runOn (fun s => mgmtFrame s p.val f) s

end Sys2Proof.Machine
end

