-- ==== Sys2Proof/Machine/Bus.lean ====
section
/-!
DEFINITION. Register accesses: which word an address names (R23, R26), the write through the clamp rule with everything
that a write sets off (R29 to R32), and the read with its clears and latches.
-/

namespace Sys2Proof.Machine

/-! ### Addresses -/

/-- Block, page and offset of an address of the register map. -/
def wordAt (a : Nat) : Option (Blk × Nat × Nat) :=
  if 0x40000000 ≤ a ∧ a < 0x41500000 then
    match Blk.ofCode ((a - 0x40000000) / 0x100000 + 1) with
    | some .prt =>
      let o := a - 0x40400000
      if o < 0x40000 then some (.prt, o / 0x1000, o % 0x1000) else none
    | some b => some (b, 0, a % 0x100000)
    | none => none
  else if 0x48000000 ≤ a ∧ a < 0x48400000 then some (.sw, (a - 0x48000000) / 0x10000, a % 0x10000)
  else none

/-- Does an access end with an error response (R15, R26)? The page of a unit that is fused off answers as R3 says, whatever its
island does (assumption 99); the decision words and inputs of a slice's window stand in the Real-time island. -/
def accessErr (s : State) (b : Blk) (i o : Nat) : Bool :=
  decide (b.insts ≤ i) || decide (o % 4 ≠ 0) || (!fusedOff s b i && (isDown s (b.island i) || (fieldsOf b o).isEmpty)) ||
    (b == .sw && decide (0x800 ≤ o) && decide (o ≤ 0xA00) && isDown s .rt)

/-! ### The fields of a write (R29, R32) -/

/-- A field that a write clamped, or that a lock kept: lowest bit, width, reason, value written, value applied. -/
structure ClampEnt where
  lsb : Nat
  w : Nat
  reason : Nat
  value : Nat
  applied : Nat
  deriving DecidableEq, Repr

/-- A word being written: the new word, clamped fields, locked fields that would change, whether a field was writable, was
written, was locked at the value given, or stands in a state that refuses it. -/
structure WordW where
  new : Nat
  clamps : List ClampEnt
  locks : List ClampEnt
  any : Bool
  wrote : Bool
  same : Bool
  refused : Bool
  deriving DecidableEq, Repr

/-- Is a field written in the slice group while its slice is not FREE (R284)? -/
def groupOpen (s : State) (o lsb : Nat) : Bool :=
  if o < 0x1000 then true
  else
    let x := slOf s ((o - 0x1000) / 0x80)
    let k := (o - 0x1000) % 0x80
    x.state == .free || (k == 0 && (lsb == 0 || lsb == 4)) || k == 0x30 || k == 0x34 || k == 0x38 || k == 0x64 ||
      (decide (0x48 ≤ k) && decide (k < 0x64) && !x.log)

/-- Does the state keep a field as it is, without a clamp: a bank in use or fading (R149, R150), a slice that is not FREE
(R284)? A command that carried the write ends with STATE. -/
def fieldRefused (s : State) (b : Blk) (o lsb old v : Nat) : Bool :=
  match b with
  | .acq => bankBlocked s o ||
      (decide (0x100 ≤ o) && decide (o < 0x700) && (o - 0x100) % 0x40 == 0 && lsb == 2 && old != v &&
        (acOf s ((o - 0x100) / 0x40)).fade.isSome)
  | .slc => !groupOpen s o lsb
  | _ => false

/-- Does BUSY of the forwarding table keep its access registers as they are (R115)? -/
def fieldKept (s : State) (b : Blk) (o : Nat) : Bool := b == .swc && s.swc.fdbBusy && decide (0x100 ≤ o) && decide (o < 0x110)

/-- One field of the word (R32). -/
def fieldStep (s : State) (b : Blk) (i o old mask value : Nat) (locked : Bool) (x : WordW) (f : Fld) : WordW :=
  if !f.writable || getBits mask f.lsb f.w = 0 then x
  else
    let was := getBits old f.lsb f.w
    let given := Nat.lor (Nat.land was (getBits (Nat.xor mask 0xFFFFFFFF) f.lsb f.w)) (getBits (Nat.land value mask) f.lsb f.w)
    let x := { x with any := true }
    if fieldRefused s b o f.lsb was given then { x with refused := true }
    else if fieldKept s b o then { x with wrote := true }
    else if f.acc = .rwl ∧ locked then
      if given = was ∨ o = 0x28 then { x with same := true }
      else { x with locks := x.locks ++ [⟨f.lsb, f.w, 6, given, was⟩] }
    else if f.acc = .w1c then
      { x with new := setBits x.new f.lsb f.w (Nat.land was (Nat.xor (getBits (Nat.land value mask) f.lsb f.w) (2 ^ f.w - 1))),
               wrote := true }
    else
      let g := rangeOf s b i o f (setBits x.new f.lsb f.w given) given
      let a := clampVal f.w g given
      let a := if o = 0x28 ∧ was = 1 then 1 else a
      { x with
        new := setBits x.new f.lsb f.w a, wrote := true,
        clamps := if a ≠ given ∧ o ≠ 0x28 then x.clamps ++ [⟨f.lsb, f.w, clampReason f.w g given, given, a⟩] else x.clamps }

/-- Where a write names a travelling-wave channel on a BFA-6440-S, COND is written with it, as it stands or as given: it is then
clamped to disabled and reported (R4, R226). -/
def condMask (s : State) (b : Blk) (o mask merged : Nat) : Nat :=
  if b = .gge ∧ s.fuse.variant = .s ∧ 0x1000 ≤ o ∧ o % 0x20 = 0 ∧ getBits mask 4 2 ≠ 0 ∧ getBits merged 4 2 = 1 then
    Nat.lor mask 7
  else mask

/-- The fields of a write one after the other (R32). A write that meets no lock that would change a field has written the
fields that it leaves (R29, R41). -/
def wordStep (s : State) (b : Blk) (i o mask value : Nat) : WordW :=
  let old := (statusWord s b i o).getD (reg s b i o)
  let merged := Nat.lor (Nat.land old (Nat.xor mask 0xFFFFFFFF)) (Nat.land value mask)
  let value := if condMask s b o mask merged = mask then value else merged
  let mask := condMask s b o mask merged
  let fs := fieldsAt s b o
  let start := fs.foldl (fun w f =>
    if f.writable && f.acc != .w1c && getBits mask f.lsb f.w != 0 && !(f.acc == .rwl && bit (reg s b i 0x28) 0) &&
      !fieldRefused s b o f.lsb (getBits old f.lsb f.w) (getBits merged f.lsb f.w) && !fieldKept s b o then
      setBits w f.lsb f.w (getBits merged f.lsb f.w) else w) old
  let x := fs.foldl (fieldStep s b i o old mask value (bit (reg s b i 0x28) 0))
    { new := start, clamps := [], locks := [], any := false, wrote := false, same := false, refused := false }
  { x with wrote := x.wrote || (x.same && x.locks.isEmpty) }

/-! ### Reports of a clamp -/

def clampOne (s : State) (b : Blk) (i o : Nat) (rep : Bool) (e : ClampEnt) : State :=
  let s := cnt s b i 0x1C
  let s := setReg (setReg s b i 0x20 (e.lsb * 2 ^ 24 + o)) b i 0x24 e.value
  if rep then evt (irqI s b i 0) (b.code * 256 + 1) 1 i e.lsb (e.value + o * 2 ^ 32) else s

def ownerWord (q : Requester) : Nat :=
  (match q.cls with
   | .none => 0 | .host => 1 | .mgmt => 2 | .console => 3 | .partner => 4 | .slice => 5 | .debug => 6 | .internal => 7) +
    q.index.toNat * 16

/-! ### What a write sets off -/

/-- RC counters of a page at their reset values, the clamp count apart. -/
def clearCounters (s : State) (b : Blk) (i : Nat) : State :=
  clearRegs s fun k => match keyIn b i k with
    | some o => decide (0x40 ≤ o) && (fieldsOf b o).any fun f => f.acc == .rc
    | none => false

/-- SOFT_RST of a block (R430 and the chapters; assumption 43). A port's bit falls when its flush has ended. -/
def softReset (s : State) (b : Blk) (i : Nat) : State :=
  match b with
  | .prt =>
    let m : BitVec 64 := BitVec.ofNat 64 (2 ^ i)
    let s := portDown { s with ports := { s.ports with softRst := s.ports.softRst ||| m } } i
    if s.ports.flushing.toNat.testBit i then s else flushEnd s i
  | .swc => setFld (swcSoftReset s) .swc 8 1 1 0
  | .svs => setFld (svsSoftReset s) .svs 8 1 1 0
  | .dec => setFld (decSoftReset s) .dec 8 1 1 0
  | .acq => setFld (acqStep (clearCounters s .acq i)) .acq 8 1 1 0
  | .phx =>
    let s := { s with phx := { s.phx with since := s.phx.setK + 1, sinceM := s.phx.setK + 1, hwin := [], hdone := [],
                                          hnext := [], hfrom := s.tim.grains + 1 } }
    setFld (clearCounters s .phx i) .phx 8 1 1 0
  | .twv => setFld (twvStep (clearCounters s .twv i)) .twv 8 1 1 0
  | .tim => setFld (clearCounters { s with tim := { s.tim with tsq := [] } } .tim i) .tim 8 1 1 0
  | .cmd => setFld (clearCounters { s with cmd := { s.cmd with queue := [] } } .cmd i) .cmd 8 1 1 0
  | b => let s := clearCounters s b i; setReg s b i 8 (setBits (reg s b i 8) 1 1 0)

/-- The link state of the internal ports as it now is: a port that fell is flushed, a change is an interrupt (R15, R117). -/
def ipSettle (s : State) : State :=
  forEach (List.range 4) s fun s k =>
    let p := 64 + k
    let was := s.swc.ipLink.toNat.testBit k
    let now := ipUp s p
    if was = now then s
    else
      let m : BitVec 4 := BitVec.ofNat 4 (2 ^ k)
      let s := { s with swc := { s.swc with ipLink := if now then s.swc.ipLink ||| m else s.swc.ipLink &&& ~~~m } }
      let s :=
        if now || isDown s .switch then s
        else
          let n := ((s.swc.copies ++ s.ports.tx).filter fun c => c.port == p).length
          dropCopies (flushCnt s p n) fun c => c.port == p
      if isDown s .switch then s else irq s .swc 7

/-- Queues of a port whose bits in Q_EN fell (R80): frames held there are flushed; the frame in transmission ends.
Neither FLUSHING nor PG_IRQ_RAW bit 3 rises (DEDUCED, assumption 119). -/
def queuesOff (s : State) (p old new : Nat) : State :=
  let off (c : Copy) : Bool := c.port == p && bit old c.queue && !bit new c.queue
  let n := (s.swc.copies.filter off).length
  if n = 0 then s
  else release { flushCnt s p n with swc := { (flushCnt s p n).swc with copies := s.swc.copies.filter fun c => !off c } }

def prtWritten (s : State) (p o old : Nat) : State :=
  let new := reg s .prt p o
  if o = 8 then (if bit old 0 && !bit new 0 then portDown s p else s)
  else if o = 0x40 then (if old % 64 = new % 64 then s else portDown s p)
  else if o = 0x60 then queuesOff s p old new
  else s

/-- GO of a table's command register: the operation, unless the table is busy; GO reads 0. -/
def tableGo (s : State) (b : Blk) (o ones : Nat) (busy : Bool) (op : State → State) : State :=
  let s := setFld s b o 31 1 0
  if bit ones 31 && !busy then op s else s

def swcWritten (s : State) (o old ones : Nat) : State :=
  let op := reg s .swc 0 o
  if o = 8 then ipSettle s
  else if o = 0x10C then tableGo s .swc o ones s.swc.fdbBusy fun s => fdbOp s (getBits op 0 3) (getBits op 8 7)
  else if o = 0x160 then tableGo s .swc o ones s.swc.clsBusy fun s => clsOp s (getBits op 0 2)
  else if o = 0x190 then tableGo s .swc o ones s.swc.grpBusy fun s => grpOp s (getBits op 0 2)
  else if 0x9000 ≤ o ∧ o < 0x9040 then
    (if bit old 31 && old != op then pairRestart s ((o - 0x9000) / 4) else s)
  else s

def svsWritten (s : State) (o mask ones : Nat) : State :=
  let v := reg s .svs 0 o
  if o = 0xA4 then tableGo s .svs o ones false fun s => subOp s (getBits v 0 2)
  else if o = 0x10C ∧ bit ones 0 ∧ bit mask 0 then ringEnable s false (fld s .svs 0x100 0 6)
  else if o = 0x11C ∧ bit ones 0 ∧ bit mask 0 then ringEnable s true (fld s .svs 0x100 0 6)
  else s

def cmdWritten (s : State) (o old ones : Nat) : State :=
  if o = 0x4C then mgmtSlotSet s (fld s .cmd 0x4C 0 6)
  else if o = 0x50 then
    let s := setReg s .cmd 0 0x50 0
    if bit ones 0 then mbxGo s else s
  else if o = 0x54 then (if bit ones 1 && bit old 1 then hostCleared s else s)
  else s

/-- Does SLC_RESTORE have the slice? -/
def restoring (s : State) (i : Nat) : Bool := s.cmd.bg.any fun b => b.slice == i && match b.kind with
  | .restore .. => true
  | _ => false

/-- After a write to SLC; the flag says that the operation was not legal in the slice's state. -/
def slcWritten (s : State) (o old mask ones : Nat) : State × Bool :=
  if o < 0x1000 then (s, false)
  else
    let i := (o - 0x1000) / 0x80
    let k := (o - 0x1000) % 0x80
    let new := slReg s i k
    let pend (s : State) : State := setSl s i { slOf s i with pend := true }
    if k = 0 then
      let s := if bit mask 4 then pend s else s
      (if !bit old 0 && bit new 0 then sliceEnable s i else s, false)
    else if k = 0x30 ∨ k = 0x34 ∨ k = 0x38 then (pend s, false)
    else if k = 0x64 then
      let s := setReg s .slc 0 o (setBits new 31 1 0)
      if bit ones 31 then
        match sliceOp s i (getBits new 0 4) (restoring s i) with
        | some t => (t, false)
        | none => (s, true)
      else (s, false)
    else (s, false)

/-- After a write to a slice window. -/
def swWritten (s : State) (i o old ones : Nat) : State :=
  let v := reg s .sw i o
  if o = 0x44 then doorbell s i (BitVec.ofNat 16 v)
  else if o = 0x54 then cqHeadWrite s i (BitVec.ofNat 16 v)
  else if o = 0x5C then setSl s i { slOf s i with rqTail := BitVec.ofNat 16 v }
  else if o = 0x70 then
    let s := setReg s .sw i 0x70 0
    if bit ones 0 then sliceGo s i else s
  else if o = 0x74 then (if bit ones 1 && bit old 1 then sliceCleared s i else s)
  else if 0x800 ≤ o ∧ o < 0xA00 then dwStore s i ((o - 0x800) / 16) (o % 16 / 4) v
  else s

/-- Everything a write sets off in its block; the flag says that the state refused it. -/
def afterWrite (s : State) (b : Blk) (i o old mask ones : Nat) : State × Bool :=
  let s := if o = 8 ∧ bit ones 1 then softReset s b i else s
  match b with
  | .clk => (if o = 0x90 then { s with clk := { s.clk with seenCause := BitVec.ofNat 8 (reg s .clk 0 o) } } else s, false)
  | .tim => (timWritten s o old, false)
  | .cmd => (cmdWritten s o old ones, false)
  | .prt => (prtWritten s i o old, false)
  | .swc => (swcWritten s o old ones, false)
  | .svs => (svsWritten s o mask ones, false)
  | .acq => (acqWritten s o old, false)
  | .phx =>
    if o = 8 then (if !bit old 0 && enabled s .phx then { s with phx := { s.phx with
                    todo := 0, hwin := [], hnext := [], hfrom := s.tim.grains + 1 } } else s, false)
    else if o = 0x190 then
      let op := reg s .phx 0 o
      (tableGo s .phx o ones s.phx.grpBusy fun s => mtCheckAll (phxGrpOp s (getBits op 0 2)), false)
    else
      let s := phxWritten s o old mask
      (if o = 0x1C4 then mtCheckAll s else s, false)
  | .nrg => (nrgWritten s o old mask, false)
  | .twv => (twvWritten s o old mask, false)
  | .gge => (ggeWritten s o old, false)
  | .dec => (decWritten s o old ones, false)
  | .apc => (iommuWritten s o, false)
  | .slc => slcWritten s o old mask ones
  | .spn => (spnWritten s o, false)
  | .chk => (chkWritten s o ones, false)
  | .sw => (swWritten s i o old ones, false)
  | .aon | .sfi | .rdn | .evr | .mem => (s, false)

/-! ### The write (R32) -/

/-- What became of a write. -/
structure WrRes where
  st : State
  err : Bool
  absent : Bool
  field : Bool
  wrote : Bool
  refused : Bool
  clamps : List ClampEnt
  locks : List ClampEnt

def WrRes.none (s : State) (err absent : Bool) : WrRes :=
  { st := s, err := err, absent := absent, field := false, wrote := false, refused := false, clamps := [], locks := [] }

/-- Is a write to a slice's window an access fault: the window closed (R264, R273), or a word that the slice does not own
(R243)? -/
def windowFault (s : State) (i o : Nat) : Bool :=
  (windowClosed (slOf s i) && !((slOf s i).state == .parting && o == 0x18)) ||
    (decide (0x800 ≤ o) && decide (o < 0xA00) && (isDown s .rt || wordOwner s ((o - 0x800) / 16) != i))

/-- A write of `mask` and `value` to a word. A doorbell of a closed window is refused (R268). -/
def busWrite (s : State) (q : Requester) (b : Blk) (i o mask value : Nat) : WrRes :=
  if accessErr s b i o then WrRes.none s true false
  else if fusedOff s b i then WrRes.none s false true
  else if b = .sw ∧ windowFault s i o then
    WrRes.none (if windowClosed (slOf s i) then
        (if o = 0x44 then doorbell s i (BitVec.ofNat 16 value) else emit s (.accessFault i (b.base i + o)))
      else dwStore s i ((o - 0x800) / 16) (o % 16 / 4) value) true false
  else
    let old := (statusWord s b i o).getD (reg s b i o)
    let rep := bit (reg s b i 8) 2
    let x := wordStep s b i o mask value
    let s := if b = .acq ∧ x.refused ∧ bankBlocked s o then bankRefused s else s
    if !x.any then WrRes.none s false false
    else
      let s := forEach x.clamps s fun s e => clampOne s b i o rep e
      let s := if x.wrote then setReg s b i o x.new else s
      let s := setReg s b i 0x2C (ownerWord q)
      let (s, bad) := if x.wrote then afterWrite s b i o old mask (Nat.land value mask) else (s, false)
      let s := if (fieldsOf b o).any fun f => f.acc == .wo then setReg s b i o 0 else s
      { st := s, err := false, absent := false, field := true, wrote := x.wrote, refused := x.refused || bad, clamps := x.clamps,
        locks := x.locks }

/-! ### The read -/

/-- A 64-bit value latched by the read of its low word (R69, R403, R434, R95, R360). -/
def latchHi (s : State) (b : Blk) (i : Nat) (his : List Nat) : State :=
  { s with latch := his.foldl (fun l h => putK l (b.base i + h) (BitVec.ofNat 32 (peekWord s b i h))) s.latch }

/-- The high words that a read of a low word latches. -/
def latches (b : Blk) (o : Nat) : List Nat :=
  match b, o with
  | .tim, 0x88 => [0x8C]
  | .tim, 0xC0 => [0xC4, 0xC8, 0xCC]
  | .aon, 0xA0 => [0xA4]
  | .cmd, 0x78 => [0x7C]
  | .chk, 0x84 => [0x88]
  | .prt, 0x104 => [0x108]
  | .prt, 0x154 => [0x158]
  | _, _ => []

/-- Is a word one that a read of another latches? -/
def latched (b : Blk) (o : Nat) : Bool :=
  match b with
  | .tim => o == 0x8C || o == 0xC4 || o == 0xC8 || o == 0xCC
  | .aon => o == 0xA4
  | .cmd => o == 0x7C
  | .chk => o == 0x88
  | .prt => o == 0x108 || o == 0x158
  | _ => false

/-- The word that a read gives: the one latched by the read of its low word, or the present one where none was latched since
the reset of its island (assumption 99). -/
def latchedWord (s : State) (b : Blk) (i o : Nat) : Nat :=
  if latched b o then ((findK s.latch (b.base i + o)).map fun w => w.toNat).getD (peekWord s b i o) else peekWord s b i o

/-- What a read leaves: an RC word at its reset value, a 64-bit count at 0, the stamp of PPS_IN read (R8, R66,
R95). -/
def readEffect (s : State) (b : Blk) (i o : Nat) : State :=
  if b = .prt ∧ (o = 0x104 ∨ o = 0x154) then setReg2 s .prt i o 0
  else if latched b o then s
  else if b = .tim ∧ o = 0xC0 then { s with tim := { s.tim with ppsUnread := false } }
  else if (fieldsOf b o).any fun f => f.acc == .rc then setReg s b i o (resetWord b i o)
  else s

/-- A read of a word: the state after it, and the word when the access is not an error. -/
def busRead (s : State) (b : Blk) (i o : Nat) : State × Option Nat :=
  if accessErr s b i o then (s, none)
  else if fusedOff s b i then (s, some (peekWord s b i o))
  else
    let v := latchedWord s b i o
    let s := if latches b o = [] then s else latchHi s b i (latches b o)
    (readEffect s b i o, some v)

end Sys2Proof.Machine
end

