-- ==== Sys2Proof/Machine/Image.lean ====
section
/-!
DEFINITION. The image pool of the configuration store (R42) and the application of a configuration image (R40, R41) with
its clamp report (R43).
-/

namespace Sys2Proof.Machine

/-! ### The image pool (R42) -/

def poolBase : Nat := 0x50020000

/-- Its pages of 4 KiB. -/
def poolPages : Nat := 992

def imgPages (n : Nat) : Nat := (n + 4095) / 4096

/-- First page and pages of an image held. -/
def refSpan (r : ImageRef) : Nat × Nat := ((r.addr - poolBase) / 4096, imgPages r.len)

/-- Are `n` pages from page `p` free beside the images held? -/
def runFree (used : List (Nat × Nat)) (n p : Nat) : Bool :=
  decide (p + n ≤ poolPages) && used.all fun u => decide (u.1 + u.2 ≤ p) || decide (p + n ≤ u.1)

/-- The lowest free run of `n` pages. -/
def poolRun (used : List (Nat × Nat)) (n : Nat) : Option Nat :=
  ((0 :: used.map fun u => u.1 + u.2).filter (runFree used n)).min?

/-- An image reference put into its place by address. -/
def insertRef (r : ImageRef) : List ImageRef → List ImageRef
  | [] => [r]
  | x :: l => if r.addr ≤ x.addr then r :: x :: l else x :: insertRef r l

/-- Where each image goes when the pool is closed up. -/
def packMoves : (p : Nat) → List ImageRef → List (ImageRef × Nat)
  | _, [] => []
  | p, r :: l => (r, poolBase + p * 4096) :: packMoves (p + imgPages r.len) l

def refMoved (m : List (ImageRef × Nat)) (o : Option ImageRef) : Option ImageRef :=
  o.map fun r => match m.find? fun x => x.1 == r with
    | some x => { r with addr := x.2 }
    | none => r

/-- The images held closed up, when the free pages are enough and no run is (assumption 44). -/
def poolPack (s : State) (l : List ImageRef) : State :=
  let m := packMoves 0 (l.foldr insertRef [])
  let s := forEach m s fun s x => wrBytes s x.2 (rdBytes s x.1.addr x.1.len)
  { s with
    nv := { s.nv with cfg := refMoved m s.nv.cfg, spn := refMoved m s.nv.spn, spnPend := refMoved m s.nv.spnPend },
    spn := { s.spn with cur := refMoved m s.spn.cur } }

/-- A place for an image of `n` bytes beside the images listed; none when it does not fit. -/
def poolPlace (s : State) (held : List (Option ImageRef)) (n : Nat) : Option (State × ImageRef) :=
  let l := (held.filterMap id).eraseDups
  let used := l.map refSpan
  let total := used.foldl (fun a u => a + u.2) 0
  if poolPages < total + imgPages n then none
  else
    match poolRun used (imgPages n) with
    | some p => some (s, { addr := poolBase + p * 4096, len := n })
    | none => some (poolPack s l, { addr := poolBase + total * 4096, len := n })

/-! ### Records (R41, R43) -/

/-- The clamp report as it grows: counts, entries made, and the entries stored, newest first. -/
structure Report where
  applied : Nat
  clamped : Nat
  skipped : Nat
  total : Nat
  entries : List (List Byte)

def repEntry (k code inst off lsb w reason written applied : Nat) : List Byte :=
  le 4 k ++ le 2 code ++ le 2 inst ++ le 4 off ++ le 1 lsb ++ le 1 w ++ le 1 reason ++ le 1 0 ++ le 4 written ++ le 4 applied

def Report.add (r : Report) (e : List Byte) : Report :=
  { r with total := r.total + 1, entries := if r.entries.length < 4096 then e :: r.entries else r.entries }

/-- A record of an image: block code, instance, offset, mask, value. -/
structure CfgRec where
  code : Nat
  inst : Nat
  off : Nat
  mask : Nat
  value : Nat

def cfgRec (b : List Byte) : CfgRec :=
  { code := numAt b 0 2, inst := numAt b 2 2, off := numAt b 4 4, mask := numAt b 8 4, value := numAt b 12 4 }

/-- Record `k` applied (R41). -/
def applyRecord (q : Requester) (k : Nat) (c : CfgRec) (s : State) (r : Report) : State × Report :=
  let whole (s : State) (reason v : Nat) : State × Report :=
    (s, { r with skipped := r.skipped + 1 }.add (repEntry k c.code c.inst c.off 0 32 reason c.value v))
  match Blk.ofCode c.code with
  | none => whole s 8 0
  | some b =>
    if b.insts ≤ c.inst ∨ c.off % 4 ≠ 0 ∨ b.size ≤ c.off then whole s 8 0
    else if fusedOff s b c.inst then whole s 7 (peekWord s b c.inst c.off)
    else if (fieldsOf b c.off).isEmpty ∨ (0x30 ≤ c.off ∧ c.off < 0x40) then whole s 8 0
    else if isDown s (b.island c.inst) then whole s 9 0
    else
      let s := if b = .swc ∧ s.swc.fdbBusy then fdbDone s else s
      let w := busWrite s q b c.inst c.off c.mask c.value
      if w.err then whole w.st 8 0
      else if !w.field then whole w.st 5 (peekWord s b c.inst c.off)
      else
        let r : Report := if w.wrote then { r with applied := r.applied + 1 } else { r with skipped := r.skipped + 1 }
        let r := { r with clamped := r.clamped + w.clamps.length }
        (w.st, (w.clamps ++ w.locks).foldl
          (fun r e => r.add (repEntry k c.code c.inst c.off e.lsb e.w e.reason e.value e.applied)) r)

/-- The records in image order. -/
def applyRecords (q : Requester) : (k : Nat) → List (List Byte) → State → Report → State × Report
  | _, [], s, r => (s, r)
  | k, b :: l, s, r => let (s, r) := applyRecord q k (cfgRec b) s r; applyRecords q (k + 1) l s r

/-- The list cut into pieces of 16 bytes. -/
def cut16 : (fuel : Nat) → List Byte → List (List Byte)
  | 0, _ => []
  | f + 1, l => if l = [] then [] else l.take 16 :: cut16 f (l.drop 16)

def imgCount (img : List Byte) : Nat := numAt img 12 4

def imgRecords (img : List Byte) : List (List Byte) := cut16 (imgCount img) (slice img 64 (16 * imgCount img))

/-- The report written into the configuration store (R43). -/
def writeReport (s : State) (serial : Nat) (r : Report) : State :=
  let kept := r.entries.length
  wrBytes s 0x50002000
    (le 4 serial ++ le 4 r.applied ++ le 4 r.clamped ++ le 4 r.skipped ++ le 4 (ofBit (decide (kept < r.total)) 0) ++ le 4 kept ++
      le 8 (nowSec s) ++ r.entries.reverse.flatten)

/-- Steps 3 and 4 of R41, with the copy of BO_SAFE into the AON latch (R247); the flag says that the report holds an entry. -/
def applyImage (s : State) (q : Requester) (img : List Byte) : State × Bool :=
  let (s, r) := applyRecords q 0 (imgRecords img) s { applied := 0, clamped := 0, skipped := 0, total := 0, entries := [] }
  let serial := numAt img 20 4
  let s := writeReport s serial r
  let s := extend s 3 img
  let s := if isUp s .rt then boLatch s else s
  (evt s 0x0411 0 0 0 (serial + r.clamped * 2 ^ 32), r.total != 0)

/-- The committed image's records of an island again, at the release of its reset (R41, R400, R401). -/
def reapply (s : State) (i : Island) : State :=
  match s.nv.cfg with
  | none => s
  | some r =>
    if s.chk.recovery || blank s then s
    else
      let img := rdBytes s r.addr r.len
      let mine := (imgRecords img).filter fun b =>
        match Blk.ofCode (numAt b 0 2) with
        | some k => k.island (numAt b 2 2) == i
        | none => false
      let s := (applyRecords { cls := .internal, index := 4 } 0 mine s
        { applied := 0, clamped := 0, skipped := 0, total := 0, entries := [] }).1
      if i = .rt then boLatch s else s

/-- The module leaves the blank state (R10); Spindle starts (R300). -/
def leaveBlank (s : State) : State :=
  if s.chk.recovery || !blank s then s
  else spnStart (decRefresh { s with aon := { s.aon with blankLeft := true } })

/-! ### CFG_APPLY -/

/-- The form of an image, signature, variant and digest apart (R41). -/
def cfgForm (s : State) (addr len : Nat) : Bool :=
  let h := rdBytes s addr 64
  let n := numAt h 12 4
  decide (64 + sigLen ≤ len) && numAt h 0 4 == 0x49474643 && numAt h 4 2 == 1 && numAt h 6 2 == 0 && decide (1 ≤ n) &&
    decide (n ≤ 120000) && numAt h 8 4 == len && len == 64 + 16 * n + sigLen

def cfgApply (s : State) (q : Requester) (addr len : Nat) : Res :=
  if !cfgForm s addr len then (s, rFailed, [])
  else
    let img := rdBytes s addr len
    let (s, key) := verifyKey s (fld s .chk 0x44 0 2)
    if !sigOk key img then (verifyFailed s, rSignature, [])
    else if !variantOk s (numAt img 16 4) then (s, rVariant, [])
    else if slice img 32 32 ≠ shake256 (slice img 64 (16 * imgCount img)) 32 then (s, rFailed, [])
    else
      match poolPlace s [s.nv.cfg, s.nv.spn, s.nv.spnPend] len with
      | none => (s, rFailed, [])
      | some (s, r) =>
        let s := wrBytes s r.addr img
        let s := { s with nv := { s.nv with cfg := some r } }
        let (s, any) := applyImage s q img
        (leaveBlank s, if any then rClamped else rOk, [])

/-- SPN_LOAD (R286, R289): the image takes the place of a pending one. -/
def spnLoad (s : State) (addr len : Nat) : Res :=
  let img := rdBytes s addr (min len 0x100001)
  if switchOpen s then (s, rState, [])
  else if !spnImageForm img then (s, rFailed, [])
  else
    let (s, key) := verifyKey s (fld s .chk 0x44 4 2)
    if !sigOk key img then (verifyFailed s, rSignature, [])
    else if !variantOk s (imgW img 12) then (s, rVariant, [])
    else if !spnDigestOk img then (s, rFailed, [])
    else
      match poolPlace s [s.nv.cfg, s.nv.spn] len with
      | none => (s, rFailed, [])
      | some (s, r) =>
        let s := wrBytes s r.addr img
        ({ s with nv := { s.nv with spnPend := some r } }, rOk, [])

/-- SPN_DISCARD. -/
def spnDiscard (s : State) : Res :=
  if switchOpen s || s.nv.spnPend.isNone then (s, rState, []) else ({ s with nv := { s.nv with spnPend := none } }, rOk, [])

end Sys2Proof.Machine
end

