-- ==== Sys2Proof/Machine/Reset.lean ====
section
/-!
DEFINITION. Resets and starts (R384 to R402): what an island loses at its reset and regains at its release, the module
resets, power-on, deep sleep, and the start.
-/

namespace Sys2Proof.Machine

/-! ### The journal's entries (R44, R45) -/

def jnlAddr (seq : Nat) : Nat := 0x50510000 + (seq - 1) % 4096 * 32

/-- The entry with another result. -/
def jnlWith (b : List Byte) (result : Nat) : List Byte := withCrc (b.take 24 ++ le 2 result ++ slice b 26 2)

/-- Every entry still IN_PROGRESS becomes INTERRUPTED; the restart count goes up. -/
def jnlInterrupt (s : State) : State :=
  let s := forEach (List.range s.nv.jnlCount) s fun s k =>
    let a := 0x50510000 + (s.nv.jnlNewest + 4095 - k) % 4096 * 32
    let b := rdBytes s a 32
    if numAt b 24 2 = rProgress ∧ crcOk b then wrBytes s a (jnlWith b rInterrupted) else s
  { s with
    nv := { s.nv with restartCount := s.nv.restartCount + 1 },
    cmd := { s.cmd with exec := none, bg := s.cmd.bg.map fun x => { x with live := false } } }

/-! ### Islands -/

def setHeld (s : State) (i : Island) (v : Bool) : State :=
  let m : BitVec 13 := BitVec.ofNat 13 (2 ^ islNum i)
  { s with aon := { s.aon with inReset := if v then s.aon.inReset ||| m else s.aon.inReset &&& ~~~m } }

/-- The register pages of an island that take their reset values at its reset (R400); those of TIM keep theirs (R69). -/
def islandPages : Island → List (Blk × Nat)
  | .aon | .time => []
  | .portA => (List.range 32).map fun p => (.prt, p)
  | .portB => (List.range 32).map fun p => (.prt, 32 + p)
  | .switch => [(.swc, 0)]
  | .stream => [(.svs, 0)]
  | .acq => [(.acq, 0), (.twv, 0), (.gge, 0)]
  | .phasor => [(.phx, 0), (.nrg, 0)]
  | .app => [(.apc, 0), (.slc, 0)] ++ (List.range 64).map fun i => (.sw, i)
  | .rt => [(.dec, 0), (.spn, 0), (.rdn, 0)]
  | .safety => [(.sfi, 0)]
  | .security => [(.chk, 0), (.cmd, 0)]
  | .memory => [(.evr, 0), (.mem, 0)]

/-- The saves and flushes that a reset of the island waits for (R197, R299, R364, R385). -/
def resetSaves (s : State) (i : Island) : State :=
  match i with
  | .phasor => if nrgOn s then energySave s 2 else s
  | .rt => spnFlush s
  | .memory => evrFlush s
  | _ => s

/-- External ports of an island go down and forget what they held. -/
def portsReset (s : State) (lo : Nat) : State :=
  let s := forEach (List.range 32) s fun s k => portDown s (lo + k)
  let m : BitVec 64 := BitVec.ofNat 64 ((2 ^ 32 - 1) * 2 ^ lo)
  { s with ports := { s.ports with
      link := s.ports.link &&& ~~~m, flushing := s.ports.flushing &&& ~~~m, anDone := s.ports.anDone &&& ~~~m,
      softRst := s.ports.softRst &&& ~~~m } }

/-- Both lanes of the Elade link without lock. -/
def eladeLanesDown (s : State) : State := laneDown (laneDown s 0) 1

/-- What the units of an island lose at its reset (R400 and the chapters). -/
def unitsReset (s : State) (i : Island) : State :=
  match i with
  | .aon => s
  | .time =>
    let t := s.tim
    { s with
      aon := { s.aon with sec := nowSec s, secNs := 0 },
      tim := { Tim.reset with
        time := t.time, freq := t.freq, integ := t.integ, servo := t.servo, quality := t.quality, epoch := t.epoch,
        persist := t.persist, run := t.run, setDone := t.setDone, lastGrain := t.lastGrain, gaps := t.gaps, pause := t.pause, steps := t.steps,
        stepSum := t.stepSum, grains := t.grains, stepFlag := t.stepFlag, ppsMark := t.ppsMark, ppsFloor := t.ppsFloor,
        ppsUnread := t.ppsUnread, parent := t.parent, utcChanged := t.utcChanged, quality0Left := t.quality0Left } }
  | .portA => portsReset s 0
  | .portB => eladeLanesDown (portsReset s 32)
  | .switch =>
    { s with
      swc := { Swc.reset with nextId := s.swc.nextId, ipLink := s.swc.ipLink, t0 := s.swc.t0 },
      ports := { s.ports with tx := [] } }
  | .stream => svsIslandReset s
  | .acq => ggeIslandReset { s with acq := Acq.reset, twv := Twv.reset }
  | .phasor => { s with phx := { Phx.reset with setK := s.phx.setK }, nrg := { Nrg.reset with meters := [] } }
  | .app =>
    let s := slcIslandReset s
    { s with cmd := { s.cmd with sliceHeld := [], bg := s.cmd.bg.map fun x => { x with failed := true } } }
  | .rt => rdnIslandReset (spnIslandReset (decIslandReset s))
  | .safety => sfiIslandReset s
  | .security =>
    let s := chkIslandReset s
    { s with
      cmd := { Cmd.reset with sender := s.cmd.sender, bg := s.cmd.bg.map fun x => { x with live := false } },
      rdn := { s.rdn with cmdOk := false } }
  | .memory => { s with evr := { s.evr with dropped := 0 } }

/-- An island enters its reset: crossings into it are full and lose what they held (R15). -/
def enterReset (s : State) (i : Island) : State :=
  if held s i || i == .aon then s
  else
    let s := unitsReset (setHeld (resetSaves s i) i true) i
    forEach (islandPages i) s fun s p => resetBlk s p.1 p.2

/-- DRAM loses its content; what it then holds is 0 (assumption 23). -/
def dramLost (s : State) : State :=
  zeroRange { s with aon := { s.aon with dramUp := false } } dramBase 0xA00000000

/-- The index of the record store is zeroed and the store checked (R402, R238). -/
def storeCleared (s : State) : State :=
  ggeStart (storeEmpty (zeroRange { s with aon := { s.aon with dramUp := true } } (storeBase s) (storeBase s + 262144)))

/-- The timebase after a reset of the Time island or a wake (R396, R397). -/
def timeRestarts (s : State) : State :=
  setQuality (servoGo (timRestart s s.aon.sec) .roughing) 2

/-- An island leaves its reset: its units start, and the committed image restores its registers (R400, R401); with Security
the journal's entries still IN_PROGRESS become INTERRUPTED (R45). `lost` says that a lock loss had held it. -/
def leaveReset (s : State) (i : Island) (lost : Bool) : State :=
  if !held s i then s
  else
    let s := setHeld s i false
    let s := { s with aon := { s.aon with rstLoss := s.aon.rstLoss &&& ~~~(BitVec.ofNat 13 (2 ^ islNum i)) } }
    let s :=
      match i with
      | .time => timeRestarts s
      | .memory => evrRelease (if lost then storeCleared (dramLost s) else s)
      | .rt => { s with spn := { s.spn with rtRelease := s.tim.time } }
      | .switch => { s with swc := { s.swc with t0 := mono s } }
      | .phasor => phxReleased s
      | .acq => { s with gge := { s.gge with histFrom := s.tim.grains + 1 } }
      | _ => s
    let s := if i = .acq then baseRestored s (reapply s i) else s
    let s := if i = .time then s else reapply s i
    match i with
    | .acq => if storeKnown s then s else ggeStart s
    | .security => jnlInterrupt s
    | .phasor => energyLoad s (blank s)
    | .app => slcRelease s
    | .rt => decRefresh (if blank s then s else spnStart s)
    | _ => s

/-- The boot ROM's work once the Security island is released by itself (R352): the program starts again. -/
def securityBoot (s : State) : State :=
  if isDown s .security || s.chk.booted then s
  else
    let s := secureBoot s
    { s with rdn := { s.rdn with cmdOk := s.chk.booted && !s.chk.recovery } }

/-! ### Module resets, power-on and deep sleep -/

/-- The islands that a module reset reaches, Memory last, since the others still write events (R384). -/
def moduleIslands : List Island :=
  [.phasor, .rt, .portA, .portB, .switch, .stream, .acq, .app, .safety, .security, .memory]

/-- A module reset is asserted; the start of its kind follows at the release (R384, R385). It ends sleep (R392). It stops the transfer engine before an open
record can close (R232). -/
def moduleReset (s : State) (kind : Nat) : State :=
  let s := forEach moduleIslands (ggeHalt s) enterReset
  { s with
    aon := { s.aon with starting := some (s.aon.starting.getD kind), pwr := 0, blankLeft := false, rstDue := false },
    cmd := { s.cmd with bg := [] } }

/-- Does a module reset have an effect: not in power-on reset, in deep sleep, or while a start is already due (R385)? -/
def resettable (s : State) : Bool := !s.aon.por && s.aon.pwr != 2 && s.aon.starting.isNone

/-- Power-on reset: what MRAM, the fuses and the pins hold stays (R390, R400). -/
def powerOnReset (s : State) : State :=
  let z := State.reset
  let s := dramLost s
  { z with
    fuse := s.fuse, nv := s.nv, mem := s.mem, wr := s.wr, out := s.out, pending := s.pending,
    chk := { Chk.reset with
      slots := s.chk.slots, commitSeq := s.chk.commitSeq, keyCtr := s.chk.keyCtr, minSvn := s.chk.minSvn,
      debugPend := s.chk.debugPend, recoveryNext := s.chk.recoveryNext, rbg := s.chk.rbg,
      upd := s.chk.upd },
    rdn := { Rdn.reset with
      tokIn := s.rdn.tokIn, elade := { Elade.reset with lanes := 0 } },
    aon := { Aon.reset with pinLow := s.aon.pinLow, perst := s.aon.perst } }

/-- A wake from deep sleep begins a start of kind 5 (R396). -/
def wake (s : State) : State := { s with aon := { s.aon with pwr := 0, starting := some 5 } }

/-- Deep sleep is entered (R394): saves, the AON seconds, every island but AON reset and stopped, DRAM off. -/
def deepEnter (s : State) : State :=
  let s := if nrgOn s then energySave s 3 else s
  let s := evrFlush (spnFlush s)
  let quiet (s : State) (i : Island) : State :=
    if held s i then s else forEach (islandPages i) (unitsReset (setHeld s i true) i) fun s p => resetBlk s p.1 p.2
  let s := forEach ([Island.time] ++ moduleIslands) s quiet
  let s := dramLost s
  let t := s.tim
  let s := { s with tim := { Tim.reset with
    time := t.time, grains := t.grains, lastGrain := t.lastGrain, gaps := t.gaps, pause := t.pause, stepSum := t.stepSum, ppsMark := t.ppsMark,
    ppsFloor := t.ppsFloor } }
  let s := resetBlk s .tim 0
  { s with
    aon := { s.aon with pwr := 2, blankLeft := false, rstLoss := 0, secIn := s.aon.sec }, cmd := { s.cmd with bg := [] },
    clk := { s.clk with lock := 0 } }

/-! ### The start (R391) -/

/-- Islands made by a system PLL or the Time PLL (R373). -/
def pllIslands : List Island := [.time, .portA, .portB, .switch, .stream, .phasor, .app, .rt, .security, .memory]

/-- Is the AON logic clocked (R373, R376)? -/
def aonAlive (s : State) : Bool := if s.clk.aonOnRef then s.clk.refclk.stable else s.clk.rc.stable

/-- May the islands be released: power and RESET_N allow it, and the PLLs of the enabled islands are locked (R391)? -/
def startReady (s : State) : Bool :=
  s.aon.starting.isSome && !s.aon.por && !s.aon.pinLow && s.aon.pwr != 2 && aonAlive s &&
    pllIslands.all fun i => !clkEn s (islNum i) || s.clk.lock.toNat.testBit (islNum i)

/-- The order of releases (R391 step 4). -/
def releaseOrder : List Island :=
  [.memory, .security, .time, .rt, .safety, .portA, .portB, .switch, .stream, .acq, .phasor, .app]

/-- Islands released, firmware and logs started, the committed image applied (R391 steps 4 to 8). -/
def startNow (s : State) : State :=
  if !startReady s then s
  else
    let kind := s.aon.starting.getD 1
    let lostDram := kind == 1 || kind == 5
    let slept := held s .time
    let noRc := !s.clk.rc.stable
    let s := forEach (releaseOrder.filter fun i => clkEn s (islNum i) && !(i == .safety && noRc)) s fun s i => setHeld s i false
    let s := { s with
      clk := { s.clk with everReleased := true },
      aon := { s.aon with starting := none, kind := kind, rstLoss := if noRc then 0x400 else 0, clkOff := 0 },
      spn := { s.spn with rtRelease := s.tim.time },
      swc := { s.swc with t0 := mono s },
      fuse := { s.fuse with debug := s.chk.debugPend.getD s.fuse.debug },
      chk := { s.chk with debugPend := none } }
    let s := if slept && kind != 1 then timeRestarts s else s
    let s := slcRelease (evrRelease (evrRebuild s))
    let restored := match s.nv.cfg with
      | some r => if (secureBoot s).chk.recovery then s else (applyImage s { cls := .internal, index := 4 } (rdBytes s r.addr r.len)).1
      | none => s
    let s := baseRestored s restored
    let s := if lostDram then storeCleared s else ggeStart s
    let s := secureBoot s
    let n := s.nv.startCount + 1
    let s := { s with
      nv := { s.nv with startCount := n }, cmd := { s.cmd with sender := 0 },
      rdn := { s.rdn with cmdOk := s.chk.booted && !s.chk.recovery } }
    let s := jnlInterrupt (evt s 0x0110 0 0 kind n.toNat)
    let s := if s.aon.stuckDue then evt { s with aon := { s.aon with stuckDue := false } } 0x0111 1 0 0 0 else s
    let blankNow := s.chk.recovery || s.nv.cfg.isNone
    let s := match s.nv.cfg with
      | some r => if s.chk.recovery then s else (applyImage s { cls := .internal, index := 4 } (rdBytes s r.addr r.len)).1
      | none => s
    let s := if isUp s .phasor then energyLoad s blankNow else s
    if blankNow then s else leaveBlank s

end Sys2Proof.Machine
end

