-- ==== Sys2Proof/Machine/Clocks.lean ====
section
/-!
DEFINITION. Clock sources, their monitors, fall-back and return, PLL locks, clock enables and the Tool rest (R371 to R383),
and the power-fail warning (R398, R399).
-/

namespace Sys2Proof.Machine

/-! ### Sources -/

def srcOf (s : State) : Source → ClkSrc
  | .refclk => s.clk.refclk
  | .serdes => s.clk.serdes
  | .rc => s.clk.rc

def setSrc (s : State) (x : Source) (v : ClkSrc) : State :=
  match x with
  | .refclk => { s with clk := { s.clk with refclk := v } }
  | .serdes => { s with clk := { s.clk with serdes := v } }
  | .rc => { s with clk := { s.clk with rc := v } }

def srcNum : Source → Nat
  | .refclk => 0 | .serdes => 1 | .rc => 2

/-- The source that a frequency monitor counts against (R375). -/
def refOf : Source → Source
  | .refclk => .rc
  | .serdes | .rc => .refclk

/-- The tolerance of a frequency monitor in ppm. -/
def freqTol (s : State) : Source → Nat
  | .refclk => fld s .clk 0x40 8 4 * 10000
  | .serdes => fld s .clk 0x40 16 14
  | .rc => 50000

/-- Every PLL whose reference switched has still to lock; it holds over meanwhile (R374). -/
def lockBits : BitVec 13 := BitVec.ofNat 13 (pllIslands.foldl (fun a i => a + 2 ^ islNum i) 0)

/-- The system PLLs take a reference (R376, R377, R378). -/
def switchSys (s : State) (toRc : Bool) : State :=
  let s := { s with clk := { s.clk with
    sysOnRc := toRc, sysPend := false, fallback := s.clk.fallback || toRc, lock := s.clk.lock &&& ~~~lockBits } }
  if toRc && isUp s .time then setQuality s 2 else s

/-- A forced switch (R377): one count, one record for each island. -/
def forcedSwitch (s : State) (l : List Nat) : State :=
  let s := irq (cnt (setFld s .clk 0x84 2 1 1) .clk 0 0xAC) .clk 3
  forEach l s fun s i => evt s 0x0211 1 i 0 0

/-- A PLL has lost lock (R374): its island is held in reset. -/
def loseLock (s : State) (i : Island) : State :=
  let m : BitVec 13 := BitVec.ofNat 13 (2 ^ islNum i)
  let s := irq { s with clk := { s.clk with lock := s.clk.lock &&& ~~~m } } .clk 6
  let s := enterReset s i
  { s with aon := { s.aon with rstLoss := s.aon.rstLoss ||| m } }

/-- Every PLL loses lock (R376). -/
def loseAll (s : State) : State :=
  forEach (pllIslands.filter fun i => clkEn s (islNum i) && (!held s i || s.clk.lock.toNat.testBit (islNum i))) s loseLock

/-- The AON logic changes its clock (R377): through the asynchronous path, row FORCED_SWITCH, when the clock it leaves has stopped. -/
def aonMove (s : State) (stopped : Bool) : State :=
  if stopped then { s with clk := { s.clk with aonPend := true } }
  else { s with clk := { s.clk with aonOnRef := !s.clk.aonOnRef, aonPend := false } }

/-- The system PLLs change their reference, in the same way. -/
def sysMove (s : State) (stopped : Bool) : State :=
  if stopped then { s with clk := { s.clk with sysPend := true } } else switchSys s (!s.clk.sysOnRc)

def aonStays (s : State) : State := { s with clk := { s.clk with aonPend := false } }
def sysStays (s : State) : State := { s with clk := { s.clk with sysPend := false } }

/-- What the failure of a source does to its consumers (R376); `stopped` says that its edges are missing. -/
def failConsumers (s : State) (x : Source) (stopped : Bool) : State :=
  match x with
  | .refclk =>
    let s := if s.clk.aonOnRef && s.clk.rc.stable then aonMove s stopped else aonStays s
    if s.clk.sysOnRc then sysStays s else if !s.clk.rc.stable then s else sysMove s stopped
  | .serdes => eladeLanesDown (forEach (List.range 64) s portDown)
  | .rc =>
    let s := enterReset s .safety
    let s := sysStays { s with aon := { s.aon with rstLoss := s.aon.rstLoss ||| 0x400 } }
    let s := if s.clk.aonOnRef || !s.clk.refclk.stable then aonStays s else aonMove s stopped
    if s.clk.sysOnRc && s.clk.refclk.stable then sysMove (loseAll s) stopped
    else if !s.clk.refclk.stable then loseAll s
    else s

/-- A source fails (R376); CLK_RC_FREQ is not measured without both of its sources (R383). -/
def srcFail (s : State) (x : Source) (byFreq : Bool) : State :=
  let s := setSrc s x { stable := false, failed := true, byFreq := byFreq, dev := 0, good := 0 }
  let s := if x = .serdes then s else setReg s .clk 0 0x94 0
  let s := irq (cnt s .clk 0 (0xA0 + 4 * srcNum x)) .clk 1
  failConsumers (evt s 0x0210 2 (srcNum x) 0 0) x (!byFreq)

/-- A source is judged stable (R372, R376, R377). -/
def srcStable (s : State) (x : Source) : State :=
  let s := irq (setSrc s x { stable := true, failed := false, byFreq := false, dev := 0, good := 0 }) .clk 2
  let auto := flag s .clk 0x40 1
  match x with
  | .serdes => s
  | .refclk =>
    let s := if s.clk.rc.failed && !s.clk.aonOnRef then aonMove s (!s.clk.rc.byFreq) else aonStays s
    if !s.clk.sysOnRc then sysStays s
    else if !s.clk.rc.stable then sysMove s (!s.clk.rc.byFreq)
    else if auto then sysMove s false
    else s
  | .rc =>
    let s :=
      if !s.clk.aonOnRef then aonStays s
      else if !s.clk.refclk.stable then aonMove s (!s.clk.refclk.byFreq)
      else if auto then aonMove s false
      else s
    let s :=
      if s.clk.sysOnRc then (if s.clk.sysPend then sysMove s false else s)
      else if s.clk.refclk.failed then sysMove s (!s.clk.refclk.byFreq)
      else s
    if s.aon.rstLoss.toNat.testBit 10 && s.aon.starting.isNone && s.aon.pwr != 2 then leaveReset s .safety false else s

/-- A source fails, and the frequency monitors that count against it disarm (R375): they begin anew, and a source whose count has
completed is judged by the count alone (R372). -/
def srcFails (s : State) (x : Source) (byFreq : Bool) : State :=
  forEach ([.refclk, .serdes, .rc].filter fun y => refOf y == x) (srcFail s x byFreq) fun s y =>
    let c := srcOf s y
    if !c.stable && decide (1 ≤ c.good) then srcStable s y else setSrc s y { c with dev := 0 }

/-- A stability count completes (R372): it alone judges a source, unless the source failed by its frequency monitor and
the monitor's reference is stable. -/
def countDone (s : State) (x : Source) : State :=
  let c := srcOf s x
  if s.aon.por || c.stable then s
  else if c.byFreq && (srcOf s (refOf x)).stable then setSrc s x { c with good := max c.good 1 }
  else srcStable s x

/-- No edge for the monitor's time (R375): the count restarts, or an armed monitor fires. -/
def missingEdge (s : State) (x : Source) : State :=
  if s.aon.por then s else if (srcOf s x).stable then srcFails s x false else setSrc s x { srcOf s x with good := 0 }

/-- The end of a window of a frequency monitor (R372, R375); the monitor is armed when its source, or the count of a source
it judges, and its reference are stable. -/
def freqWindow (s : State) (x : Source) (ppm : Int) : State :=
  let c := srcOf s x
  let out := decide (freqTol s x < ppm.natAbs)
  if s.aon.por || !(srcOf s (refOf x)).stable then s
  else
    let s := if x = .rc ∧ c.stable then setReg s .clk 0 0x94 ((100000 * (1000000 + ppm) / 1000000).toNat % 2 ^ 18) else s
    if c.stable then
      if !out then setSrc s x { c with dev := 0 } else if c.dev = 0 then setSrc s x { c with dev := 1 } else srcFails s x true
    else if c.good = 0 then s
    else if out then setSrc s x { c with good := 1 }
    else if c.good = 1 then setSrc s x { c with good := 2 }
    else srcStable s x

/-- Eight cycles of the destination clock have passed (R377). -/
def forcedDone (s : State) (aon : Bool) : State :=
  if aon then
    if s.clk.aonPend then forcedSwitch (aonMove s false) [0] else s
  else if s.clk.sysPend then forcedSwitch (sysMove s false) (pllIslands.map islNum)
  else s

/-- CLK_RETURN (R377, R383); none is STATE. -/
def clkReturn (s : State) : Option State :=
  let sys := onFallback s && s.clk.sysOnRc && s.clk.refclk.stable
  let aon := s.clk.aonOnRef && s.clk.rc.stable
  if !sys && !aon then none
  else
    let s := if sys then switchSys s false else s
    some (if aon then { s with clk := { s.clk with aonOnRef := false } } else s)

/-! ### Locks (R374, R382) -/

/-- Is the reference of the system PLLs there? -/
def sysRef (s : State) : Bool := if s.clk.sysOnRc then s.clk.rc.stable else s.clk.refclk.stable

/-- May a held island be released now? -/
def mayRelease (s : State) : Bool := s.aon.starting.isNone && !s.aon.por && s.aon.pwr != 2

/-- A PLL shows lock. -/
def pllLock (s : State) (i : Island) : State :=
  if !pllIslands.contains i || !clkEn s (islNum i) || !sysRef s || s.aon.por || s.clk.sysPend then s
  else
    let m : BitVec 13 := BitVec.ofNat 13 (2 ^ islNum i)
    let was := s.clk.lock.toNat.testBit (islNum i)
    let s := { s with clk := { s.clk with lock := s.clk.lock ||| m } }
    let loss := s.aon.rstLoss.toNat.testBit (islNum i)
    let s := if loss && mayRelease s then leaveReset s i true else s
    let s := if i == .time && !was && !s.clk.sysOnRc && s.clk.fallback && isUp s .time then fallbackEnd s else s
    if !s.clk.sysOnRc && pllIslands.all fun k => !clkEn s (islNum k) || s.clk.lock.toNat.testBit (islNum k) then
      { s with clk := { s.clk with fallback := false } }
    else s

/-- A PLL loses lock in run, or has not locked in time. -/
def pllLost (s : State) (i : Island) : State :=
  if !pllIslands.contains i || !clkEn s (islNum i) || s.aon.por || s.aon.rstLoss.toNat.testBit (islNum i) then s
  else loseLock s i

/-- Islands whose enable is clear stop; those newly enabled wait for lock. Acquisition has no PLL of its own (R373, R382). -/
def settleClocks (s : State) : State :=
  if s.aon.por || s.aon.starting.isSome || s.aon.pwr == 2 then s
  else
    forEach (islands.filter fun i => i != .aon && i != .safety) s fun s i =>
      let m : BitVec 13 := BitVec.ofNat 13 (2 ^ islNum i)
      if clkEn s (islNum i) then
        if held s i && s.aon.clkOff.toNat.testBit (islNum i) then
          let s := { s with aon := { s.aon with clkOff := s.aon.clkOff &&& ~~~m } }
          if i == .acq then leaveReset s i false
          else { s with aon := { s.aon with rstLoss := s.aon.rstLoss ||| m } }
        else s
      else
        let s := enterReset s i
        { s with
          clk := { s.clk with lock := s.clk.lock &&& ~~~m },
          aon := { s.aon with clkOff := s.aon.clkOff ||| m, rstLoss := s.aon.rstLoss &&& ~~~m } }

/-! ### The Tool rest (R379 to R381) -/

/-- The conditions now present; those of the supply and the rails stand in the state as they were detected. -/
def causeNow (s : State) : Nat :=
  let locked := pllIslands.all fun i => !clkEn s (islNum i) || s.clk.lock.toNat.testBit (islNum i)
  ofBit (!s.clk.everReleased) 0 + getBits s.clk.cause.toNat 1 2 * 2 + ofBit (s.clk.refclk.failed && !(s.clk.sysOnRc && locked)) 3 +
    ofBit s.clk.serdes.failed 4 + ofBit (s.clk.rc.failed && !s.clk.aonOnRef) 5 +
    ofBit (s.aon.rstLoss.toNat.testBit 1 || s.aon.rstLoss.toNat.testBit 9) 6 + ofBit (flag s .clk 0x40 0 && onFallback s) 7

/-- The Tool rest forces from the first condition on. -/
def settleTool (s : State) : State :=
  let c := causeNow s
  let s := { s with clk := { s.clk with cause := BitVec.ofNat 8 c, seenCause := s.clk.seenCause ||| BitVec.ofNat 8 c } }
  if c = 0 ∨ s.clk.forcing then s
  else
    let s := { s with clk := { s.clk with forcing := true, forceFrom := elapsedNs s } }
    evt (irq (cnt s .clk 0 0xB0) .clk 4) 0x02FF 1 0 c 0

/-- TR_HOLD has passed since the last condition cleared (R381). -/
def toolRelease (s : State) : State :=
  if !s.clk.forcing || s.clk.cause ≠ 0 then s
  else
    let us := (elapsedNs s - s.clk.forceFrom) / 1000
    let s := setReg { s with clk := { s.clk with forcing := false } } .clk 0 0xB4 (min us 0xFFFFFFFF)
    evt (irq s .clk 5) 0x02FF 1 0 0 0

/-- A supply or rail condition arises or clears; the other conditions follow from their own events. -/
def toolCause (s : State) (c : Nat) (on : Bool) : State :=
  if c = 1 ∨ c = 2 then
    let m : BitVec 8 := BitVec.ofNat 8 (2 ^ c)
    { s with clk := { s.clk with cause := if on then s.clk.cause ||| m else s.clk.cause &&& ~~~m } }
  else s

/-! ### The power-fail warning (R398, R399) -/

def pfWarning (s : State) : State :=
  if s.aon.pf || s.aon.por then s
  else
    let s := { s with aon := { s.aon with pf := true, pfWithdrew := s.aon.pfWithdrew || flag s .aon 0x40 0 } }
    let s := evt (irq (cnt s .aon 0 0xB0) .aon 1) 0x0112 2 0 0 0
    let s := { s with nrg := { s.nrg with saveReq := if nrgOn s then some 1 else s.nrg.saveReq } }
    -- a commit whose record is begun is completed (R350)
    let s := if s.chk.upd.any fun u => decide (1 ≤ u.phase) then commitStep (commitStep s) else s
    spnFlushSoon s

def pfClear (s : State) : State :=
  if !s.aon.pf then s
  else commitStopped (evt (irq { s with aon := { s.aon with pf := false } } .aon 2) 0x01FF 1 0 0 0)

/-- 1 s after the warning NOT_WITHDRAWN is set again. -/
def withdrawRestore (s : State) : State :=
  if s.aon.pf then s else { s with aon := { s.aon with pfWithdrew := false } }

end Sys2Proof.Machine
end

