-- ==== Sys2Proof/Machine/Migrate.lean ====
section
/-!
DEFINITION. Background operations of slices (R283): sending and receiving a migration (R279, R280), save and restore
(R281, R282); the journal's new entries (R44, R45) and the end of a command.
-/

namespace Sys2Proof.Machine

/-! ### Journal and responses (R39, R44, R45) -/

/-- The first entry of a command, IN_PROGRESS. -/
def jnlEntry (s : State) (seq : Nat) (m : CmdMsg) : List Byte :=
  withCrc (le 4 seq ++ le 4 (nowSec s) ++ le 4 (s.tim.time % secU / nsU + s.tim.quality * 2 ^ 30) ++ le 2 m.opcode.toNat ++
    le 1 (portClass m.ctx.port) ++ le 1 m.ctx.index.toNat ++ shake256 m.args 8 ++ le 2 rProgress ++ le 2 m.ctx.tag.toNat)

def nextSeq (n : Nat) : Nat := if n ≥ 0xFFFFF000 then 1 else n + 1

/-- A command is accepted: its entry is written. -/
def jnlOpen (s : State) (m : CmdMsg) : State × Nat :=
  let seq := nextSeq s.nv.jnlNewest
  let s := wrBytes s (jnlAddr seq) (jnlEntry s seq m)
  ({ s with nv := { s.nv with jnlNewest := seq, jnlCount := min (s.nv.jnlCount + 1) 4096 } }, seq)

/-- A command ends: its entry, while it still stands in the journal, takes the result; then the response is sent. -/
def finish (s : State) (m : CmdMsg) (seq result : Nat) (data : List Byte) : State :=
  let b := rdBytes s (jnlAddr seq) 32
  let s := if numAt b 0 4 = seq then wrBytes s (jnlAddr seq) (jnlWith b result) else s
  respond s m.ctx (responseBytes m.opcode.toNat result seq m.ctx.tag data)

/-- The interrupts of SLC at the end of a migration command and at a restore that failed (R284). -/
def bgIrq (s : State) (x : Bg) (result : Nat) : State :=
  match x.kind with
  | .migSend .. => irq s .slc 4
  | .restore .. => if result = rFailed then irq s .slc 6 else s
  | .part _ | .save .. => s

/-- A background operation ends; its entry and response are left out once the entry is INTERRUPTED (R283). -/
def finishBg (s : State) (x : Bg) (result : Nat) (data : List Byte) : State :=
  let s := { bgIrq s x result with cmd := { s.cmd with bg := s.cmd.bg.filter fun y => y != x } }
  if x.live then finish s x.msg x.seq result data else s

/-- Does a background operation name the slice? -/
def bgBusy (s : State) (i : Nat) : Bool := s.cmd.bg.any fun x => x.slice == i

/-- The requester of a command's writes (R30). -/
def cmdReq (c : CmdCtx) : Requester :=
  { cls := match c.port with
      | .host => .host | .mgmt => .mgmt | .console => .console | .partner => .partner | .slice => .slice | .debug => .debug,
    index := c.index }

/-! ### Words of a slice written from an image or a record (R280, R282) -/

/-- A word of the slice's group through R32, as in FREE; the flag says that a field was clamped. -/
def slWord (q : Requester) (i : Nat) (x : State × Bool) (o mask v : Nat) : State × Bool :=
  let st := (slOf x.1 i).state
  let s := setSl x.1 i { slOf x.1 i with state := .free }
  let w := busWrite s q .slc 0 (slOff i o) mask v
  (setSl w.st i { slOf w.st i with state := st }, x.2 || !w.clamps.isEmpty)

/-- The decision words given for those the slice owns. -/
def slDecWords (s : State) (i : Nat) (b : List Byte) : State :=
  let mine := (List.range 32).filter fun w => wordOwner s w == i && bit (numAt b 0 4) w
  if isDown s .rt then s else wordsSet s (mine.map fun w => (w, numAt b (4 + 4 * w) 4))

/-- The slice stands FROZEN with EN set. -/
def slFrozen (s : State) (i : Nat) : State :=
  let s := setSl s i { slOf s i with blocked := false, busy := false }
  slGo (setReg s .slc 0 (slOff i 0) (setBits (slReg s i 0) 0 1 1)) i .frozen

/-! ### SLC_MIG_SEND (R279) -/

def migTotal (flags count : Nat) : Nat := count + getBits flags 0 1 + getBits flags 1 1

/-- Record `k` of a command: none when its page cannot be read. -/
def migBytes (s : State) (i d flags list count k : Nat) : State × Option (List Byte) :=
  if k < count then
    let a := rdNum s (list + 8 * k) 8
    if a % 4096 ≠ 0 ∨ isDown s .memory then (s, none)
    else
      match dmaRead s i a 4096 with
      | (s, some p) => (s, some (if p.all fun b => b == 0 then migRecord d 2 a k [] else migRecord d 1 a k p))
      | (s, none) => (s, none)
  else if k = count ∧ bit flags 0 then (s, some (migRecord d 3 0 k (stateBlock s i)))
  else (s, some (migRecord d 4 0 k []))

/-- The operation with another kind. -/
def setBg (s : State) (x y : Bg) : State := { s with cmd := { s.cmd with bg := s.cmd.bg.map fun z => if z = x then y else z } }

/-- Records sent while the link has room for them (R279, R327). -/
def migPump : (fuel : Nat) → State → Bg → State
  | 0, s, _ => s
  | f + 1, s, x =>
    match x.kind with
    | .migSend d flags list count sent errs =>
      if !s.rdn.elade.up then setBg s x { x with failed := true }
      else if migTotal flags count ≤ sent || linkLimit 3 ≤ s.rdn.elade.mig.unacked.length then s
      else
        match migBytes s x.slice d flags list count sent with
        | (s, some b) =>
          let y := { x with kind := .migSend d flags list count (sent + 1) errs }
          migPump f (setBg (linkSend s 3 1 b) x y) y
        | (s, none) => setBg s x { x with failed := true }
    | _ => s

/-! ### The receiver (R280) -/

def migErrs (s : State) (d : Nat) : Nat := slReg s d 0x7C

/-- Kind 3: the group's words but EN, S_OP and the read-only ones, the window's writable indices, owned decision words. -/
def migState (s : State) (d : Nat) (b : List Byte) : State :=
  let q : Requester := { cls := .partner, index := 0 }
  let w (k : Nat) : Nat := numAt b (4 * k) 4
  let s := (slWord q d (s, false) 0 0xFFFFFFFE (w 0)).1
  let s := forEach ((List.range 24).map fun k => k + 1) s fun s k => (slWord q d (s, false) (4 * k) 0xFFFFFFFF (w k)).1
  let s := setSl s d { slOf s d with
    sqTail := BitVec.ofNat 16 (w 26), cqHead := BitVec.ofNat 16 (w 30), rqTail := BitVec.ofNat 16 (w 32) }
  slDecWords s d (b.drop 140)

/-- A record of the partner; a number out of order and a slice that is not RECEIVING leave it without effect. The count
that its acknowledgement carries comes with the state. -/
def migReceive (s : State) (b : List Byte) : State × Nat :=
  let d := numAt b 6 1
  let kind := numAt b 7 1
  let n := numAt b 16 4
  let p := b.drop 32
  let x := slOf s d
  if isDown s .app || numAt b 0 4 != 0x4547504D || numAt b 4 2 != 1 || decide (64 ≤ d) then (s, if kind = 4 then 1 else 0)
  else if x.state ≠ .receiving ∨ (n ≠ 0 ∧ n ≠ x.migNext) then (s, if kind = 4 then max 1 (migErrs s d) else 0)
  else
    let s := setSl s d { x with migNext := n + 1 }
    let err (s : State) : State := cnt s .slc 0 (slOff d 0x7C)
    if kind = 1 ∧ (p.length ≠ 4096 ∨ crc32 p ≠ numAt b 20 4) then (err s, 0)
    else if kind = 1 ∨ kind = 2 then
      let (s, ok) := dmaWrite s d (numAt b 8 8) (if kind = 1 then p else List.replicate 4096 0)
      (if ok then s else err s, 0)
    else if kind = 3 then (if p.length ≠ 512 ∨ crc32 p ≠ numAt b 20 4 then err s else migState s d p, 0)
    else if kind = 4 then (slFrozen s d, migErrs s d)
    else (s, 0)

/-! ### SLC_SAVE and SLC_RESTORE (R281, R282) -/

def saveEnd (s : State) (i addr maxLen : Nat) : State × Nat :=
  let img := saveImage s i
  if maxLen < img.length || !inDram s addr img.length then (s, rFailed) else (wrBytes s addr img, rOk)

/-- The values of an image into a slice. -/
def restoreEnd (s : State) (q : Requester) (i addr len : Nat) : State × Nat :=
  let img := rdBytes s addr (min len 4096)
  if (slOf s i).state != .free || !saveImageOk img then (s, rFailed)
  else
    let sec (t : Nat) : List Byte := (saveSection img t).getD []
    let w (t k : Nat) : Nat := numAt (sec t) (4 * k) 4
    let full := 0xFFFFFFFF
    let x := slWord q i (s, false) 4 full (w 1 0 % 65536)
    let x := slWord q i (slWord q i x 8 full (w 1 1)) 0xC full (w 1 2)
    let x := (List.range 7).foldl (fun x k => slWord q i x (0x10 + 4 * k) full (w 2 k)) x
    let x := slWord q i x 0 0xFFFFFFFE (w 3 0)
    let x := slWord q i (slWord q i (slWord q i x 0x30 full (w 3 1)) 0x34 full (w 3 2)) 0x38 full (w 3 3)
    let x := if saveSection img 5 = none then x else slWord q i (slWord q i x 0x3C full (w 5 0)) 0x40 full (w 5 1)
    let x :=
      if saveSection img 0x80 = none then x
      else
        let x := slWord q i (slWord q i x 4 full (w 0x80 0)) 0x30 full (w 0x80 1)
        slWord q i (slWord q i x 0x28 full (w 0x80 2)) 0 0xC (w 0x80 3 * 4)
    let s := x.1
    let p (k : Nat) : BitVec 16 := BitVec.ofNat 16 (w 2 (7 + k))
    let y := shareTaken s i Slice.free
    let s := setSl s i { y with
      sqTail := p 0, sqHead := p 1, cqHead := p 2, cqTail := p 3, rqTail := p 4, rqHead := p 5,
      tokens := w 3 4 * 65536, tokTime := elapsedNs s, deficit := w 3 5 }
    (slFrozen (slDecWords s i (sec 4)) i, if x.2 then rClamped else rOk)

/-! ### The end of a background operation -/

/-- Operations that something has ended without success (R274, R279). -/
def bgFailures (s : State) : State :=
  forEach s.cmd.bg s fun s x =>
    match x.kind with
    | .part _ => s
    | _ => if x.failed || (slOf s x.slice).state == .parting then finishBg s x rFailed [] else s

/-- Migrations go on as the link gives room. -/
def settleBg (s : State) : State :=
  bgFailures (forEach s.cmd.bg s fun s x => migPump 65 s x)

/-- The partings of a slice end: response byte 0 is ESCALATED. -/
def partFinish (s : State) (i : Nat) (esc : Bool) : State :=
  forEach (s.cmd.bg.filter fun x => x.slice == i) s fun s x =>
    match x.kind with
    | .part c => finishBg s x (if c then rClamped else rOk) (le 1 (ofBit esc 0))
    | _ => s

/-- Has the background operation of a slice ended? Then its command ends with it (R283). -/
def bgComplete (s : State) (i : Nat) : State :=
  match s.cmd.bg.find? fun x => x.slice == i with
  | none => s
  | some x =>
    match x.kind with
    | .part _ => if (slOf s i).state = .free then partFinish s i false else s
    | .migSend _ flags _ count sent errs =>
      if migTotal flags count ≤ sent ∧ s.rdn.elade.mig.unacked = [] ∧ s.rdn.elade.mig.waiting = [] then
        finishBg s x (if errs = 0 then rOk else rFailed) []
      else s
    | .save addr n => let (s, r) := saveEnd s i addr n; finishBg s x r []
    | .restore addr n => let (s, r) := restoreEnd s (cmdReq x.msg.ctx) i addr n; finishBg s x r []

end Sys2Proof.Machine
end

