-- ==== Sys2Proof/Machine/Cmd.lean ====
section
/-!
DEFINITION. The commands of the command processor by opcode (R36 to R39, R404, R432 and the chapters' command tables), what
a waiting command waits for, the round-robin, and `topRun`, the frame of every meaning that can end a wait.
-/

namespace Sys2Proof.Machine

/-- What executing a command leads to: its end, a wait, or a background operation of a slice. -/
inductive Act where
  | done (s : State) (result : Nat) (data : List Byte)
  | waits (s : State) (w : Wait)
  | bg (s : State) (slice : Nat) (k : BgKind)

def Act.ofRes (r : Res) : Act := .done r.1 r.2.1 r.2.2

/-- A command of Chuck: one whose commit has begun waits for its end (R350). -/
def Act.ofUpd (r : Res) : Act := if r.2.1 = rProgress then .waits r.1 .commit else .ofRes r

/-- OK or STATE. -/
def Act.ofBool (s : State) (r : State × Bool) : Act := if r.2 then .done r.1 rOk [] else .done s rState []

def Act.ofOption (s : State) (o : Option State) : Act := .ofRes (orState s o)

/-! ### Objects and registers (R3, R29, R432, R434) -/

/-- The object that a command names: from HOST an address in DRAM, else an offset in the staging area; none gives STATE. -/
def objOf (s : State) (m : CmdMsg) : Option (Nat × Nat) :=
  if m.ctx.port = .host then
    let a := numAt m.args 0 8
    let n := numAt m.args 8 4
    if inDram s a n then some (a, n) else none
  else
    let o := numAt m.args 0 4
    let n := numAt m.args 4 4
    if o + n ≤ 0x4000000 then some (stageBase s + o, n) else none

/-- The block and instance of a command's register, when the page exists; without it the command ends with FAILED (DEDUCED,
assumption 115). -/
def regOf (m : CmdMsg) : Option (Blk × Nat × Nat) :=
  match Blk.ofCode (numAt m.args 0 2) with
  | some b =>
    let i := numAt m.args 2 2
    let o := numAt m.args 4 4
    if i < b.insts ∧ o < b.size then some (b, i, o) else none
  | none => none

def regRead (s : State) (m : CmdMsg) : Act :=
  match regOf m with
  | none => .done s rFailed []
  | some (b, i, o) =>
    match busRead s b i o with
    | (s, some v) => .done s rOk (le 4 v)
    | (s, none) => .done s rFailed []

def regWrite (s : State) (m : CmdMsg) : Act :=
  match regOf m with
  | none => .done s rFailed []
  | some (b, i, o) =>
    let w := busWrite s (cmdReq m.ctx) b i o (numAt m.args 8 4) (numAt m.args 12 4)
    .done w.st
      (if w.err then rFailed else if w.absent then rAbsent else if !w.field then rFailed else if w.locks != [] then rLocked
       else if w.refused then rState else if w.clamps != [] then rClamped else rOk) []

/-! ### The journal's commands (R45) -/

/-- How far the newest entry is after an entry of sequence `a`. -/
def jnlDist (newest a : Nat) : Nat := if a ≤ newest then newest - a else newest + 0xFFFFF000 - a

def jnlAt (a k : Nat) : Nat := if a + k ≤ 0xFFFFF000 then a + k else a + k - 0xFFFFF000

/-- An entry as JNL_READ returns it. -/
def jnlShown (s : State) (seq : Nat) : List Byte :=
  let b := rdBytes s (jnlAddr seq) 32
  if crcOk b then b else b.take 24 ++ le 2 0xFFFE ++ b.drop 26

def jnlRead (s : State) (first count : Nat) : Res :=
  let d := jnlDist s.nv.jnlNewest first
  if count < 1 ∨ 127 < count then (s, rState, [])
  else if first = 0 ∨ 0xFFFFF000 < first ∨ s.nv.jnlCount ≤ d then (s, rOk, [])
  else (s, rOk, ((List.range (min count (d + 1))).map fun k => jnlShown s (jnlAt first k)).flatten)

def reportRead (s : State) (first count : Nat) : Res :=
  let n := rdNum s 0x50002014 4
  if count < 1 ∨ 168 < count then (s, rState, [])
  else (s, rOk, rdBytes s 0x50002000 32 ++ rdBytes s (0x50002020 + 24 * first) (24 * min count (n - first)))

def stageWrite (s : State) (off : Nat) (data : List Byte) : Res :=
  if 0x4000000 < off + data.length then (s, rState, []) else (wrBytes s (stageBase s + off) data, rOk, [])

/-! ### The event log's commands (R368, R369) -/

def evrReadOp (s : State) (first count : Nat) : Res :=
  if count < 1 ∨ 127 < count ∨ first = 0 ∨ s.evr.count < first then (s, rState, [])
  else
    let n := min count (s.evr.count + 1 - first)
    let b := evrFirstBuf s
    (s, rOk, ((List.range n).map fun k =>
      if b ≤ first + k then s.evr.buf.getD (first + k - b) [] else rdBytes s (evrAddr (first + k)) 32).flatten)

def evrClearOp (s : State) (c : CmdCtx) (expected : Nat) : Res :=
  let s := evrFlush s
  if expected ≠ 0 ∧ expected ≠ s.evr.count then (s, rState, [])
  else (evrClearWith s (s.evr.gen + 1) (portClass c.port) c.index.toNat 0 s.evr.count s.evr.lost, rOk, [])

/-! ### Slices (R283) -/

/-- An operation of a slice by command: legal in its state, and no background operation named it. -/
def sliceCmd (s : State) (i op : Nat) : Option State :=
  if 64 ≤ i || bgBusy s i then none else sliceOp s i op false

def slcPart (s : State) (i mode tmo : Nat) : Act :=
  if 64 ≤ i ∨ 1 < mode then .done s rState []
  else
    match sliceOp s i (mode + 1) (restoring s i) with
    | none => .done s rState []
    | some t =>
      let t := forEach (t.cmd.bg.filter fun x => x.slice == i) t fun t x => match x.kind with
        | .part _ => t
        | _ => finishBg t x rFailed []
      .bg t i (.part (decide (10000 < tmo)))

def slcMigSend (s : State) (i d flags list count : Nat) : Act :=
  let x := slOf s i
  if 64 ≤ i || 64 ≤ d || 3 < flags || 2097152 < count || bgBusy s i || !inDram s list (8 * count) ||
    !(x.state == .active || x.state == .freezing || x.state == .frozen) then .done s rState []
  else .bg s i (.migSend d flags list count 0 0)

/-! ### Spindle (R295, R300 to R302) -/

/-- Do the actions of Spindle wait for a boundary? -/
def spnWaits (s : State) : Bool := s.spn.state == .running && enabled s .spn

def readVar (s : State) (id : Nat) : Res :=
  let img := spnImg s
  if s.spn.cur.isNone then (s, rState, [])
  else
    match findVar img id, forceVar img id with
    | some v, _ => (s, rOk, slice s.spn.data v.off (min v.size 4064))
    | none, some (o, n, _) => (s, rOk, slice s.spn.data o n)
    | none, none => (s, rState, [])

def spnForce (s : State) (id : Nat) (mask value : BitVec 64) : Act :=
  if spnWaits s then .waits s (.force (BitVec.ofNat 32 id) mask value) else .ofOption s (forceSet s id mask.toNat value.toNat)

def spnStop (s : State) : Act :=
  if spnWaits s then .waits s .stop
  else if s.spn.state = .fault ∨ s.spn.state = .running then .done (spnHalt s .stopped) rOk []
  else .done s rOk []

/-- What a boundary, or a Spindle that does not run, does for a waiting command. -/
def spnAction (s : State) : Wait → Option (State × Nat × List Byte)
  | .force id m v => some (orState s (forceSet s id.toNat m.toNat v.toNat))
  | .unforce id => some (orState s (forceDel s id.toNat))
  | .unforceAll => some (forceClear s, rOk, [])
  | .stop => some (if s.spn.state = .running then spnHalt s .stopped else s, rOk, [])
  | .switch => if s.nv.spnPend.isNone then some (s, rFailed, []) else
      let (t, d) := doSwitch s
      some (t, rOk, d)
  | _ => none

/-! ### The pair (R339 to R341) -/

def handoverLegal (s : State) : Bool := s.rdn.mstate == .headstock && !s.rdn.window && s.rdn.elade.up && peerHealthy s

def offerToken (s : State) : State := linkSend s 1 6 (le 4 s.rdn.tokEpoch)

def takeback (s : State) : Option State :=
  if rdnPreferred s && s.rdn.mstate == .tailstock && !s.rdn.window && s.rdn.elade.up then
    some (sendTake { s with rdn := { s.rdn with holdFrom := none } } 3)
  else none

def rdnWithdraw (s : State) (force : Nat) : Option State :=
  if 1 < force then none
  else if s.rdn.mstate == .headstock && force == 0 then
    if handoverLegal s then some (offerToken { s with rdn := { s.rdn with withdrawn := true } }) else none
  else some { s with rdn := { s.rdn with notWithdrawn := false, withdrawn := false } }

def rdnRestore (s : State) : State :=
  { s with
    rdn := { s.rdn with notWithdrawn := true, withdrawn := false }, aon := { s.aon with pfWithdrew := false } }

/-! ### Resets and power states (R388, R389, R393, R394) -/

def rstIsland (s : State) (n : Nat) : Option State :=
  match islands[n]? with
  | some i => if 1 ≤ n ∧ n ≤ 10 then some (if held s i then s else leaveReset (enterReset s i) i false) else none
  | none => none

def pwrSleep (s : State) : Option State :=
  if (List.range 64).any fun i => (slOf s i).state != .free then none
  else some { enterReset s .app with aon := { (enterReset s .app).aon with pwr := 1 } }

/-- Run again: the Application island's clock starts and the island is released. -/
def pwrRun (s : State) : Option State :=
  if s.aon.pwr = 0 then none
  else
    let m : BitVec 13 := BitVec.ofNat 13 (2 ^ islNum .app)
    let s := { s with aon := { s.aon with pwr := 0 } }
    if clkEn s (islNum .app) then
      some (leaveReset { s with
        aon := { s.aon with clkOff := s.aon.clkOff &&& ~~~m }, clk := { s.clk with lock := s.clk.lock ||| m } } .app false)
    else some s

/-- May deep sleep be entered? -/
def deepLegal (s : State) : Bool :=
  !(s.rdn.mstate == .headstock || s.rdn.mstate == .requesting || s.rdn.mstate == .taking) &&
    !(s.aon.stuck && reg s .aon 0 0x48 == 0)

/-! ### Execution by opcode -/

/-- The unit that a command needs: absent on this part, or its island down (R3, R15)? -/
def unitOf (op : Nat) : Option Blk :=
  if op = 0x2010 ∨ op = 0x2011 then some .tim
  else if op = 0x2020 ∨ op = 0x2021 then some .acq
  else if op = 0x2030 ∨ op = 0x8010 then some .nrg
  else if op = 0x1020 ∨ op = 0x1021 ∨ op = 0x1022 ∨ op = 0x2040 ∨ op = 0x8020 then some .gge
  else if op / 4096 = 4 then some .slc
  else if op = 0x1030 ∨ (0x2050 ≤ op ∧ op ≤ 0x2055) ∨ op = 0x5010 ∨ op = 0x5011 then some .spn
  else if 0x2060 ≤ op ∧ op ≤ 0x2062 then some .sfi
  else if op / 4096 = 7 then some .rdn
  else if op = 0x1050 ∨ op = 0x1051 ∨ op = 0x8030 then some .evr
  else if op = 0x1002 ∨ op = 0x1004 ∨ op = 0x3002 ∨ op = 0x3003 ∨ op = 0x5001 ∨ op = 0x6004 then some .mem
  else none

/-- Commands of the journal, the registers and configuration. -/
def execCore (s : State) (m : CmdMsg) (op : Nat) (a : Nat → Nat → Nat) : Act :=
  if op = 0x1001 then
    .done s rOk (le 4 s.nv.jnlNewest ++ le 4 s.nv.jnlCount ++ le 4 s.nv.startCount.toNat ++ le 4 s.nv.restartCount.toNat)
  else if op = 0x1002 then .ofRes (jnlRead s (a 0 4) (a 4 2))
  else if op = 0x1003 then regRead s m
  else if op = 0x1004 then .ofRes (reportRead s (a 0 4) (a 4 2))
  else if op = 0x3001 then regWrite s m
  else if op = 0x3002 then .ofRes (stageWrite s (a 0 4) (m.args.drop 4))
  else
    match objOf s m with
    | none => .done s rState []
    | some (p, n) =>
      if op = 0x3003 then .ofRes (cfgApply s (cmdReq m.ctx) p n)
      else if op = 0x5010 then .ofRes (spnLoad s p n)
      else if op = 0x5001 then .ofRes (fwLoad s (rdBytes s p (min n 0x400001)))
      else .ofUpd (keyUpdate s (rdBytes s p (min n 0x10000)))

/-- Commands of time, acquisition, energy, records and the event log. -/
def execData (s : State) (m : CmdMsg) (op : Nat) (a : Nat → Nat → Nat) : Act :=
  if op = 0x2010 then .ofOption s (timSet s (a 0 8) (a 8 4))
  else if op = 0x2011 then .ofOption s (reroughen s)
  else if op = 0x2020 then (if a 0 4 < 0x1000000 then .ofBool s (acqCal s (a 0 4)) else .done s rState [])
  else if op = 0x2021 then (if a 0 4 < 0x1000000 then .ofBool s (skewApply s (a 0 4)) else .done s rState [])
  else if op = 0x2030 then (if nrgOn s then .done (energySave s 2) rOk [] else .done s rState [])
  else if op = 0x8010 then
    let mask := a 0 12
    if mask = 0 ∨ 2 ^ 67 ≤ mask ∨ nrgOn s = false then .done s rState []
    else .waits { s with nrg := { s.nrg with clearReq := some (BitVec.ofNat 96 mask) } } (.clearMeters (BitVec.ofNat 96 mask))
  else if op = 0x1020 then .ofRes (ggeIndexOp s (a 0 4) (a 4 2))
  else if op = 0x1021 then .ofRes (ggeReadOp s (a 0 4) (a 4 8) (a 12 2))
  else if op = 0x1022 then .ofRes (ggeExportOp s (a 0 4) (a 4 1) (a 5 1) (a 6 8) (a 14 2))
  else if op = 0x2040 then .ofRes (ggeManualOp s)
  else if op = 0x8020 then .ofRes (ggeDeleteOp s (a 0 4))
  else if op = 0x1050 then .done s rOk (le 4 s.evr.count ++ le 2 s.evr.gen ++ le 2 s.evr.buf.length ++ le 4 s.evr.lost)
  else if op = 0x1051 then .ofRes (evrReadOp s (a 0 4) (a 4 2))
  else .ofRes (evrClearOp s m.ctx (a 0 4))

/-- Commands of slices. -/
def execSlice (s : State) (op : Nat) (a : Nat → Nat → Nat) : Act :=
  let i := a 0 1
  if op = 0x4001 then slcPart s i (a 1 1) (a 2 2)
  else if op = 0x4002 then
    match sliceCmd s i 3 with
    | some t => .waits t (.freeze i)
    | none => .done s rState []
  else if op = 0x4003 then .ofOption s (sliceCmd s i 4)
  else if op = 0x4004 then
    match (if 2 < a 1 1 then none else sliceCmd s i (5 + a 1 1)) with
    | some t => if a 1 1 = 1 then .waits t (.logSwap i) else .done t rOk []
    | none => .done s rState []
  else if op = 0x4005 then .ofOption s (sliceCmd s i 8)
  else if op = 0x4006 then slcMigSend s i (a 1 1) (a 2 2) (a 4 8) (a 12 4)
  else if op = 0x4007 then
    (if 64 ≤ i ∨ bgBusy s i = true ∨ (slOf s i).state ≠ .frozen then .done s rState [] else .bg s i (.save (a 1 8) (a 9 4)))
  else
    if 64 ≤ i ∨ bgBusy s i = true ∨ (slOf s i).state ≠ .free ∨ inDram s (a 1 8) (a 9 4) = false then .done s rState []
    else .bg s i (.restore (a 1 8) (a 9 4))

/-- Commands of Spindle, the safety island and the pair. -/
def execControl (s : State) (op : Nat) (a : Nat → Nat → Nat) : Act :=
  if op = 0x1030 then .ofRes (readVar s (a 0 4))
  else if op = 0x2050 then
    if !switchLegal s then .done s rState []
    else if spnWaits s then .waits s .switch
    else let (t, d) := doSwitch s; .done t rOk d
  else if op = 0x2051 then (if 1 < a 0 1 then .done s rState [] else .ofOption s (spnRun s (a 0 1 == 1)))
  else if op = 0x2052 then spnStop s
  else if op = 0x2053 then spnForce s (a 0 4) (BitVec.ofNat 64 (a 4 8)) (BitVec.ofNat 64 (a 12 8))
  else if op = 0x2054 then
    if spnWaits s then .waits s (.unforce (BitVec.ofNat 32 (a 0 4))) else .ofOption s (forceDel s (a 0 4))
  else if op = 0x2055 then (if spnWaits s then .waits s .unforceAll else .done (forceClear s) rOk [])
  else if op = 0x5011 then .ofRes (spnDiscard s)
  else if op = 0x2060 then
    if 3 < a 0 1 ∨ 1 < a 1 1 then .done s rState []
    else
      match sfiProof s (a 0 1) (a 1 1 == 1) with
      | (t, true) => .waits t (.proof (a 0 1))
      | (t, false) => .done t rState []
  else if op = 0x2061 then .ofBool s (sfiAck s)
  else if op = 0x2062 then (if 3 < a 0 1 then .done s rState [] else .ofBool s (sfiStop s (a 0 1)))
  else if op = 0x7001 then (if handoverLegal s then .done (offerToken s) rOk [] else .done s rState [])
  else if op = 0x7002 then .ofOption s (takeback s)
  else if op = 0x7003 then .ofOption s (rdnWithdraw s (a 0 1))
  else .done (rdnRestore s) rOk []

/-- Commands of Chuck, clocks and resets. -/
def execRoot (s : State) (m : CmdMsg) (op : Nat) (a : Nat → Nat → Nat) : Act :=
  if op = 0x1040 then .ofRes (attest s m.args)
  else if op = 0x1041 then .ofRes (pubkey s)
  else if op = 0x1042 then .ofRes (slotInfo s (a 0 1) (a 1 1))
  else if op = 0x5002 then .ofUpd (fwConfirm s)
  else if op = 0x6001 then .ofUpd (keyWrite s (a 0 1) (a 1 1) (a 2 4) (a 6 2) (a 8 2) (m.args.drop 10))
  else if op = 0x6002 then .ofUpd (keyErase s (a 0 1) (a 1 1))
  else if op = 0x6003 then .ofUpd (keyUpdate s m.args)
  else if op = 0x6005 then .ofRes (chkSeal s m.args)
  else if op = 0x6006 then .ofRes (chkDebug s (a 0 1))
  else if op = 0x2070 then .ofOption s (clkReturn s)
  else if op = 0x2080 then .done { s with aon := { s.aon with rstDue := true } } rOk []
  else if op = 0x2081 then .ofOption s (rstIsland s (a 0 1))
  else if op = 0x2082 then .ofOption s (pwrSleep s)
  else if op = 0x2083 then .ofOption s (pwrRun s)
  else (if deepLegal s then .done s rOk [] else .done s rState [])

/-- A command executed (R36). -/
def execute (s : State) (m : CmdMsg) : Act :=
  let op := m.opcode.toNat
  let a (k n : Nat) : Nat := numAt m.args k n
  let c := op / 4096
  let absent := match unitOf op with
    | some b => fusedOff s b 0
    | none => false
  let down := match unitOf op with
    | some b => isDown s (b.island 0)
    | none => false
  if m.late ∧ (c = 3 ∨ c = 4 ∨ c = 5 ∨ c = 6 ∨ c = 8) then .done s rState []
  else if absent || (op == 0x4006 && !pairPart s) then .done s rAbsent []
  else if down then .done s rFailed []
  else if (0x1001 ≤ op ∧ op ≤ 0x1004) ∨ c = 3 ∨ op = 0x5010 ∨ op = 0x5001 ∨ op = 0x6004 then execCore s m op a
  else if op = 0x2010 ∨ op = 0x2011 ∨ op = 0x2020 ∨ op = 0x2021 ∨ op = 0x2030 ∨ op = 0x2040 ∨ c = 8 ∨
    (0x1020 ≤ op ∧ op ≤ 0x1022) ∨ op = 0x1050 ∨ op = 0x1051 then execData s m op a
  else if c = 4 then execSlice s op a
  else if op = 0x1030 ∨ (0x2050 ≤ op ∧ op ≤ 0x2062) ∨ op = 0x5011 ∨ c = 7 then execControl s op a
  else execRoot s m op a

/-- What follows the response of a command (R394). -/
def afterEnd (s : State) (m : CmdMsg) (result : Nat) : State :=
  if m.opcode = 0x2084 ∧ result = rOk then deepEnter s else s

/-- The processor takes a command: journal entry, execution, and its end unless it waits. -/
def take (s : State) (m : CmdMsg) : State :=
  let (s, seq) := jnlOpen s m
  match execute s m with
  | .done t r d => afterEnd (finish t m seq r d) m r
  | .waits t w => { t with cmd := { t.cmd with exec := some { msg := m, seq := seq, wait := w } } }
  | .bg t i k =>
    { t with cmd := { t.cmd with bg := t.cmd.bg ++ [{ slice := i, msg := m, seq := seq, kind := k, live := true, failed := false }] } }

/-! ### The round-robin (R36, R39) -/

/-- May a message of a port be taken: the mailbox it came by holds no response back? -/
def servable (s : State) (m : CmdMsg) : Bool :=
  match m.ctx.port with
  | .host => s.cmd.hostHeld.isEmpty
  | .slice => !s.cmd.sliceHeld.any fun e => e.1 == m.ctx.index.toNat
  | _ => true

/-- The next message: the first servable one of the first port after the last one served that has any. -/
def nextMsg (s : State) : Option CmdMsg :=
  let ports := (List.range 6).map fun k => (s.cmd.rr + 1 + k) % 6
  ports.findSome? fun p => s.cmd.queue.find? fun m => portNum m.ctx.port == p && servable s m

/-- The list without the first element equal to one. -/
def dropFirst (l : List CmdMsg) (m : CmdMsg) : List CmdMsg :=
  (l.takeWhile fun x => x != m) ++ ((l.dropWhile fun x => x != m).drop 1)

def commandTake (s : State) : State :=
  if !cmdUp s || s.cmd.exec.isSome then s
  else
    match nextMsg s with
    | none => s
    | some m => take { s with cmd := { s.cmd with queue := dropFirst s.cmd.queue m, rr := portNum m.ctx.port } } m

/-- A command that comes at an idle processor is taken at once; else it waits in its queue. -/
def direct (s : State) (c : CmdCtx) (op : Nat) (args : List Byte) : State :=
  let m : RawMsg := { opcode := BitVec.ofNat 16 op, flags := 0, argLen := args.length, tag := c.tag, args := args }
  let idle := s.cmd.queue.isEmpty && s.cmd.exec.isNone
  let t := arrive s c true m
  if idle && !t.cmd.queue.isEmpty then commandTake t else t

/-- The object argument of a command: from HOST 8 bytes, else 4. -/
def objArgs (c : CmdCtx) (addr len : Nat) : List Byte := (if c.port = .host then le 8 addr else le 4 addr) ++ le 4 len

/-! ### Ends of waits -/

/-- What a waiting command's condition gives once it is met. -/
def waitEnd (s : State) (w : Wait) : Option (State × Nat × List Byte) :=
  match w with
  | .freeze i =>
    if (slOf s i).state = .freezing then none else some (s, if (slOf s i).state = .frozen then rOk else rFailed, [])
  | .logSwap i => if (slOf s i).swapping then none else some (s, if (slOf s i).log then rOk else rFailed, [])
  | .proof d =>
    if (drOf s d).state = .moving then none
    else some (s, if (drOf s d).faulted || (drOf s d).state == .disabled then rFailed else rOk, [])
  | .commit => (match s.chk.upd with
    | some u => u.result.map fun r => ({ s with chk := { s.chk with upd := none } }, r, [])
    | none => some (s, rFailed, []))
  | .clearMeters _ => if s.nrg.clearReq.isSome then none else some (s, if isUp s .phasor then rOk else rFailed, [])
  | w => if spnWaits s && isUp s .rt then none else spnAction s w

/-- The waiting command ends when it can. -/
def endWait (e : Exec) (r : State × Nat × List Byte) : State :=
  finish { r.1 with cmd := { r.1.cmd with exec := none } } e.msg e.seq r.2.1 r.2.2

def settleWaits (s : State) : State :=
  match s.cmd.exec with
  | none => s
  | some e =>
    match waitEnd s e.wait with
    | none => s
    | some r => endWait e r

/-- The boundary after an output phase: the actions of a waiting command (R300). -/
def boundary (s : State) : State :=
  match s.cmd.exec with
  | none => s
  | some e =>
    match spnAction s e.wait with
    | none => s
    | some r => endWait e r

/-- Everything that follows from a change: clocks, Tool rest, internal ports, pair and gates, migrations, waits. -/
def settled (f : State → State) (s : State) : State :=
  settleWaits (settleBg (gated (fun s => ipSettle (settleTool (settleClocks (f s)))) s))

/-- The frame of the meanings above the command processor. -/
def topRun (f : State → State) (s : State) : Host.Outcome State Fault Refusal := runOn (settled f) s

end Sys2Proof.Machine
end

