-- ==== Sys2Proof/Machine/CmdRows.lean ====
section
/-!
DEFINITION. The rows that are commands of the command processor. Each arrives on its port with its arguments laid out as
its rule gives them (R33, R37, R432 to R434 and the chapters' command tables) and is taken at once when the processor is
idle and its queues are empty; else it waits in its port's queue for COMMAND_TAKE.
-/

namespace Sys2Proof.Machine

/-- The next queued command is taken (R36). -/
def execCommandTake (s : State) : Host.Outcome State Fault Refusal := topRun (fun s => commandTake s) s

def execJnlInfo (c : CmdCtx) (s : State) : Host.Outcome State Fault Refusal :=
  topRun (fun s => direct s c 0x1001 []) s

def execJnlRead (c : CmdCtx) (first : Word) (count : BitVec 16) (s : State) : Host.Outcome State Fault Refusal :=
  topRun (fun s => direct s c 0x1002 (le 4 first.toNat ++ le 2 count.toNat)) s

def execRegRead (c : CmdCtx) (blk ins : BitVec 16) (off : Word) (s : State) : Host.Outcome State Fault Refusal :=
  topRun (fun s => direct s c 0x1003 (le 2 blk.toNat ++ le 2 ins.toNat ++ le 4 off.toNat)) s

def execCfgReportRead (c : CmdCtx) (first : Word) (count : BitVec 16) (s : State) : Host.Outcome State Fault Refusal :=
  topRun (fun s => direct s c 0x1004 (le 4 first.toNat ++ le 2 count.toNat)) s

def execRegWrite (c : CmdCtx) (blk ins : BitVec 16) (off mask value : Word) (s : State) :
    Host.Outcome State Fault Refusal :=
  topRun (fun s => direct s c 0x3001
    (le 2 blk.toNat ++ le 2 ins.toNat ++ le 4 off.toNat ++ le 4 mask.toNat ++ le 4 value.toNat)) s

def execStageWrite (c : CmdCtx) (off : Word) (data : List Byte) (s : State) : Host.Outcome State Fault Refusal :=
  topRun (fun s => direct s c 0x3002 (le 4 off.toNat ++ data)) s

def execCfgApply (c : CmdCtx) (addr : BitVec 64) (len : Word) (s : State) : Host.Outcome State Fault Refusal :=
  topRun (fun s => direct s c 0x3003 (objArgs c addr.toNat len.toNat)) s

def execTimSet (c : CmdCtx) (sec : BitVec 64) (ns : Word) (s : State) : Host.Outcome State Fault Refusal :=
  topRun (fun s => direct s c 0x2010 (le 8 sec.toNat ++ le 4 ns.toNat)) s

def execTimRerough (c : CmdCtx) (s : State) : Host.Outcome State Fault Refusal :=
  topRun (fun s => direct s c 0x2011 []) s

def execAcqCal (c : CmdCtx) (mask : Word) (s : State) : Host.Outcome State Fault Refusal :=
  topRun (fun s => direct s c 0x2020 (le 4 mask.toNat)) s

def execAcqSkewApply (c : CmdCtx) (mask : Word) (s : State) : Host.Outcome State Fault Refusal :=
  topRun (fun s => direct s c 0x2021 (le 4 mask.toNat)) s

def execNrgSave (c : CmdCtx) (s : State) : Host.Outcome State Fault Refusal :=
  topRun (fun s => direct s c 0x2030 []) s

def execNrgClear (c : CmdCtx) (mask : BitVec 96) (s : State) : Host.Outcome State Fault Refusal :=
  topRun (fun s => direct s c 0x8010 (le 12 mask.toNat)) s

def execGgeIndex (c : CmdCtx) (first : Word) (count : BitVec 16) (s : State) : Host.Outcome State Fault Refusal :=
  topRun (fun s => direct s c 0x1020 (le 4 first.toNat ++ le 2 count.toNat)) s

def execGgeRead (c : CmdCtx) (rec : Word) (off : BitVec 64) (len : BitVec 16) (s : State) :
    Host.Outcome State Fault Refusal :=
  topRun (fun s => direct s c 0x1021 (le 4 rec.toNat ++ le 8 off.toNat ++ le 2 len.toNat)) s

def execGgeExport (c : CmdCtx) (rec : Word) (part file : BitVec 8) (off : BitVec 64) (len : BitVec 16) (s : State) :
    Host.Outcome State Fault Refusal :=
  topRun (fun s => direct s c 0x1022
    (le 4 rec.toNat ++ le 1 part.toNat ++ le 1 file.toNat ++ le 8 off.toNat ++ le 2 len.toNat)) s

def execGgeManual (c : CmdCtx) (s : State) : Host.Outcome State Fault Refusal :=
  topRun (fun s => direct s c 0x2040 []) s

def execGgeDelete (c : CmdCtx) (count : Word) (s : State) : Host.Outcome State Fault Refusal :=
  topRun (fun s => direct s c 0x8020 (le 4 count.toNat)) s

def execSlcPart (c : CmdCtx) (i mode : BitVec 8) (timeout : BitVec 16) (s : State) : Host.Outcome State Fault Refusal :=
  topRun (fun s => direct s c 0x4001 (le 1 i.toNat ++ le 1 mode.toNat ++ le 2 timeout.toNat)) s

def execSlcFreeze (c : CmdCtx) (i : BitVec 8) (s : State) : Host.Outcome State Fault Refusal :=
  topRun (fun s => direct s c 0x4002 (le 1 i.toNat)) s

def execSlcResume (c : CmdCtx) (i : BitVec 8) (s : State) : Host.Outcome State Fault Refusal :=
  topRun (fun s => direct s c 0x4003 (le 1 i.toNat)) s

def execSlcLog (c : CmdCtx) (i op : BitVec 8) (s : State) : Host.Outcome State Fault Refusal :=
  topRun (fun s => direct s c 0x4004 (le 1 i.toNat ++ le 1 op.toNat)) s

def execSlcReceive (c : CmdCtx) (i : BitVec 8) (s : State) : Host.Outcome State Fault Refusal :=
  topRun (fun s => direct s c 0x4005 (le 1 i.toNat)) s

def execSlcMigSend (c : CmdCtx) (i d : BitVec 8) (flags : BitVec 16) (list : BitVec 64) (count : Word) (s : State) :
    Host.Outcome State Fault Refusal :=
  topRun (fun s => direct s c 0x4006
    (le 1 i.toNat ++ le 1 d.toNat ++ le 2 flags.toNat ++ le 8 list.toNat ++ le 4 count.toNat)) s

def execSlcSave (c : CmdCtx) (i : BitVec 8) (addr : BitVec 64) (maxLen : Word) (s : State) :
    Host.Outcome State Fault Refusal :=
  topRun (fun s => direct s c 0x4007 (le 1 i.toNat ++ le 8 addr.toNat ++ le 4 maxLen.toNat)) s

def execSlcRestore (c : CmdCtx) (i : BitVec 8) (addr : BitVec 64) (len : Word) (s : State) :
    Host.Outcome State Fault Refusal :=
  topRun (fun s => direct s c 0x4008 (le 1 i.toNat ++ le 8 addr.toNat ++ le 4 len.toNat)) s

def execSpnReadVar (c : CmdCtx) (id : Word) (s : State) : Host.Outcome State Fault Refusal :=
  topRun (fun s => direct s c 0x1030 (le 4 id.toNat)) s

def execSpnSwitch (c : CmdCtx) (s : State) : Host.Outcome State Fault Refusal :=
  topRun (fun s => direct s c 0x2050 []) s

def execSpnRun (c : CmdCtx) (mode : BitVec 8) (s : State) : Host.Outcome State Fault Refusal :=
  topRun (fun s => direct s c 0x2051 (le 1 mode.toNat)) s

def execSpnStop (c : CmdCtx) (s : State) : Host.Outcome State Fault Refusal :=
  topRun (fun s => direct s c 0x2052 []) s

def execSpnForce (c : CmdCtx) (id : Word) (mask value : BitVec 64) (s : State) : Host.Outcome State Fault Refusal :=
  topRun (fun s => direct s c 0x2053 (le 4 id.toNat ++ le 8 mask.toNat ++ le 8 value.toNat)) s

def execSpnUnforce (c : CmdCtx) (id : Word) (s : State) : Host.Outcome State Fault Refusal :=
  topRun (fun s => direct s c 0x2054 (le 4 id.toNat)) s

def execSpnUnforceAll (c : CmdCtx) (s : State) : Host.Outcome State Fault Refusal :=
  topRun (fun s => direct s c 0x2055 []) s

def execSpnLoad (c : CmdCtx) (addr : BitVec 64) (len : Word) (s : State) : Host.Outcome State Fault Refusal :=
  topRun (fun s => direct s c 0x5010 (objArgs c addr.toNat len.toNat)) s

def execSpnDiscard (c : CmdCtx) (s : State) : Host.Outcome State Fault Refusal :=
  topRun (fun s => direct s c 0x5011 []) s

def execSfiProof (c : CmdCtx) (d dir : BitVec 8) (s : State) : Host.Outcome State Fault Refusal :=
  topRun (fun s => direct s c 0x2060 (le 1 d.toNat ++ le 1 dir.toNat)) s

def execSfiAck (c : CmdCtx) (s : State) : Host.Outcome State Fault Refusal :=
  topRun (fun s => direct s c 0x2061 []) s

def execSfiStop (c : CmdCtx) (d : BitVec 8) (s : State) : Host.Outcome State Fault Refusal :=
  topRun (fun s => direct s c 0x2062 (le 1 d.toNat)) s

def execRdnHandover (c : CmdCtx) (s : State) : Host.Outcome State Fault Refusal :=
  topRun (fun s => direct s c 0x7001 []) s

def execRdnTakeback (c : CmdCtx) (s : State) : Host.Outcome State Fault Refusal :=
  topRun (fun s => direct s c 0x7002 []) s

def execRdnWithdraw (c : CmdCtx) (force : BitVec 8) (s : State) : Host.Outcome State Fault Refusal :=
  topRun (fun s => direct s c 0x7003 (le 1 force.toNat)) s

def execRdnRestore (c : CmdCtx) (s : State) : Host.Outcome State Fault Refusal :=
  topRun (fun s => direct s c 0x7004 []) s

def execChkAttest (c : CmdCtx) (nonce : List Byte) (s : State) : Host.Outcome State Fault Refusal :=
  topRun (fun s => direct s c 0x1040 nonce) s

def execChkPubkey (c : CmdCtx) (s : State) : Host.Outcome State Fault Refusal :=
  topRun (fun s => direct s c 0x1041 []) s

def execChkSlotInfo (c : CmdCtx) (kind slot : BitVec 8) (s : State) : Host.Outcome State Fault Refusal :=
  topRun (fun s => direct s c 0x1042 (le 1 kind.toNat ++ le 1 slot.toNat)) s

def execFwLoad (c : CmdCtx) (addr : BitVec 64) (len : Word) (s : State) : Host.Outcome State Fault Refusal :=
  topRun (fun s => direct s c 0x5001 (objArgs c addr.toNat len.toNat)) s

def execFwConfirm (c : CmdCtx) (s : State) : Host.Outcome State Fault Refusal :=
  topRun (fun s => direct s c 0x5002 []) s

def execKeyWrite (c : CmdCtx) (kind slot : BitVec 8) (id : Word) (usage len : BitVec 16) (value : List Byte) (s : State) :
    Host.Outcome State Fault Refusal :=
  topRun (fun s => direct s c 0x6001
    (le 1 kind.toNat ++ le 1 slot.toNat ++ le 4 id.toNat ++ le 2 usage.toNat ++ le 2 len.toNat ++ value)) s

def execKeyErase (c : CmdCtx) (kind slot : BitVec 8) (s : State) : Host.Outcome State Fault Refusal :=
  topRun (fun s => direct s c 0x6002 (le 1 kind.toNat ++ le 1 slot.toNat)) s

def execKeyUpdate (c : CmdCtx) (msg : List Byte) (s : State) : Host.Outcome State Fault Refusal :=
  topRun (fun s => direct s c 0x6003 msg) s

def execKeyUpdateStaged (c : CmdCtx) (addr : BitVec 64) (len : Word) (s : State) : Host.Outcome State Fault Refusal :=
  topRun (fun s => direct s c 0x6004 (objArgs c addr.toNat len.toNat)) s

def execChkSeal (c : CmdCtx) (digest : List Byte) (s : State) : Host.Outcome State Fault Refusal :=
  topRun (fun s => direct s c 0x6005 digest) s

def execChkDebug (c : CmdCtx) (on : BitVec 8) (s : State) : Host.Outcome State Fault Refusal :=
  topRun (fun s => direct s c 0x6006 (le 1 on.toNat)) s

def execEvrInfo (c : CmdCtx) (s : State) : Host.Outcome State Fault Refusal :=
  topRun (fun s => direct s c 0x1050 []) s

def execEvrRead (c : CmdCtx) (first : Word) (count : BitVec 16) (s : State) : Host.Outcome State Fault Refusal :=
  topRun (fun s => direct s c 0x1051 (le 4 first.toNat ++ le 2 count.toNat)) s

def execEvrClear (c : CmdCtx) (expected : Word) (s : State) : Host.Outcome State Fault Refusal :=
  topRun (fun s => direct s c 0x8030 (le 4 expected.toNat)) s

def execClkReturn (c : CmdCtx) (s : State) : Host.Outcome State Fault Refusal :=
  topRun (fun s => direct s c 0x2070 []) s

def execRstModule (c : CmdCtx) (s : State) : Host.Outcome State Fault Refusal :=
  topRun (fun s => direct s c 0x2080 []) s

def execRstIsland (c : CmdCtx) (i : BitVec 8) (s : State) : Host.Outcome State Fault Refusal :=
  topRun (fun s => direct s c 0x2081 (le 1 i.toNat)) s

def execPwrSleep (c : CmdCtx) (s : State) : Host.Outcome State Fault Refusal :=
  topRun (fun s => direct s c 0x2082 []) s

def execPwrRun (c : CmdCtx) (s : State) : Host.Outcome State Fault Refusal :=
  topRun (fun s => direct s c 0x2083 []) s

def execPwrDeep (c : CmdCtx) (s : State) : Host.Outcome State Fault Refusal :=
  topRun (fun s => direct s c 0x2084 []) s

end Sys2Proof.Machine
end

