-- ==== Sys2Proof/Machine/EventRows.lean ====
section
/-!
DEFINITION. The rows that are events of the time core, the phasor engine, the slices, Spindle, the safety island, the event
recorder, the clocks and the resets, each with everything that follows from it in the whole module.
-/

namespace Sys2Proof.Machine

/-! ### Time and phasors -/

def execGrainStrobe (s : State) : Host.Outcome State Fault Refusal := topRun (fun s => grainStrobe s) s

def execPhasorSet (s : State) : Host.Outcome State Fault Refusal := topRun (fun s => phasorNext s) s

/-- An Announce (R48, R55, R58): forwarded, and taken by the stack when it is one that the module accepts. Under SOURCE 0 a
valid offset and the leap flags go into TIM_UTC. -/
def announceReceive (s : State) (p : Nat) (f : Frame) : State :=
  if isDown s .time then s
  else if !isPtpPort s p then cnt s .tim 0 0xB0
  else
    let s := ptpRelay s p f (if f.stampLost then none else some (rxStamp s p 0))
    match f.pdu with
    | .raw _ | .sv _ | .goose _ | .ptp _ | .udp _ => s
    | .ann a =>
    if !annAccepted s p a then s
    else
      let s := announce s p a
      if fld s .tim 0x40 2 2 = 0 ∧ a.utcValid then
        (busWrite s { cls := .internal, index := 3 } .tim 0 0x54 0x3FFFF
          (min a.utcOffset 0xFFFF + ofBit a.leap61 16 + ofBit a.leap59 17)).st
      else s

def execAnnounceReceive (p : Fin 64) (f : Frame) (s : State) : Host.Outcome State Fault Refusal :=
  topRun (fun s => announceReceive s p.val f) s

/-! ### Slices -/

/-- A parting completes, and with it the SLC_PART that waits for it (R273, R283). -/
def partingComplete (s : State) (i : Nat) : State :=
  let x := slOf s i
  let t := partComplete s i
  if x.state = .parting ∧ (slOf t i).state = .free then partFinish t i x.escalated else t

def execPartingComplete (i : Fin 64) (s : State) : Host.Outcome State Fault Refusal :=
  topRun (fun s => partingComplete s i.val) s

def execFreezeDone (i : Fin 64) (s : State) : Host.Outcome State Fault Refusal := topRun (fun s => freezeDone s i.val) s

def execLogSwapDone (i : Fin 64) (s : State) : Host.Outcome State Fault Refusal := topRun (fun s => logSwapEnd s i.val) s

def execBackgroundComplete (i : Fin 64) (s : State) : Host.Outcome State Fault Refusal :=
  topRun (fun s => bgComplete s i.val) s

/-! ### Spindle -/

/-- The output phase, and the boundary after it when it ended a cycle (R291, R295, R300, R301). -/
def outputBoundary (s : State) : State :=
  let t := outputPhase s
  if s.spn.inCycle && !t.spn.inCycle then boundary t else t

def execOutputPhase (s : State) : Host.Outcome State Fault Refusal := topRun (fun s => outputBoundary s) s

def execSpnWatchdog (s : State) : Host.Outcome State Fault Refusal := topRun (fun s => spnWatchdog s) s

/-! ### The safety island -/

def execIslandCycle (s : State) : Host.Outcome State Fault Refusal := topRun (fun s => islandCycle s) s

def execPositionChange (d : Fin 4) (contacts : BitVec 2) (s : State) : Host.Outcome State Fault Refusal :=
  topRun (fun s => positionChange s d.val contacts.toNat) s

def execPositionFault (d : Fin 4) (s : State) : Host.Outcome State Fault Refusal := topRun (fun s => positionFault s d.val) s

def execEncoderEdge (d : Fin 4) (tracks : BitVec 2) (interval : Nat) (s : State) : Host.Outcome State Fault Refusal :=
  topRun (fun s => encoderEdge s d.val tracks.toNat interval) s

def execTravelTimeout (d : Fin 4) (s : State) : Host.Outcome State Fault Refusal := topRun (fun s => travelTimeout s d.val) s

def execSpeedTimeout (d : Fin 4) (s : State) : Host.Outcome State Fault Refusal := topRun (fun s => speedTimeout s d.val) s

def execTestPulse (o : Fin 8) (s : State) : Host.Outcome State Fault Refusal := topRun (fun s => testPulse s o.val) s

def execTestPulseEnd (o : Fin 8) (s : State) : Host.Outcome State Fault Refusal := topRun (fun s => testPulseEnd s o.val) s

def execRbMismatch (o : Fin 8) (s : State) : Host.Outcome State Fault Refusal := topRun (fun s => rbMismatch s o.val) s

def execSafetyWatchdog (s : State) : Host.Outcome State Fault Refusal := topRun (fun s => sfiWatchdog s) s

def execEccScrub (corrected : Nat) (bad : Bool) (s : State) : Host.Outcome State Fault Refusal :=
  topRun (fun s => eccScrub s corrected bad) s

def execClockCompare (deviates : Bool) (s : State) : Host.Outcome State Fault Refusal :=
  topRun (fun s => clockCompare s deviates) s

def execSelftest (pass : Bool) (s : State) : Host.Outcome State Fault Refusal := topRun (fun s => selftest s pass) s

def execParamCheck (s : State) : Host.Outcome State Fault Refusal := topRun (fun s => paramCheck s) s

def execDegWarning (s : State) : Host.Outcome State Fault Refusal := topRun (fun s => degWarning s) s

def execDegExpired (s : State) : Host.Outcome State Fault Refusal := topRun (fun s => degExpired s) s

/-! ### Chuck and the event recorder -/

def execSecureBoot (s : State) : Host.Outcome State Fault Refusal := topRun (fun s => securityBoot s) s

def execEventRecord (r : EvRec) (s : State) : Host.Outcome State Fault Refusal := topRun (fun s => evtRec s r) s

def execFlushPeriodic (s : State) : Host.Outcome State Fault Refusal :=
  topRun (fun s => if isUp s .memory then evrFlush s else s) s

/-! ### Clocks and the Tool rest -/

def execSourceStable (src : Source) (s : State) : Host.Outcome State Fault Refusal := topRun (fun s => countDone s src) s

def execMissingEdge (src : Source) (s : State) : Host.Outcome State Fault Refusal := topRun (fun s => missingEdge s src) s

def execFreqWindow (src : Source) (ppm : Int) (s : State) : Host.Outcome State Fault Refusal :=
  topRun (fun s => freqWindow s src ppm) s

def execForcedSwitch (aon : Bool) (s : State) : Host.Outcome State Fault Refusal := topRun (fun s => forcedDone s aon) s

def execPllLock (i : Island) (s : State) : Host.Outcome State Fault Refusal := topRun (fun s => pllLock s i) s

def execPllLockLoss (i : Island) (s : State) : Host.Outcome State Fault Refusal := topRun (fun s => pllLost s i) s

def execToolRestCondition (cause : Fin 8) (s : State) : Host.Outcome State Fault Refusal :=
  topRun (fun s => toolCause s cause.val true) s

def execToolRestConditionClear (cause : Fin 8) (s : State) : Host.Outcome State Fault Refusal :=
  topRun (fun s => toolCause s cause.val false) s

def execToolRestRelease (s : State) : Host.Outcome State Fault Refusal := topRun (fun s => toolRelease s) s

/-! ### Resets and power -/

def execPowerOnReset (s : State) : Host.Outcome State Fault Refusal := topRun (fun s => powerOnReset s) s

/-- Power-on reset is released, and a start of kind 1 is due (R390, R391). -/
def powerOnRelease (s : State) : State :=
  if s.aon.por then { s with aon := { s.aon with por := false, starting := some 1 } } else s

def execPowerOnRelease (s : State) : Host.Outcome State Fault Refusal := topRun (fun s => powerOnRelease s) s

def execStart (s : State) : Host.Outcome State Fault Refusal := topRun (fun s => startNow s) s

/-- An island is held in reset by a request for it alone (R384, R388). -/
def islandReset (s : State) (i : Island) : State := enterReset s i

def execIslandReset (i : Island) (s : State) : Host.Outcome State Fault Refusal := topRun (fun s => islandReset s i) s

/-- May an island that is held by itself be released: no start due, its clock made (R373, R391)? -/
def islandFree (s : State) (i : Island) : Bool :=
  mayRelease s && !s.aon.pinLow && !s.aon.rstLoss.toNat.testBit (islNum i) &&
    (if i == .safety then s.clk.rc.stable
     else clkEn s (islNum i) && (i == .acq || s.clk.lock.toNat.testBit (islNum i)))

def islandRelease (s : State) (i : Island) : State := if islandFree s i then leaveReset s i false else s

def execIslandRelease (i : Island) (s : State) : Host.Outcome State Fault Refusal := topRun (fun s => islandRelease s i) s

/-- RESET_N is accepted low (R386): a pin reset; in deep sleep the wake follows its release. -/
def pinReset (s : State) : State :=
  if s.aon.pinLow || !s.aon.pinArmed then s
  else
    let go := resettable s
    let s := { s with aon := { s.aon with pinLow := true } }
    if go then moduleReset s 2 else s

def execPinResetAssert (s : State) : Host.Outcome State Fault Refusal := topRun (fun s => pinReset s) s

/-- RESET_N is accepted high (R386, R396): the reset is released; a pin that was stuck is armed again. -/
def pinRelease (s : State) : State :=
  let stuck := !s.aon.pinArmed
  let low := s.aon.pinLow
  let s := { s with aon := { s.aon with pinArmed := true, stuck := s.aon.stuck && !stuck, pinLow := false } }
  if low && s.aon.pwr == 2 then wake s else s

def execPinResetRelease (s : State) : Host.Outcome State Fault Refusal := topRun (fun s => pinRelease s) s

/-- RESET_N has been low for 8 s (R386): the reset is released though the pin is low. -/
def pinStuck (s : State) : State :=
  if !s.aon.pinLow then s
  else
    let s := irq (cnt s .aon 0 0xB8) .aon 3
    let s := { s with aon := { s.aon with stuck := true, stuckDue := true, pinArmed := false, pinLow := false } }
    if s.aon.pwr == 2 then wake s else s

def execResetNStuck (s : State) : Host.Outcome State Fault Refusal := topRun (fun s => pinStuck s) s

/-- The module watchdog expires (R387). -/
def watchdogReset (s : State) : State := if resettable s then moduleReset (cnt s .aon 0 0xB4) 3 else s

def execModuleWatchdog (s : State) : Host.Outcome State Fault Refusal := topRun (fun s => watchdogReset s) s

/-- The reset that RST_MODULE announced (R388). -/
def softwareReset (s : State) : State := if s.aon.rstDue && resettable s then moduleReset s 4 else s

def execSoftwareReset (s : State) : Host.Outcome State Fault Refusal := topRun (fun s => softwareReset s) s

/-- WAKE_SEC seconds after the entry into deep sleep (R396). -/
def wakeTimer (s : State) : State :=
  let n := fld s .aon 0x48 0 22
  if s.aon.pwr == 2 && n != 0 then wake { s with aon := { s.aon with sec := max s.aon.sec (s.aon.secIn + n) } } else s

def execWakeTimer (s : State) : Host.Outcome State Fault Refusal := topRun (fun s => wakeTimer s) s

def execPowerFailWarning (s : State) : Host.Outcome State Fault Refusal := topRun (fun s => pfWarning s) s

def execPowerFailClear (s : State) : Host.Outcome State Fault Refusal := topRun (fun s => pfClear s) s

def execWithdrawRestore (s : State) : Host.Outcome State Fault Refusal := topRun (fun s => withdrawRestore s) s

/-- The level of PCIE_PERST_N (R408): low holds the PCIe host port in reset and its link down. -/
def pciePerst (s : State) (level : Bool) : State := { s with aon := { s.aon with perst := !level } }

def execPciePerst (level : Bool) (s : State) : Host.Outcome State Fault Refusal := topRun (fun s => pciePerst s level) s

/-! ### Nothing commanded -/

/-- The AON seconds counter while the Time island does not run (R395, R397): 2 ns more of the AON clock, when it has one. -/
def aonTick (s : State) : State :=
  if isUp s .time || !aonAlive s then s
  else if s.aon.secNs + 2 < 1000000000 then { s with aon := { s.aon with secNs := s.aon.secNs + 2 } }
  else { s with aon := { s.aon with sec := s.aon.sec + 1, secNs := 0 } }

/-- One cycle of the Time island passes (assumption 8): the timebase moves on, the switch reads billets in the slots
that begin, publications build pending states (R254), a commit of Chuck goes on (R350), and memory answers what the slices issued. -/
def oneCycle (s : State) : State :=
  let before := mono s
  let s := if isUp s .time then runSlots { s with tim := { s.tim with time := s.tim.time + cycleU s } } before else s
  let s := aonTick (gpPumpAll s)
  let s := if isUp s .security then commitStep s else s
  if isUp s .app then { s with slc := { s.slc with s := s.slc.s.map fun e => (e.1, { e.2 with outst := 0 }) } } else s

def idle (s : State) : Host.Outcome State Fault Refusal := topRun (fun s => oneCycle s) s

end Sys2Proof.Machine
end

