-- ==== Sys2Proof/Machine/PairRows.lean ====
section
/-!
DEFINITION. The rows of the redundant pair: its pins and time-outs, the Elade link with its frames, and the arbiter (R319 to
R342).
-/

namespace Sys2Proof.Machine

/-! ### Pins and time-outs -/

def execHeartbeatToggle (s : State) : Host.Outcome State Fault Refusal := topRun (fun s => heartbeatToggle s) s

/-- HB_OUT has not toggled for 10 µs: TOK_OUT is let go (R320). -/
def hbSupervisor (s : State) : State := { s with rdn := { s.rdn with hbSup := true } }

def execHbSupervisorExpiry (s : State) : Host.Outcome State Fault Refusal := topRun (fun s => hbSupervisor s) s

def execTokInChange (level : Bool) (s : State) : Host.Outcome State Fault Refusal := topRun (fun s => tokInChange s level) s

/-- The health bit of the command processor rises or falls; the other bits follow from the state (R322). -/
def cmdHealth (s : State) (ok : Bool) : State := { s with rdn := { s.rdn with cmdOk := ok && cmdUp s && !s.chk.recovery } }

def execHealthyChange (ok : Bool) (s : State) : Host.Outcome State Fault Refusal := topRun (fun s => cmdHealth s ok) s

def execStartTakeWait (s : State) : Host.Outcome State Fault Refusal := topRun (fun s => startTakeWait s) s

def execTaking (s : State) : Host.Outcome State Fault Refusal := topRun (fun s => takeToken s) s

def execTokStuck (s : State) : Host.Outcome State Fault Refusal := topRun (fun s => tokStuck s) s

/-- The life of HB_IN (R321): an edge begins it, 20 µs without one end it. -/
def hbInAlive (s : State) (alive : Bool) : State :=
  if isDown s .rt then s else { s with rdn := { s.rdn with hbIn := alive } }

def execHbInTimeout (s : State) : Host.Outcome State Fault Refusal := topRun (fun s => hbInAlive s false) s

def execHbInEdge (s : State) : Host.Outcome State Fault Refusal := topRun (fun s => hbInAlive s true) s

/-- No HB frame for 20 µs (R326). -/
def hbLinkDead (s : State) : State := { s with rdn := { s.rdn with elade := { s.rdn.elade with hbAlive := false } } }

def execLinkHbTimeout (s : State) : Host.Outcome State Fault Refusal := topRun (fun s => hbLinkDead s) s

def execTakeRepeat (s : State) : Host.Outcome State Fault Refusal := topRun (fun s => takeRepeat s) s

/-- The confirmation window ends (R338). -/
def windowEnd (s : State) : State := { s with rdn := { s.rdn with window := false } }

def execWindowExpiry (s : State) : Host.Outcome State Fault Refusal := topRun (fun s => windowEnd s) s

def execTakebackHoldoff (s : State) : Host.Outcome State Fault Refusal := topRun (fun s => takebackHoldoff s) s

/-! ### The Elade link -/

/-- At link-up the Headstock sends its whole retentive region (R329). -/
def withMirror (f : State → State) (s : State) : State :=
  let t := f s
  if !s.rdn.elade.up && t.rdn.elade.up && t.rdn.mstate == .headstock then mirrorFull t else t

/-- A HELLO or HELLO_ACK from the bytes of its frame. -/
def helloOf (b : List Byte) : Hello :=
  { pairId := BitVec.ofNat 32 (numAt b 0 4), side := BitVec.ofNat 8 (numAt b 4 1), lot := BitVec.ofNat 32 (numAt b 8 4),
    die := BitVec.ofNat 24 (numAt b 12 3), nonce := slice b 16 16, tag := slice b 32 32 }

/-- An HB frame from its bytes (R326). -/
def hbOf (b : List Byte) : HbFrame :=
  { health := BitVec.ofNat 32 (numAt b 0 4), flags := BitVec.ofNat 16 (numAt b 4 2), mstate := BitVec.ofNat 8 (numAt b 6 1),
    epoch := BitVec.ofNat 32 (numAt b 8 4), stamp := slice b 12 16 }

/-- What an accepted frame does; the errors that its acknowledgement carries come with the state. Responses and HANDOVER_ACK
change nothing here. -/
def linkAccepted (s : State) (f : LinkFrame) : State × Nat :=
  let b := f.payload
  let t := f.type.toNat
  if f.cls = 2 then (mirrorReceive s t b, 0)
  else if f.cls = 3 then migReceive s b
  else if t = 3 then
    let m := rawOf b (b.drop 16)
    (arrive s { port := .partner, index := 0, tag := m.tag } true m, 0)
  else if t = 5 then (stNumUpdate s (numAt b 0 2) (numAt b 4 4), 0)
  else if t = 6 then (onHandover s (numAt b 0 4), 0)
  else (s, 0)

/-- A cumulative acknowledgement with the errors it carries (R326, R280). -/
def ackTaken (s : State) (cls seq errs : Nat) : State :=
  let s := if cls = 3 ∧ errs ≠ 0 then
      { s with cmd := { s.cmd with bg := s.cmd.bg.map fun x => match x.kind with
          | .migSend d fl l n k e => { x with kind := .migSend d fl l n k (e + errs) }
          | _ => x } }
    else s
  if 1 ≤ cls ∧ cls ≤ 3 then ackReceive s cls seq else s

/-- A frame of the link (R325 to R328): only the next sequence of its class is accepted; what stands in order is
acknowledged. -/
def linkReceive (s : State) (f : LinkFrame) : State :=
  let c := f.cls.toNat
  let b := f.payload
  if !rdnOn s || !linkCrcOk f then s
  else if c = 0 then hbReceive s (hbOf b)
  else if c = 4 then ackTaken s (numAt b 0 1) (numAt b 4 4) (numAt b 1 3)
  else if c = 1 ∧ f.type = 1 then withMirror (fun s => onHello s (helloOf b)) s
  else if c = 1 ∧ f.type = 2 then withMirror (fun s => onHelloAck s (helloOf b)) s
  else if !s.rdn.elade.up || decide (3 < c) then s
  else
    let x := linkCls s c
    if f.seq.toNat ≠ x.nextRx then sendAck s c 0
    else
      let (s, errs) := linkAccepted (setLinkCls s c { x with nextRx := (x.nextRx + 1) % 2 ^ 32 }) f
      if s.rdn.elade.up then sendAck s c errs else s

def execHbFrameTransmit (s : State) : Host.Outcome State Fault Refusal := topRun (fun s => hbTransmit s) s

def execHbFrameReceive (h : HbFrame) (s : State) : Host.Outcome State Fault Refusal := topRun (fun s => hbReceive s h) s

def execLinkFrameReceive (f : LinkFrame) (s : State) : Host.Outcome State Fault Refusal := topRun (fun s => linkReceive s f) s

/-- The classes are CTRL, MIRROR and MIG. -/
def execAckReceive (cls : Fin 3) (seq : Word) (errs : BitVec 24) (s : State) : Host.Outcome State Fault Refusal :=
  topRun (fun s => ackTaken s (cls.val + 1) seq.toNat errs.toNat) s

def execRetransmitTimeout (cls : Fin 3) (s : State) : Host.Outcome State Fault Refusal :=
  topRun (fun s => retransmit s (cls.val + 1)) s

def execEladeLinkDown (s : State) : Host.Outcome State Fault Refusal := topRun (fun s => eladeDown s) s

def execLaneLock (lane : Fin 2) (s : State) : Host.Outcome State Fault Refusal := topRun (fun s => laneLock s lane.val) s

def execLaneDown (lane : Fin 2) (s : State) : Host.Outcome State Fault Refusal := topRun (fun s => laneDown s lane.val) s

def execHello (h : Hello) (s : State) : Host.Outcome State Fault Refusal := topRun (withMirror fun s => onHello s h) s

def execHelloAck (h : Hello) (s : State) : Host.Outcome State Fault Refusal := topRun (withMirror fun s => onHelloAck s h) s

def execHelloRetry (s : State) : Host.Outcome State Fault Refusal := topRun (fun s => helloStart s) s

/-! ### Arbitration -/

/-- STATUS every 10 ms (R332); that at a change of flags follows the change. -/
def execStatusTransmit (s : State) : Host.Outcome State Fault Refusal := topRun (fun s => sendToArb s 0x10 0) s

def execGrant (f : ArbFrame) (s : State) : Host.Outcome State Fault Refusal := topRun (fun s => onGrant s f) s

def execDeny (f : ArbFrame) (s : State) : Host.Outcome State Fault Refusal := topRun (fun s => onDeny s f) s

def execProbe (f : ArbFrame) (s : State) : Host.Outcome State Fault Refusal := topRun (fun s => onProbe s f) s

def execRevoke (f : ArbFrame) (s : State) : Host.Outcome State Fault Refusal := topRun (fun s => onRevoke s f) s

def execArbiterStart (s : State) : Host.Outcome State Fault Refusal := topRun (fun s => arbStart s) s

def execArbTake (f : ArbFrame) (dt : Nat) (s : State) : Host.Outcome State Fault Refusal := topRun (fun s => arbOnTake s f dt) s

def execArbHold (f : ArbFrame) (dt : Nat) (s : State) : Host.Outcome State Fault Refusal := topRun (fun s => arbOnHold s f dt) s

def execArbAbort (f : ArbFrame) (dt : Nat) (s : State) : Host.Outcome State Fault Refusal :=
  topRun (fun s => arbOnAbort s f dt) s

/-- STATUS at the arbiter: flags, epoch, and the holder that its flags show. -/
def execArbStatus (f : ArbFrame) (dt : Nat) (s : State) : Host.Outcome State Fault Refusal :=
  topRun (fun s => (arbHear s f dt).1) s

/-- ALIVE at the arbiter: it also decides the TAKE whose PROBE it answers. -/
def arbOnAlive (s : State) (f : ArbFrame) (dt : Nat) : State := (arbHear s f dt).1

def execArbAlive (f : ArbFrame) (dt : Nat) (s : State) : Host.Outcome State Fault Refusal :=
  topRun (fun s => arbOnAlive s f dt) s

def execProbeWaitExpiry (s : State) : Host.Outcome State Fault Refusal := topRun (fun s => probeWaitEnd s) s

end Sys2Proof.Machine
end

