-- ==== Sys2Proof/Machine/RegRows.lean ====
section
/-!
DEFINITION. The rows that are accesses to a register: each is a read or write on the register bus (R29 to R32) of the word
that its rule names, with everything that the access sets off.
-/

namespace Sys2Proof.Machine

/-- The words of the CMD mailbox (R39). -/
def mailboxWord (b : Blk) (o : Nat) : Bool := b == .cmd && (o == 0x50 || o == 0x54 || (decide (0x1000 ≤ o) && decide (o < 0x3000)))

/-- May the requester reach the word? A slice's guest has its own window alone, a PCIe host the CMD mailbox (R27); without a
requester there is no access. -/
def reaches (q : Requester) (b : Blk) (i o : Nat) : Bool :=
  match q.cls with
  | .none => false
  | .slice => b == .sw && i == q.index.toNat
  | .host => mailboxWord b o
  | _ => true

/-- Does an access of the requester come to the module? One of the host comes by the PCIe link alone. -/
def arrives (s : State) (q : Requester) : Bool := q.cls != .host || hostUp s

/-! ### Memory (R23 to R27, R220) -/

/-- May software on the physical map read `n` bytes: MRAM, the capture SRAM, DRAM? -/
def memReadable (s : State) (a n : Nat) : Bool :=
  (decide (0x50000000 ≤ a) && decide (a + n ≤ 0x54000000) && isUp s .memory) ||
    (decide (0x54000000 ≤ a) && decide (a + n ≤ 0x55000000) && isUp s .acq) || (inDram s a n && isUp s .memory)

/-- May it write them: the application partition of MRAM (R25), DRAM? -/
def memWritable (s : State) (a n : Nat) : Bool :=
  isUp s .memory && ((decide (0x52570000 ≤ a) && decide (a + n ≤ 0x54000000)) || inDram s a n)

/-- Where a requester's access to memory lands, with what a fault of the translation leaves: software by the physical
map, the host through device ID 64, a slice's guest in the memory that its context maps; no other class reaches memory. -/
def memPlace (s : State) (q : Requester) (a n : Nat) (write : Bool) : State × Option Nat :=
  let put : Trans → State × Option Nat
    | .at p _ => (s, if a % 4096 + n ≤ 4096 ∧ inDram s p n = true ∧ isUp s .memory = true then some p else none)
    | _ => (s, none)
  match q.cls with
  | .internal => (s, if (if write then memWritable s a n else memReadable s a n) then some a else none)
  | .slice => put (slTranslate s (q.index.toNat % 64) a write)
  | .host =>
    match hostTranslate s a write with
    | .fault c v => (iommuFault s 64 none a write c v, none)
    | r => put r
  | _ => (s, none)

/-- `n` bytes of memory written under a mask. -/
def memPut (s : State) (a n mask value : Nat) : State :=
  wrBytes s a ((List.range n).map fun k =>
    let m : Byte := BitVec.ofNat 8 (mask / 256 ^ k)
    (rdByte s (a + k) &&& ~~~m) ||| (BitVec.ofNat 8 (value / 256 ^ k) &&& m))

/-- A write of a page's word; a refused access ends with an error response (R15, R26). -/
def pageWrite (s : State) (q : Requester) (b : Blk) (i o mask value : Nat) : State :=
  if !arrives s q then s
  else if reaches q b i o then
    let w := busWrite s q b i o mask value
    if w.err then emit w.st (.busError q (b.base i + o)) else w.st
  else emit s (.busError q (b.base i + o))

/-- A write of 1 to the bits of a mask. -/
def pageSet (s : State) (q : Requester) (b : Blk) (i o mask : Nat) : State := pageWrite s q b i o mask mask

/-- A byte as the physical map shows it: memory, and in the header of the configuration store what it holds in a form that R42
does not print (assumption 101). -/
def mapByte (s : State) (a : Nat) : Byte :=
  if 0x50000000 ≤ a ∧ a < 0x50001000 then
    Config.storeHeader s.nv.startCount s.nv.restartCount (s.nv.cfg.map fun r => (r.addr, r.len))
      (s.nv.spn.map fun r => (r.addr, r.len)) (a - 0x50000000)
  else rdByte s a

/-- `n` bytes as the map shows them, little-endian. -/
def mapNum (s : State) (a n : Nat) : Nat := ofLe ((List.range n).map fun k => mapByte s (a + k))

/-- A write of `n` bytes to an address: in a page whole words alone (R26). -/
def addrWrite (s : State) (q : Requester) (n : AccSize) (a mask value : Nat) : State :=
  if !arrives s q then s else
  match wordAt a with
  | some (b, i, o) =>
    if n = .word then pageWrite s q b i o (mask % 2 ^ 32) (value % 2 ^ 32) else emit s (.busError q a)
  | none =>
    match memPlace s q a n.bytes true with
    | (s, some p) => memPut s p n.bytes mask value
    | (s, none) => emit s (.busError q a)

/-- A read of `n` bytes at an address. -/
def addrRead (s : State) (q : Requester) (n : AccSize) (a : Nat) : State :=
  if !arrives s q then s else
  match wordAt a with
  | some (b, i, o) =>
    if reaches q b i o = true ∧ n = .word then
      match busRead s b i o with
      | (s, some v) => emit s (.readData q a (BitVec.ofNat 64 v))
      | (s, none) => emit s (.busError q a)
    else emit s (.busError q a)
  | none =>
    match memPlace s q a n.bytes false with
    | (s, some p) => emit s (.readData q a (BitVec.ofNat 64 (mapNum s p n.bytes)))
    | (s, none) => emit s (.busError q a)

/-- A write to a slice's group of SLC. -/
def slcSet (s : State) (q : Requester) (i o mask value : Nat) : State := pageWrite s q .slc 0 (slOff i o) mask value

/-- S_OP with GO. -/
def slcGo (s : State) (q : Requester) (i op : Nat) : State := slcSet s q i 0x64 0x8000000F (0x80000000 + op)

/-- The command register of a table of SWC, SVS or PHX with GO. -/
def tableCmd (s : State) (q : Requester) (b : Blk) (o op : Nat) : State :=
  pageWrite s q b 0 o 0x80000003 (0x80000000 + op)

/-- SWC_FDB_CMD with GO (R115). -/
def fdbCmd (s : State) (q : Requester) (op arg : Nat) : State :=
  pageWrite s q .swc 0 0x10C 0x80007F07 (0x80000000 + arg * 256 + op)

/-! ### Rows of chapters 1 and 2 -/

def execWriteWord (q : Requester) (n : AccSize) (addr : Nat) (mask value : BitVec 64) (s : State) :
    Host.Outcome State Fault Refusal :=
  topRun (fun s => addrWrite s q n addr mask.toNat value.toNat) s

def execRcRead (q : Requester) (n : AccSize) (addr : Nat) (s : State) : Host.Outcome State Fault Refusal :=
  topRun (fun s => addrRead s q n addr) s

def execLock (q : Requester) (block i : Nat) (s : State) : Host.Outcome State Fault Refusal :=
  topRun (fun s => match Blk.ofCode block with
    | some b => pageSet s q b i 0x28 1
    | none => s) s

def execPrtSoftRst (q : Requester) (p : Fin 64) (s : State) : Host.Outcome State Fault Refusal :=
  topRun (fun s => pageSet s q .prt p.val 8 2) s

def execSwcSoftRst (q : Requester) (s : State) : Host.Outcome State Fault Refusal :=
  topRun (fun s => pageSet s q .swc 0 8 2) s

def execSvsSoftRst (q : Requester) (s : State) : Host.Outcome State Fault Refusal :=
  topRun (fun s => pageSet s q .svs 0 8 2) s

def execDecSoftRst (q : Requester) (s : State) : Host.Outcome State Fault Refusal :=
  topRun (fun s => pageSet s q .dec 0 8 2) s

/-- GO of the host's mailbox (R33, R433). -/
def execMbxGo (s : State) : Host.Outcome State Fault Refusal :=
  topRun (fun s => pageSet s { cls := .host, index := 0 } .cmd 0 0x50 1) s

/-- RSP_VALID cleared, of the host's mailbox or of a slice's (R39). -/
def execRspValidClear (sl : Option (Fin 64)) (s : State) : Host.Outcome State Fault Refusal :=
  topRun (fun s => match sl with
    | some i => pageSet s { cls := .slice, index := BitVec.ofNat 8 i.val } .sw i.val 0x74 2
    | none => pageSet s { cls := .host, index := 0 } .cmd 0 0x54 2) s

/-- GO of a slice's mailbox (R266). -/
def execSliceCmdGo (i : Fin 64) (s : State) : Host.Outcome State Fault Refusal :=
  topRun (fun s => pageSet s { cls := .slice, index := BitVec.ofNat 8 i.val } .sw i.val 0x70 1) s

/-! ### Time, ports and switch -/

/-- A write of SOURCE (R59, R60). -/
def execSourceChange (q : Requester) (src : BitVec 2) (s : State) : Host.Outcome State Fault Refusal :=
  topRun (fun s => pageWrite s q .tim 0 0x40 0xC (src.toNat * 4)) s

/-- A bit of Q_EN cleared (R80). -/
def execQueueDisable (q : Requester) (p : Fin 64) (queue : Fin 8) (s : State) : Host.Outcome State Fault Refusal :=
  topRun (fun s => pageWrite s q .prt p.val 0x60 (2 ^ queue.val) 0) s

/-- A pair word written (R88, R89, R96). -/
def execRedPairWrite (q : Requester) (n : Fin 16) (mask value : Word) (s : State) : Host.Outcome State Fault Refusal :=
  topRun (fun s => pageWrite s q .swc 0 (0x9000 + 4 * n.val) mask.toNat value.toNat) s

def execFdbWrite (q : Requester) (s : State) : Host.Outcome State Fault Refusal := topRun (fun s => fdbCmd s q 1 0) s

def execFdbDelete (q : Requester) (s : State) : Host.Outcome State Fault Refusal := topRun (fun s => fdbCmd s q 2 0) s

def execFdbRead (q : Requester) (s : State) : Host.Outcome State Fault Refusal := topRun (fun s => fdbCmd s q 3 0) s

def execFdbFlushPort (q : Requester) (p : Fin 68) (s : State) : Host.Outcome State Fault Refusal :=
  topRun (fun s => fdbCmd s q 4 p.val) s

def execFdbFlushVid (q : Requester) (s : State) : Host.Outcome State Fault Refusal := topRun (fun s => fdbCmd s q 5 0) s

def execFdbFlushAll (q : Requester) (s : State) : Host.Outcome State Fault Refusal := topRun (fun s => fdbCmd s q 6 0) s

def execClsWrite (q : Requester) (s : State) : Host.Outcome State Fault Refusal :=
  topRun (fun s => tableCmd s q .swc 0x160 1) s

def execClsRead (q : Requester) (s : State) : Host.Outcome State Fault Refusal :=
  topRun (fun s => tableCmd s q .swc 0x160 2) s

def execClsInvalidate (q : Requester) (s : State) : Host.Outcome State Fault Refusal :=
  topRun (fun s => tableCmd s q .swc 0x160 3) s

def execGrpWrite (q : Requester) (s : State) : Host.Outcome State Fault Refusal :=
  topRun (fun s => tableCmd s q .swc 0x190 1) s

def execGrpRead (q : Requester) (s : State) : Host.Outcome State Fault Refusal :=
  topRun (fun s => tableCmd s q .swc 0x190 2) s

/-! ### Streams, acquisition and phasors -/

def execSubWrite (q : Requester) (s : State) : Host.Outcome State Fault Refusal :=
  topRun (fun s => tableCmd s q .svs 0xA4 1) s

def execSubRead (q : Requester) (s : State) : Host.Outcome State Fault Refusal :=
  topRun (fun s => tableCmd s q .svs 0xA4 2) s

def execSubInvalidate (q : Requester) (s : State) : Host.Outcome State Fault Refusal :=
  topRun (fun s => tableCmd s q .svs 0xA4 3) s

/-- EN = 1 of a slice's SV ring or GOOSE ring (R135, R138). -/
def execRingEnable (q : Requester) (goose : Bool) (i : Fin 64) (s : State) : Host.Outcome State Fault Refusal :=
  topRun (fun s => pageSet (pageWrite s q .svs 0 0x100 0x3F i.val) q .svs 0 (if goose then 0x11C else 0x10C) 1) s

/-- A write of BANK (R149, R150). -/
def execBankChange (q : Requester) (c : Fin 24) (b : Bool) (s : State) : Host.Outcome State Fault Refusal :=
  topRun (fun s => pageWrite s q .acq 0 (0x100 + 0x40 * c.val) 4 (if b then 4 else 0)) s

def execPhxGrpWrite (q : Requester) (s : State) : Host.Outcome State Fault Refusal :=
  topRun (fun s => tableCmd s q .phx 0x190 1) s

def execPhxGrpRead (q : Requester) (s : State) : Host.Outcome State Fault Refusal :=
  topRun (fun s => tableCmd s q .phx 0x190 2) s

def execPhxGrpInvalidate (q : Requester) (s : State) : Host.Outcome State Fault Refusal :=
  topRun (fun s => tableCmd s q .phx 0x190 3) s

/-- EN = 1 of a synchrophasor stream (R182). -/
def execPmuStreamEnable (q : Requester) (st : Fin 64) (s : State) : Host.Outcome State Fault Refusal :=
  topRun (fun s => pageSet s q .phx 0 (0x2000 + 32 * st.val) 1) s

/-! ### Energy, records, slices, Chuck, clocks and the watchdog -/

/-- METER and GO of NRG_SNAP_CTL (R194). -/
def execSnapshotRequest (q : Requester) (m : Fin 67) (s : State) : Host.Outcome State Fault Refusal :=
  topRun (fun s => pageWrite s q .nrg 0 0x50 0x8000007F (0x80000000 + m.val)) s

/-- A write of BASE_GIB (R238). -/
def execStoreBaseChange (q : Requester) (base : BitVec 3) (s : State) : Host.Outcome State Fault Refusal :=
  topRun (fun s => pageWrite s q .gge 0 0x60 7 base.toNat) s

/-- EN = 1 of a slice (R264). -/
def execSliceEnable (q : Requester) (i : Fin 64) (s : State) : Host.Outcome State Fault Refusal :=
  topRun (fun s => slcSet s q i.val 0 1 1) s

/-- WEIGHT, RATE_EN, RATE and BURST, in this order (R270, R284). -/
def execShareWrite (q : Requester) (i : Fin 64) (k : Fin 4) (mask value : Word) (s : State) :
    Host.Outcome State Fault Refusal :=
  topRun (fun s =>
    if k.val = 1 then slcSet s q i.val 0 (Nat.land mask.toNat 16) value.toNat
    else slcSet s q i.val (if k.val = 0 then 0x30 else if k.val = 2 then 0x34 else 0x38) mask.toNat value.toNat) s

def execDrain (q : Requester) (i : Fin 64) (s : State) : Host.Outcome State Fault Refusal :=
  topRun (fun s => slcGo s q i.val 1) s

def execSquash (q : Requester) (i : Fin 64) (s : State) : Host.Outcome State Fault Refusal :=
  topRun (fun s => slcGo s q i.val 2) s

def execFreeze (q : Requester) (i : Fin 64) (s : State) : Host.Outcome State Fault Refusal :=
  topRun (fun s => slcGo s q i.val 3) s

def execResume (q : Requester) (i : Fin 64) (s : State) : Host.Outcome State Fault Refusal :=
  topRun (fun s => slcGo s q i.val 4) s

def execLogStart (q : Requester) (i : Fin 64) (s : State) : Host.Outcome State Fault Refusal :=
  topRun (fun s => slcGo s q i.val 5) s

def execLogSwap (q : Requester) (i : Fin 64) (s : State) : Host.Outcome State Fault Refusal :=
  topRun (fun s => slcGo s q i.val 6) s

def execLogStop (q : Requester) (i : Fin 64) (s : State) : Host.Outcome State Fault Refusal :=
  topRun (fun s => slcGo s q i.val 7) s

def execReceive (q : Requester) (i : Fin 64) (s : State) : Host.Outcome State Fault Refusal :=
  topRun (fun s => slcGo s q i.val 8) s

/-- CHK_EXT_GO (R354). -/
def execMeasurementExtend (q : Requester) (s : State) : Host.Outcome State Fault Refusal :=
  topRun (fun s => pageSet s q .chk 0 0xE4 1) s

/-- CLK_EN_RUN, CLK_EN_SLEEP and CLK_EN_DEEP, in this order (R382). -/
def execClockEnableWrite (q : Requester) (k : Fin 3) (mask value : Word) (s : State) : Host.Outcome State Fault Refusal :=
  topRun (fun s => pageWrite s q .clk 0 (0x48 + 4 * k.val) mask.toNat value.toNat) s

/-- AON_WDT_KICK (R387): the interval of the watchdog begins again; the expiry is the row MODULE_WATCHDOG. -/
def execWdtKick (q : Requester) (v : Word) (s : State) : Host.Outcome State Fault Refusal :=
  topRun (fun s => pageWrite s q .aon 0 0xA8 0xFFFFFFFF v.toNat) s

end Sys2Proof.Machine
end

