-- ==== Sys2Proof/Machine/Dispatch.lean ====
section
/-!
DEFINITION. The commands' meanings, one arm for each constructor of `Instr`.
-/

namespace Sys2Proof.Machine

def exec (i : Instr) (s : State) : Host.Outcome State Fault Refusal :=
  match i with
  | .writeWord q n addr mask value => Sys2Proof.Machine.execWriteWord q n addr mask value s
  | .rcRead q n addr => Sys2Proof.Machine.execRcRead q n addr s
  | .lock q block inst => Sys2Proof.Machine.execLock q block inst s
  | .prtSoftRst q p => Sys2Proof.Machine.execPrtSoftRst q p s
  | .swcSoftRst q => Sys2Proof.Machine.execSwcSoftRst q s
  | .svsSoftRst q => Sys2Proof.Machine.execSvsSoftRst q s
  | .decSoftRst q => Sys2Proof.Machine.execDecSoftRst q s
  | .mbxGo => Sys2Proof.Machine.execMbxGo s
  | .rspValidClear slice => Sys2Proof.Machine.execRspValidClear slice s
  | .sliceCmdGo sl => Sys2Proof.Machine.execSliceCmdGo sl s
  | .mgmtFrame p f => Sys2Proof.Machine.execMgmtFrame p f s
  | .consoleMessage m => Sys2Proof.Machine.execConsoleMessage m s
  | .debugMessage m => Sys2Proof.Machine.execDebugMessage m s
  | .commandTake => Sys2Proof.Machine.execCommandTake s
  | .jnlInfo c => Sys2Proof.Machine.execJnlInfo c s
  | .jnlRead c first count => Sys2Proof.Machine.execJnlRead c first count s
  | .regRead c blk inst off => Sys2Proof.Machine.execRegRead c blk inst off s
  | .cfgReportRead c first count => Sys2Proof.Machine.execCfgReportRead c first count s
  | .regWrite c blk inst off mask value => Sys2Proof.Machine.execRegWrite c blk inst off mask value s
  | .stageWrite c off data => Sys2Proof.Machine.execStageWrite c off data s
  | .cfgApply c addr len => Sys2Proof.Machine.execCfgApply c addr len s
  | .grainStrobe => Sys2Proof.Machine.execGrainStrobe s
  | .ptpFrameReceive p f dt => Sys2Proof.Machine.execPtpFrameReceive p f dt s
  | .announceReceive p f => Sys2Proof.Machine.execAnnounceReceive p f s
  | .announceTimeout p => Sys2Proof.Machine.execAnnounceTimeout p s
  | .pdelayReq p => Sys2Proof.Machine.execPdelayReq p s
  | .syncTransmit p => Sys2Proof.Machine.execSyncTransmit p s
  | .holdDelayExpiry => Sys2Proof.Machine.execHoldDelayExpiry s
  | .holdLimitExpiry => Sys2Proof.Machine.execHoldLimitExpiry s
  | .sourceChange q src => Sys2Proof.Machine.execSourceChange q src s
  | .leapSecond => Sys2Proof.Machine.execLeapSecond s
  | .ppsOutPulse => Sys2Proof.Machine.execPpsOutPulse s
  | .ppsWidthExpiry => Sys2Proof.Machine.execPpsWidthExpiry s
  | .ppsInEdge dt => Sys2Proof.Machine.execPpsInEdge dt s
  | .timSet c sec ns => Sys2Proof.Machine.execTimSet c sec ns s
  | .timRerough c => Sys2Proof.Machine.execTimRerough c s
  | .frameReceive p f dt => Sys2Proof.Machine.execFrameReceive p f dt s
  | .internalPortFrame ip f queue => Sys2Proof.Machine.execInternalPortFrame ip f queue s
  | .transmitStart p => Sys2Proof.Machine.execTransmitStart p s
  | .transmitEnd p => Sys2Proof.Machine.execTransmitEnd p s
  | .linkUp p => Sys2Proof.Machine.execLinkUp p s
  | .linkDown p cut => Sys2Proof.Machine.execLinkDown p cut s
  | .flushDone p => Sys2Proof.Machine.execFlushDone p s
  | .queueDisable q p queue => Sys2Proof.Machine.execQueueDisable q p queue s
  | .supervisionTransmit pair => Sys2Proof.Machine.execSupervisionTransmit pair s
  | .ddAgeExpiry pair src seq => Sys2Proof.Machine.execDdAgeExpiry pair src seq s
  | .redPairWrite q n mask value => Sys2Proof.Machine.execRedPairWrite q n mask value s
  | .fdbAgeExpiry => Sys2Proof.Machine.execFdbAgeExpiry s
  | .fdbWrite q => Sys2Proof.Machine.execFdbWrite q s
  | .fdbDelete q => Sys2Proof.Machine.execFdbDelete q s
  | .fdbRead q => Sys2Proof.Machine.execFdbRead q s
  | .fdbFlushPort q p => Sys2Proof.Machine.execFdbFlushPort q p s
  | .fdbFlushVid q => Sys2Proof.Machine.execFdbFlushVid q s
  | .fdbFlushAll q => Sys2Proof.Machine.execFdbFlushAll q s
  | .fdbOpDone => Sys2Proof.Machine.execFdbOpDone s
  | .clsWrite q => Sys2Proof.Machine.execClsWrite q s
  | .clsRead q => Sys2Proof.Machine.execClsRead q s
  | .clsInvalidate q => Sys2Proof.Machine.execClsInvalidate q s
  | .grpWrite q => Sys2Proof.Machine.execGrpWrite q s
  | .grpRead q => Sys2Proof.Machine.execGrpRead q s
  | .subscriberFrame p f dt => Sys2Proof.Machine.execSubscriberFrame p f dt s
  | .authVerify => Sys2Proof.Machine.execAuthVerify s
  | .subLost k => Sys2Proof.Machine.execSubLost k s
  | .offsetEstimateReplace k => Sys2Proof.Machine.execOffsetEstimateReplace k s
  | .alignWindowExpiry => Sys2Proof.Machine.execAlignWindowExpiry s
  | .gooseStale g => Sys2Proof.Machine.execGooseStale g s
  | .subWrite q => Sys2Proof.Machine.execSubWrite q s
  | .subRead q => Sys2Proof.Machine.execSubRead q s
  | .subInvalidate q => Sys2Proof.Machine.execSubInvalidate q s
  | .ringEnable q goose sl => Sys2Proof.Machine.execRingEnable q goose sl s
  | .localSample c bits => Sys2Proof.Machine.execLocalSample c bits s
  | .mdFault c level => Sys2Proof.Machine.execMdFault c level s
  | .mdFaultClear c bits => Sys2Proof.Machine.execMdFaultClear c bits s
  | .bankChange q c b => Sys2Proof.Machine.execBankChange q c b s
  | .rangeSwitch c => Sys2Proof.Machine.execRangeSwitch c s
  | .acqCal c mask => Sys2Proof.Machine.execAcqCal c mask s
  | .calOutToggle => Sys2Proof.Machine.execCalOutToggle s
  | .calDone => Sys2Proof.Machine.execCalDone s
  | .acqSkewApply c mask => Sys2Proof.Machine.execAcqSkewApply c mask s
  | .phasorSet => Sys2Proof.Machine.execPhasorSet s
  | .harmonicWindow e => Sys2Proof.Machine.execHarmonicWindow e s
  | .coefRegenerate => Sys2Proof.Machine.execCoefRegenerate s
  | .phxGrpWrite q => Sys2Proof.Machine.execPhxGrpWrite q s
  | .phxGrpRead q => Sys2Proof.Machine.execPhxGrpRead q s
  | .phxGrpInvalidate q => Sys2Proof.Machine.execPhxGrpInvalidate q s
  | .cfg2Periodic st => Sys2Proof.Machine.execCfg2Periodic st s
  | .pmuStreamEnable q st => Sys2Proof.Machine.execPmuStreamEnable q st s
  | .pmuCommandFrame p f => Sys2Proof.Machine.execPmuCommandFrame p f s
  | .dataOff st => Sys2Proof.Machine.execDataOff st s
  | .dataOn st => Sys2Proof.Machine.execDataOn st s
  | .sendCfg1 st => Sys2Proof.Machine.execSendCfg1 st s
  | .sendCfg2 st => Sys2Proof.Machine.execSendCfg2 st s
  | .snapshotRequest q meter => Sys2Proof.Machine.execSnapshotRequest q meter s
  | .snapshot => Sys2Proof.Machine.execSnapshot s
  | .energySavePeriodic => Sys2Proof.Machine.execEnergySavePeriodic s
  | .powerFailSaveRepeat => Sys2Proof.Machine.execPowerFailSaveRepeat s
  | .nrgSave c => Sys2Proof.Machine.execNrgSave c s
  | .nrgClear c mask => Sys2Proof.Machine.execNrgClear c mask s
  | .voltageEvent meter => Sys2Proof.Machine.execVoltageEvent meter s
  | .qualityInterval meter kind => Sys2Proof.Machine.execQualityInterval meter kind s
  | .wavefrontDetection ch => Sys2Proof.Machine.execWavefrontDetection ch s
  | .eventClose line => Sys2Proof.Machine.execEventClose line s
  | .reportRepeat line => Sys2Proof.Machine.execReportRepeat line s
  | .reflectionRecord line => Sys2Proof.Machine.execReflectionRecord line s
  | .lineRearm line => Sys2Proof.Machine.execLineRearm line s
  | .reportReceive p f dt => Sys2Proof.Machine.execReportReceive p f dt s
  | .triggerFiring unit => Sys2Proof.Machine.execTriggerFiring unit s
  | .recordOpen => Sys2Proof.Machine.execRecordOpen s
  | .recordClose => Sys2Proof.Machine.execRecordClose s
  | .ggeRearmExpiry => Sys2Proof.Machine.execGgeRearmExpiry s
  | .storeBaseChange q base => Sys2Proof.Machine.execStoreBaseChange q base s
  | .ggeIndex c first count => Sys2Proof.Machine.execGgeIndex c first count s
  | .ggeRead c rec off len => Sys2Proof.Machine.execGgeRead c rec off len s
  | .ggeExport c rec part file off len => Sys2Proof.Machine.execGgeExport c rec part file off len s
  | .ggeManual c => Sys2Proof.Machine.execGgeManual c s
  | .ggeDelete c count => Sys2Proof.Machine.execGgeDelete c count s
  | .dwVal sl w v => Sys2Proof.Machine.execDwVal sl w v s
  | .dwSet sl w v => Sys2Proof.Machine.execDwSet sl w v s
  | .dwClr sl w v => Sys2Proof.Machine.execDwClr sl w v s
  | .holdExpiry o => Sys2Proof.Machine.execHoldExpiry o s
  | .gooseRetransmit p => Sys2Proof.Machine.execGooseRetransmit p s
  | .biChange k level dt => Sys2Proof.Machine.execBiChange k level dt s
  | .sliceEnable q sl => Sys2Proof.Machine.execSliceEnable q sl s
  | .doorbell sl t => Sys2Proof.Machine.execDoorbell sl t s
  | .cqHeadWrite sl h => Sys2Proof.Machine.execCqHeadWrite sl h s
  | .schedulerRound => Sys2Proof.Machine.execSchedulerRound s
  | .shareWrite q sl reg mask value => Sys2Proof.Machine.execShareWrite q sl reg mask value s
  | .descriptorComplete sl => Sys2Proof.Machine.execDescriptorComplete sl s
  | .sliceFrameReceive f dt => Sys2Proof.Machine.execSliceFrameReceive f dt s
  | .drain q sl => Sys2Proof.Machine.execDrain q sl s
  | .squash q sl => Sys2Proof.Machine.execSquash q sl s
  | .partTimeout sl => Sys2Proof.Machine.execPartTimeout sl s
  | .partingComplete sl => Sys2Proof.Machine.execPartingComplete sl s
  | .freeze q sl => Sys2Proof.Machine.execFreeze q sl s
  | .freezeDone sl => Sys2Proof.Machine.execFreezeDone sl s
  | .resume q sl => Sys2Proof.Machine.execResume q sl s
  | .logStart q sl => Sys2Proof.Machine.execLogStart q sl s
  | .logSwap q sl => Sys2Proof.Machine.execLogSwap q sl s
  | .logSwapDone sl => Sys2Proof.Machine.execLogSwapDone sl s
  | .logStop q sl => Sys2Proof.Machine.execLogStop q sl s
  | .receive q sl => Sys2Proof.Machine.execReceive q sl s
  | .slcPart c sl mode timeout => Sys2Proof.Machine.execSlcPart c sl mode timeout s
  | .slcFreeze c sl => Sys2Proof.Machine.execSlcFreeze c sl s
  | .slcResume c sl => Sys2Proof.Machine.execSlcResume c sl s
  | .slcLog c sl op => Sys2Proof.Machine.execSlcLog c sl op s
  | .slcReceive c sl => Sys2Proof.Machine.execSlcReceive c sl s
  | .slcMigSend c sl d flags list count => Sys2Proof.Machine.execSlcMigSend c sl d flags list count s
  | .slcSave c sl addr maxLen => Sys2Proof.Machine.execSlcSave c sl addr maxLen s
  | .slcRestore c sl addr len => Sys2Proof.Machine.execSlcRestore c sl addr len s
  | .backgroundComplete sl => Sys2Proof.Machine.execBackgroundComplete sl s
  | .inputPhase => Sys2Proof.Machine.execInputPhase s
  | .outputPhase => Sys2Proof.Machine.execOutputPhase s
  | .spnWatchdog => Sys2Proof.Machine.execSpnWatchdog s
  | .gooseDecode => Sys2Proof.Machine.execGooseDecode s
  | .spnReadVar c id => Sys2Proof.Machine.execSpnReadVar c id s
  | .spnSwitch c => Sys2Proof.Machine.execSpnSwitch c s
  | .spnRun c mode => Sys2Proof.Machine.execSpnRun c mode s
  | .spnStop c => Sys2Proof.Machine.execSpnStop c s
  | .spnForce c id mask value => Sys2Proof.Machine.execSpnForce c id mask value s
  | .spnUnforce c id => Sys2Proof.Machine.execSpnUnforce c id s
  | .spnUnforceAll c => Sys2Proof.Machine.execSpnUnforceAll c s
  | .spnLoad c addr len => Sys2Proof.Machine.execSpnLoad c addr len s
  | .spnDiscard c => Sys2Proof.Machine.execSpnDiscard c s
  | .islandCycle => Sys2Proof.Machine.execIslandCycle s
  | .positionChange d contacts => Sys2Proof.Machine.execPositionChange d contacts s
  | .positionFault d => Sys2Proof.Machine.execPositionFault d s
  | .encoderEdge d tracks interval => Sys2Proof.Machine.execEncoderEdge d tracks interval s
  | .travelTimeout d => Sys2Proof.Machine.execTravelTimeout d s
  | .speedTimeout d => Sys2Proof.Machine.execSpeedTimeout d s
  | .testPulse o => Sys2Proof.Machine.execTestPulse o s
  | .rbMismatch o => Sys2Proof.Machine.execRbMismatch o s
  | .safetyWatchdog => Sys2Proof.Machine.execSafetyWatchdog s
  | .eccScrub corrected uncorrectable => Sys2Proof.Machine.execEccScrub corrected uncorrectable s
  | .clockCompare deviates => Sys2Proof.Machine.execClockCompare deviates s
  | .selftest pass => Sys2Proof.Machine.execSelftest pass s
  | .paramCheck => Sys2Proof.Machine.execParamCheck s
  | .degWarning => Sys2Proof.Machine.execDegWarning s
  | .degExpired => Sys2Proof.Machine.execDegExpired s
  | .sfiProof c d dir => Sys2Proof.Machine.execSfiProof c d dir s
  | .sfiAck c => Sys2Proof.Machine.execSfiAck c s
  | .sfiStop c d => Sys2Proof.Machine.execSfiStop c d s
  | .heartbeatToggle => Sys2Proof.Machine.execHeartbeatToggle s
  | .hbSupervisorExpiry => Sys2Proof.Machine.execHbSupervisorExpiry s
  | .tokInChange level => Sys2Proof.Machine.execTokInChange level s
  | .healthyChange cmdOk => Sys2Proof.Machine.execHealthyChange cmdOk s
  | .startTakeWait => Sys2Proof.Machine.execStartTakeWait s
  | .taking => Sys2Proof.Machine.execTaking s
  | .tokStuck => Sys2Proof.Machine.execTokStuck s
  | .hbInTimeout => Sys2Proof.Machine.execHbInTimeout s
  | .linkHbTimeout => Sys2Proof.Machine.execLinkHbTimeout s
  | .takeRepeat => Sys2Proof.Machine.execTakeRepeat s
  | .hbFrameTransmit => Sys2Proof.Machine.execHbFrameTransmit s
  | .hbFrameReceive h => Sys2Proof.Machine.execHbFrameReceive h s
  | .linkFrameReceive f => Sys2Proof.Machine.execLinkFrameReceive f s
  | .ackReceive cls seq errs => Sys2Proof.Machine.execAckReceive cls seq errs s
  | .retransmitTimeout cls => Sys2Proof.Machine.execRetransmitTimeout cls s
  | .eladeLinkDown => Sys2Proof.Machine.execEladeLinkDown s
  | .laneLock lane => Sys2Proof.Machine.execLaneLock lane s
  | .hello h => Sys2Proof.Machine.execHello h s
  | .helloAck h => Sys2Proof.Machine.execHelloAck h s
  | .helloRetry => Sys2Proof.Machine.execHelloRetry s
  | .statusTransmit => Sys2Proof.Machine.execStatusTransmit s
  | .grant f => Sys2Proof.Machine.execGrant f s
  | .deny f => Sys2Proof.Machine.execDeny f s
  | .probe f => Sys2Proof.Machine.execProbe f s
  | .revoke f => Sys2Proof.Machine.execRevoke f s
  | .arbiterStart => Sys2Proof.Machine.execArbiterStart s
  | .arbTake f dt => Sys2Proof.Machine.execArbTake f dt s
  | .arbHold f dt => Sys2Proof.Machine.execArbHold f dt s
  | .arbAbort f dt => Sys2Proof.Machine.execArbAbort f dt s
  | .arbStatus f dt => Sys2Proof.Machine.execArbStatus f dt s
  | .probeWaitExpiry => Sys2Proof.Machine.execProbeWaitExpiry s
  | .windowExpiry => Sys2Proof.Machine.execWindowExpiry s
  | .takebackHoldoff => Sys2Proof.Machine.execTakebackHoldoff s
  | .rdnHandover c => Sys2Proof.Machine.execRdnHandover c s
  | .rdnTakeback c => Sys2Proof.Machine.execRdnTakeback c s
  | .rdnWithdraw c force => Sys2Proof.Machine.execRdnWithdraw c force s
  | .rdnRestore c => Sys2Proof.Machine.execRdnRestore c s
  | .chkAttest c nonce => Sys2Proof.Machine.execChkAttest c nonce s
  | .chkPubkey c => Sys2Proof.Machine.execChkPubkey c s
  | .chkSlotInfo c kind slot => Sys2Proof.Machine.execChkSlotInfo c kind slot s
  | .fwLoad c addr len => Sys2Proof.Machine.execFwLoad c addr len s
  | .fwConfirm c => Sys2Proof.Machine.execFwConfirm c s
  | .keyWrite c kind slot id usage len value => Sys2Proof.Machine.execKeyWrite c kind slot id usage len value s
  | .keyErase c kind slot => Sys2Proof.Machine.execKeyErase c kind slot s
  | .keyUpdate c msg => Sys2Proof.Machine.execKeyUpdate c msg s
  | .keyUpdateStaged c addr len => Sys2Proof.Machine.execKeyUpdateStaged c addr len s
  | .chkSeal c digest => Sys2Proof.Machine.execChkSeal c digest s
  | .chkDebug c on => Sys2Proof.Machine.execChkDebug c on s
  | .remask => Sys2Proof.Machine.execRemask s
  | .tagScrub => Sys2Proof.Machine.execTagScrub s
  | .measurementExtend q => Sys2Proof.Machine.execMeasurementExtend q s
  | .secureBoot => Sys2Proof.Machine.execSecureBoot s
  | .eventRecord r => Sys2Proof.Machine.execEventRecord r s
  | .flushPeriodic => Sys2Proof.Machine.execFlushPeriodic s
  | .evrInfo c => Sys2Proof.Machine.execEvrInfo c s
  | .evrRead c first count => Sys2Proof.Machine.execEvrRead c first count s
  | .evrClear c expected => Sys2Proof.Machine.execEvrClear c expected s
  | .sourceStable src => Sys2Proof.Machine.execSourceStable src s
  | .missingEdge src => Sys2Proof.Machine.execMissingEdge src s
  | .freqWindow src ppm => Sys2Proof.Machine.execFreqWindow src ppm s
  | .forcedSwitch aon => Sys2Proof.Machine.execForcedSwitch aon s
  | .pllLock k => Sys2Proof.Machine.execPllLock k s
  | .pllLockLoss k => Sys2Proof.Machine.execPllLockLoss k s
  | .clkReturn c => Sys2Proof.Machine.execClkReturn c s
  | .toolRestCondition cause => Sys2Proof.Machine.execToolRestCondition cause s
  | .toolRestRelease => Sys2Proof.Machine.execToolRestRelease s
  | .clockEnableWrite q reg mask value => Sys2Proof.Machine.execClockEnableWrite q reg mask value s
  | .powerOnReset => Sys2Proof.Machine.execPowerOnReset s
  | .powerOnRelease => Sys2Proof.Machine.execPowerOnRelease s
  | .start => Sys2Proof.Machine.execStart s
  | .islandReset k => Sys2Proof.Machine.execIslandReset k s
  | .islandRelease k => Sys2Proof.Machine.execIslandRelease k s
  | .pinResetAssert => Sys2Proof.Machine.execPinResetAssert s
  | .pinResetRelease => Sys2Proof.Machine.execPinResetRelease s
  | .resetNStuck => Sys2Proof.Machine.execResetNStuck s
  | .wdtKick q v => Sys2Proof.Machine.execWdtKick q v s
  | .moduleWatchdog => Sys2Proof.Machine.execModuleWatchdog s
  | .rstModule c => Sys2Proof.Machine.execRstModule c s
  | .softwareReset => Sys2Proof.Machine.execSoftwareReset s
  | .rstIsland c k => Sys2Proof.Machine.execRstIsland c k s
  | .pwrSleep c => Sys2Proof.Machine.execPwrSleep c s
  | .pwrRun c => Sys2Proof.Machine.execPwrRun c s
  | .pwrDeep c => Sys2Proof.Machine.execPwrDeep c s
  | .wakeTimer => Sys2Proof.Machine.execWakeTimer s
  | .powerFailWarning => Sys2Proof.Machine.execPowerFailWarning s
  | .powerFailClear => Sys2Proof.Machine.execPowerFailClear s
  | .withdrawRestore => Sys2Proof.Machine.execWithdrawRestore s
  | .pciePerst level => Sys2Proof.Machine.execPciePerst level s
  | .hbInEdge => Sys2Proof.Machine.execHbInEdge s
  | .laneDown lane => Sys2Proof.Machine.execLaneDown lane s
  | .arbAlive f dt => Sys2Proof.Machine.execArbAlive f dt s
  | .toolRestConditionClear cause => Sys2Proof.Machine.execToolRestConditionClear cause s
  | .travellingWaveSample ch => Sys2Proof.Machine.execTravellingWaveSample ch s
  | .testPulseEnd o => Sys2Proof.Machine.execTestPulseEnd o s

end Sys2Proof.Machine
end

