-- ==== Sys2Proof/WellFormed.lean ====
section
/-!
DEFINITION. Which terms of `Instr` stand for something that can reach the block: byte strings of the sizes that their rules
fix, and numbers within what their fields can carry. A row whose operands are bit vectors or bounded numbers admits every
value.
-/

namespace Sys2Proof

/-- A PTP message: seconds of 48 bits, nanoseconds below one second, a correction of 64 bits (R55, R56). -/
def PtpMsg.wf (m : PtpMsg) : Bool :=
  decide (m.sec < 2 ^ 48) && decide (m.ns < 1000000000) && decide (-(2 ^ 63) ≤ m.correction) && decide (m.correction < 2 ^ 63)

/-- An Announce: stepsRemoved and the offset are fields of 16 bits (R48, R55). -/
def Announce.wf (a : Announce) : Bool := decide (a.stepsRemoved < 2 ^ 16) && decide (a.utcOffset < 2 ^ 16)

/-- An SV ASDU: the fields of its numbers (R119, R126 to R128). -/
def Asdu.wf (a : Asdu) : Bool :=
  decide (a.smpCnt < 2 ^ 16) && decide (a.smpSynch < 256) && decide (a.confRev < 2 ^ 32) &&
    a.smpRate.all (fun n => decide (n < 2 ^ 16)) && a.smpMod.all fun n => decide (n < 2 ^ 16)

/-- A GOOSE message: the fields of its numbers (R119, R136). -/
def GoosePdu.wf (p : GoosePdu) : Bool :=
  decide (p.stNum < 2 ^ 32) && decide (p.sqNum < 2 ^ 32) && decide (p.confRev < 2 ^ 32) && decide (p.tal < 2 ^ 32) &&
    decide (p.numEntries < 2 ^ 32)

/-- What a frame carries is such a message where it is one. -/
def Pdu.wf : Pdu → Bool
  | .raw _ | .udp _ => true
  | .sv p => p.asdus.all fun a => a.wf
  | .goose p => p.wf
  | .ptp m => m.wf
  | .ann a => a.wf

/-- A frame: its length is that of a frame on the wire (R73) and its content is well formed. -/
def Frame.wf (f : Frame) : Bool := decide (f.len < 2 ^ 16) && f.pdu.wf

/-- A command message: the length field has 16 bits (R37). -/
def RawMsg.wf (m : RawMsg) : Bool := decide (m.argLen < 2 ^ 16)

/-- An arbitration frame: its stamp has 16 bytes and its tag 32 (R331). -/
def ArbFrame.wf (f : ArbFrame) : Bool := f.time.length == 16 && f.tag.length == 32

/-- A link frame: a payload of at most 4,160 bytes (R325). -/
def LinkFrame.wf (f : LinkFrame) : Bool := decide (f.payload.length ≤ 4160)

/-- A HELLO: a nonce of 16 bytes and a tag of 32 (R328). -/
def Hello.wf (h : Hello) : Bool := h.nonce.length == 16 && h.tag.length == 32

/-- An HB frame: a stamp of 16 bytes (R326). -/
def HbFrame.wf (h : HbFrame) : Bool := h.stamp.length == 16

/-- The checks of a command, row by row where it has one. -/
def Instr.wf : Instr → Bool
  | .mgmtFrame _ f | .frameReceive _ f _ | .internalPortFrame _ f _ | .subscriberFrame _ f _ | .pmuCommandFrame _ f
  | .reportReceive _ f _ | .sliceFrameReceive f _ | .ptpFrameReceive _ f _ | .announceReceive _ f => f.wf
  | .linkDown _ cut => match cut with
    | some (f, n) => f.wf && decide (n ≤ f.len)
    | none => true
  | .consoleMessage m | .debugMessage m => m.wf
  | .stageWrite _ _ data => decide (data.length ≤ 4076)
  | .chkAttest _ nonce => nonce.length == 32
  | .keyWrite _ _ _ _ _ len value => value.length == len.toNat && decide (value.length ≤ 4070)
  | .keyUpdate _ msg => decide (msg.length ≤ 4080)
  | .chkSeal _ digest => digest.length == 32
  | .hbFrameReceive h => h.wf
  | .linkFrameReceive f => f.wf
  | .hello h | .helloAck h => h.wf
  | .grant f | .deny f | .probe f | .revoke f | .arbTake f _ | .arbHold f _ | .arbAbort f _ | .arbStatus f _
  | .arbAlive f _ => f.wf
  | .writeWord .. | .rcRead .. | .lock .. | .prtSoftRst .. | .swcSoftRst .. | .svsSoftRst .. | .decSoftRst ..
  | .mbxGo .. | .rspValidClear .. | .sliceCmdGo .. | .commandTake .. | .jnlInfo .. | .jnlRead .. | .regRead ..
  | .cfgReportRead .. | .regWrite .. | .cfgApply .. | .grainStrobe .. | .announceTimeout .. | .pdelayReq ..
  | .syncTransmit .. | .holdDelayExpiry .. | .holdLimitExpiry .. | .sourceChange .. | .leapSecond ..
  | .ppsOutPulse .. | .ppsWidthExpiry .. | .ppsInEdge .. | .timSet .. | .timRerough .. | .transmitStart ..
  | .transmitEnd .. | .linkUp .. | .flushDone .. | .queueDisable .. | .supervisionTransmit ..
  | .ddAgeExpiry .. | .redPairWrite .. | .fdbAgeExpiry .. | .fdbWrite .. | .fdbDelete .. | .fdbRead ..
  | .fdbFlushPort .. | .fdbFlushVid .. | .fdbFlushAll .. | .fdbOpDone .. | .clsWrite .. | .clsRead ..
  | .clsInvalidate .. | .grpWrite .. | .grpRead .. | .authVerify .. | .subLost .. | .offsetEstimateReplace ..
  | .alignWindowExpiry .. | .gooseStale .. | .subWrite .. | .subRead .. | .subInvalidate .. | .ringEnable ..
  | .localSample .. | .mdFault .. | .mdFaultClear .. | .bankChange .. | .rangeSwitch .. | .acqCal ..
  | .calOutToggle .. | .calDone .. | .acqSkewApply .. | .phasorSet .. | .harmonicWindow .. | .coefRegenerate ..
  | .phxGrpWrite .. | .phxGrpRead .. | .phxGrpInvalidate .. | .cfg2Periodic .. | .pmuStreamEnable .. | .dataOff ..
  | .dataOn .. | .sendCfg1 .. | .sendCfg2 .. | .snapshotRequest .. | .snapshot .. | .energySavePeriodic ..
  | .powerFailSaveRepeat .. | .nrgSave .. | .nrgClear .. | .voltageEvent .. | .qualityInterval ..
  | .wavefrontDetection .. | .eventClose .. | .reportRepeat .. | .reflectionRecord .. | .lineRearm ..
  | .triggerFiring .. | .recordOpen .. | .recordClose .. | .ggeRearmExpiry .. | .storeBaseChange .. | .ggeIndex ..
  | .ggeRead .. | .ggeExport .. | .ggeManual .. | .ggeDelete .. | .dwVal .. | .dwSet .. | .dwClr .. | .holdExpiry ..
  | .gooseRetransmit .. | .biChange .. | .sliceEnable .. | .doorbell .. | .cqHeadWrite .. | .schedulerRound ..
  | .shareWrite .. | .descriptorComplete .. | .drain .. | .squash .. | .partTimeout .. | .partingComplete ..
  | .freeze .. | .freezeDone .. | .resume .. | .logStart .. | .logSwap .. | .logSwapDone .. | .logStop ..
  | .receive .. | .slcPart .. | .slcFreeze .. | .slcResume .. | .slcLog .. | .slcReceive .. | .slcMigSend ..
  | .slcSave .. | .slcRestore .. | .backgroundComplete .. | .inputPhase .. | .outputPhase .. | .spnWatchdog ..
  | .gooseDecode .. | .spnReadVar .. | .spnSwitch .. | .spnRun .. | .spnStop .. | .spnForce .. | .spnUnforce ..
  | .spnUnforceAll .. | .spnLoad .. | .spnDiscard .. | .islandCycle .. | .positionChange .. | .positionFault ..
  | .encoderEdge .. | .travelTimeout .. | .speedTimeout .. | .testPulse .. | .rbMismatch .. | .safetyWatchdog ..
  | .eccScrub .. | .clockCompare .. | .selftest .. | .paramCheck .. | .degWarning .. | .degExpired .. | .sfiProof ..
  | .sfiAck .. | .sfiStop .. | .heartbeatToggle .. | .hbSupervisorExpiry .. | .tokInChange .. | .healthyChange ..
  | .startTakeWait .. | .taking .. | .tokStuck .. | .hbInTimeout .. | .linkHbTimeout .. | .takeRepeat ..
  | .hbFrameTransmit .. | .ackReceive .. | .retransmitTimeout .. | .eladeLinkDown .. | .laneLock .. | .helloRetry ..
  | .statusTransmit .. | .arbiterStart .. | .probeWaitExpiry .. | .windowExpiry .. | .takebackHoldoff ..
  | .rdnHandover .. | .rdnTakeback .. | .rdnWithdraw .. | .rdnRestore .. | .chkPubkey .. | .chkSlotInfo ..
  | .fwLoad .. | .fwConfirm .. | .keyErase .. | .keyUpdateStaged .. | .chkDebug .. | .remask .. | .tagScrub ..
  | .measurementExtend .. | .secureBoot .. | .eventRecord .. | .flushPeriodic .. | .evrInfo .. | .evrRead ..
  | .evrClear .. | .sourceStable .. | .missingEdge .. | .freqWindow .. | .forcedSwitch .. | .pllLock ..
  | .pllLockLoss .. | .clkReturn .. | .toolRestCondition .. | .toolRestRelease .. | .clockEnableWrite ..
  | .powerOnReset .. | .powerOnRelease .. | .start .. | .islandReset .. | .islandRelease .. | .pinResetAssert ..
  | .pinResetRelease .. | .resetNStuck .. | .wdtKick .. | .moduleWatchdog .. | .rstModule .. | .softwareReset ..
  | .rstIsland .. | .pwrSleep .. | .pwrRun .. | .pwrDeep .. | .wakeTimer .. | .powerFailWarning ..
  | .powerFailClear .. | .withdrawRestore .. | .pciePerst .. | .hbInEdge .. | .laneDown ..
  | .toolRestConditionClear .. | .travellingWaveSample .. | .testPulseEnd .. => true

end Sys2Proof
end

