-- ==== Sys2Proof/Safety.lean ====
section
/-!
DEFINITION. What counts as a safe step and a sound state, in the terms that the statements use.
-/

namespace Sys2Proof.Machine

/-- Stored memory in its canonical form, and no write left over from a step. -/
def State.sound (s : State) : Bool := Memory.wf s.mem && s.wr.isEmpty

/-- What no command of any kind changes of a module: its variant and identity, and the seal once it is set (R2, R347). -/
def sameModule (s t : State) : Prop :=
  t.fuse.variant = s.fuse.variant ∧ t.fuse.lot = s.fuse.lot ∧ t.fuse.wafer = s.fuse.wafer ∧ t.fuse.dieX = s.fuse.dieX ∧
    t.fuse.dieY = s.fuse.dieY ∧ (s.fuse.sealed = true → t.fuse.sealed = true)

/-- The command runs to its end: it answers a next state, of the same module and with the same commands still waiting, of
which `p` holds. -/
def completes (i : Instr) (s : State) (p : State → Prop) : Prop :=
  ∃ t, exec i s = .next t ∧ t.pending = s.pending ∧ sameModule s t ∧ p t

/-- A run of some number of steps, each of which answers a next state. -/
inductive StepsTo : Nat → State → State → Prop where
  | none (s : State) : StepsTo 0 s s
  | more {n : Nat} {s t u : State} (h : step s = .next t) (r : StepsTo n t u) : StepsTo (n + 1) s u

/-- What a state becomes when a command's effect on it is `e`: what follows at once from `e` (R14, R32, R402 and the
conditions that act by themselves), and the end of the step. -/
def after (s e : State) : State := stepEnd s (settled (fun _ => e) s)

/-- The same where only the pair and the gates can follow (R250, R307, R320, R332). -/
def afterPair (s e : State) : State := stepEnd s (gated (fun _ => e) s)

/-! ### Commands of the command processor -/

/-- The message of a command that arrives in a state. -/
def msgOf (s : State) (c : CmdCtx) (op : Nat) (args : List Byte) : CmdMsg :=
  { ctx := c, opcode := BitVec.ofNat 16 op, args := args, late := s.aon.pf }

/-- The processor is idle with nothing waiting, and takes this command from its port: the port is open, every check of R433
passes, the mailbox holds no response back, and for the host there is a PCIe link (R33 to R37, R39, R408). -/
def ready (s : State) (c : CmdCtx) (op : Nat) (args : List Byte) : Bool :=
  (cmdUp s && (c.port != .host || hostUp s)) && portOpen s c.port &&
    (msgCheck s c true
      { opcode := BitVec.ofNat 16 op, flags := 0, argLen := args.length, tag := c.tag, args := args }).isNone &&
    servable s (msgOf s c op args) && s.cmd.exec.isNone && s.cmd.queue.isEmpty

/-- The unit of the command is on this part with its island up, and no power-fail warning refuses it (R3, R15, R398). -/
def unitReady (s : State) (op : Nat) : Bool :=
  !(s.aon.pf && [3, 4, 5, 6, 8].contains (op / 4096)) &&
    match unitOf op with
    | some b => !fusedOff s b 0 && isUp s (b.island 0)
    | none => true

/-- The state on which a command acts: it is out of its queue, and its entry stands in the journal (R36, R44). -/
def opened (s : State) (c : CmdCtx) (op : Nat) (args : List Byte) : State :=
  (jnlOpen { s with cmd := { s.cmd with queue := [], rr := portNum c.port } } (msgOf s c op args)).1

/-- The command has ended in `t` with a result and data: the journal entry takes the result, the response goes the way the
command came (R37, R39, R44). -/
def ended (s : State) (c : CmdCtx) (op : Nat) (args : List Byte) (t : State) (r : Nat) (data : List Byte) : State :=
  finish t (msgOf s c op args) (nextSeq s.nv.jnlNewest) r data

/-- The command runs to its end with OK: its effect, its journal entry and its response are in place in the state it answers. -/
def done (i : Instr) (s : State) (c : CmdCtx) (op : Nat) (args : List Byte) (t : State) (data : List Byte) : Prop :=
  exec i s = .next (after s (ended s c op args t rOk data))

/-- The command waits in the processor. -/
def waiting (s : State) (c : CmdCtx) (op : Nat) (args : List Byte) (t : State) (w : Wait) : State :=
  { t with cmd := { t.cmd with exec := some { msg := msgOf s c op args, seq := nextSeq s.nv.jnlNewest, wait := w } } }

/-- The command goes on in the background, for a slice. -/
def started (s : State) (c : CmdCtx) (op : Nat) (args : List Byte) (t : State) (i : Nat) (k : BgKind) : State :=
  { t with
    cmd := { t.cmd with
      bg := t.cmd.bg ++
        [{ slice := i, msg := msgOf s c op args, seq := nextSeq s.nv.jnlNewest, kind := k, live := true, failed := false }] } }

/-- What a command that did `a` to the state it acts on leaves. -/
def left (s : State) (c : CmdCtx) (op : Nat) (args : List Byte) : Act → State
  | .done t r d => ended s c op args t r d
  | .waits t w => waiting s c op args t w
  | .bg t i k => started s c op args t i k

/-- A command that finds the processor ready and its unit there answers a next state: on the state with its entry open it does
what `act` says, and no more than what follows from that. -/
def answers (i : Instr) (s : State) (c : CmdCtx) (op : Nat) (args : List Byte) (act : State → Act) : Prop :=
  ready s c op args = true → unitReady s op = true →
    exec i s = .next (after s (left s c op args (act (opened s c op args))))

/-! ### Registers -/

/-- The requester reaches the word, which is there: the access is no error, and its unit is on the part (R3, R15, R26). -/
def accessible (s : State) (q : Requester) (b : Blk) (i o : Nat) : Bool :=
  (arrives s q && reaches q b i o) && !accessErr s b i o && !fusedOff s b i && !(b == .sw && windowFault s i o)

/-- A word written, with the requester in PG_OWNER (R29, R30). -/
def wordPut (s : State) (q : Requester) (b : Blk) (i o v : Nat) : State :=
  setReg (setReg s b i o v) b i 0x2C (ownerWord q)

/-- Registers that are those of a state but for two words. -/
def sameBut (s : State) (r : List (Nat × Word)) (k1 k2 : Nat) : Prop :=
  ∀ k, k ≠ k1 → k ≠ k2 → findK r k = findK s.regs k

end Sys2Proof.Machine
end

