-- ==== Sys2Proof/Certificates/Slice0/Obligations.lean ====
section
/-!
DEFINITION. The statements for the provers. A statement about a command says what state follows its effect: `after s e` is the
effect `e` with what follows from it at once in the module, `stepEnd s e` the effect alone, `afterPair s e` the effect with what
follows for the pair and the gates.
-/

open Sys2Proof Sys2Proof.Machine

/-! ### The machine as a whole -/

/-- A step runs the command at the front of the queue on the state with the queue's rest. -/
def Obligations.StepRunsFrontCommand : Prop :=
  ∀ (s : State) (c : Instr) (rest : List Instr), s.pending = c :: rest → step s = exec c { s with pending := rest }

/-- On an empty queue one cycle of the Time island passes (the model's choice, assumption 8): while the island runs the timebase
moves on by the cycle's length, whichever other block does what. -/
def Obligations.EmptyQueueOneCycle : Prop :=
  ∀ s : State, s.pending = [] →
    step s = .next (after s (oneCycle s)) ∧ (isUp s .time = true → (oneCycle s).tim.time = s.tim.time + cycleU s) ∧
      (isUp s .time = false → (oneCycle s).tim = s.tim)

/-- Every command runs to its end in every state: a next state, the same commands still waiting, no write left over, of the
same module (R2), whose seal stays once it is set (R347). -/
def Obligations.EveryCommandAnswers : Prop :=
  ∀ (i : Instr) (s : State), ∃ t, exec i s = .next t ∧ t.pending = s.pending ∧ t.wr = [] ∧ sameModule s t

/-- Every step keeps memory in its canonical form and leaves no write over. -/
def Obligations.StepKeepsSound : Prop :=
  ∀ s t : State, s.sound = true → step s = .next t → t.sound = true

/-- The state after reset is sound, its queue is empty. After reset: power-on reset is asserted, every island but AON is held
in reset, the module is blank, the Tool rest forces by its cause 0 alone, no port is up, time is invalid with quality 3, the
safety island is in RESET and the event log and the journal are empty. The values that the spec leaves open are the model's
(assumptions 1 to 6). -/
def Obligations.StateAfterReset : Prop :=
  (State.reset.sound = true ∧ State.reset.pending = []) ∧
  (State.reset.aon.por = true ∧ (∀ i, i ≠ .aon → held State.reset i = true) ∧ held State.reset .aon = false ∧
     blank State.reset = true ∧ State.reset.clk.forcing = true ∧ State.reset.clk.cause = 1 ∧
     State.reset.ports.link = 0 ∧ State.reset.tim.servo = .invalid ∧ State.reset.tim.quality = 3 ∧
     State.reset.regs = [] ∧ State.reset.evr.count = 0 ∧ State.reset.nv.jnlCount = 0 ∧ State.reset.mem = [])

/-- A byte reads as it was last written, every other address as before, and the form is kept. Memories in the canonical form
that read alike are equal. Bytes written in one step stand in memory after it: the last write to an address wins, an address
not written reads as before. -/
def Obligations.MemoryLaws : Prop :=
  (∀ (m : List Host.Cell) (a : Nat) (v : Byte), Memory.wf m = true →
     Memory.wf (memWrite m a v) = true ∧ memRead (memWrite m a v) a = v ∧
       ∀ b, b ≠ a → memRead (memWrite m a v) b = memRead m b) ∧
  (∀ m n : List Host.Cell, Memory.wf m = true → Memory.wf n = true → (∀ a, memRead m a = memRead n a) → m = n) ∧
  (∀ (s t : State) (a : Nat), Memory.wf s.mem = true → t.mem = s.mem → rdByte (stepEnd s t) a = rdByte t a)

/-- Where nothing waits and an effect moves neither clocks, Tool rest, internal ports, slices' background work, the pair nor
the module's token, the command leaves that effect and no more. -/
def Obligations.NothingFollows : Prop :=
  ∀ s e : State, settleClocks e = e → settleTool e = e → ipSettle e = e → rdnSettle e = e → sfiGate e = e →
    settleBg e = e → e.cmd.exec = none → tokenOk e = tokenOk s → e.clk.forcing = s.clk.forcing → arbFlags e = arbFlags s →
    after s e = stepEnd s e

/-- Over a run of any length from a sound state, whatever commands it holds: memory stays in its canonical form, the module
keeps its variant and identity (R2), and a sealed module stays sealed (R347). -/
def Obligations.AnyRunSameModule : Prop :=
  ∀ (n : Nat) (s t : State), s.sound = true → StepsTo n s t → t.sound = true ∧ sameModule s t

/-! ### Registers -/

/-- WRITE_WORD and RC_READ of an accessible word: the write is the clamp rule's with all it sets off; a read answers the word,
and an RC word stands at its reset value afterwards while any other word is left (R8, R29, R32). The read of a low word latches
the high words, which read as they then stood (R69, R403, R434). -/
def Obligations.WriteWordAndRead : Prop :=
  ∀ (s : State) (q : Requester) (a : Nat) (m v : BitVec 64) (b : Blk) (i o : Nat),
    wordAt a = some (b, i, o) → accessible s q b i o = true →
      (exec (.writeWord q .word a m v) s = .next (after s (busWrite s q b i o (m.toNat % 2 ^ 32) (v.toNat % 2 ^ 32)).st) ∧
        (busWrite s q b i o (m.toNat % 2 ^ 32) (v.toNat % 2 ^ 32)).err = false) ∧
      exec (.rcRead q .word a) s =
        .next (after s (emit (busRead s b i o).1 (.readData q a (BitVec.ofNat 64 ((busRead s b i o).2.getD 0))))) ∧
      (latched b o = false → (busRead s b i o).2 = some (peekWord s b i o)) ∧
      (∀ h ∈ latches b o, latchedWord (busRead s b i o).1 b i h = peekWord s b i h % 2 ^ 32) ∧
      (latched b o = false → latches b o = [] → ¬(b = .prt ∧ (o = 0x104 ∨ o = 0x154)) →
        (busRead s b i o).1 =
          if (fieldsOf b o).any (fun f => f.acc == .rc) then setReg s b i o (resetWord b i o) else s)

/-- An access to a reserved range or beyond the end of DRAM, or to a word of a register block or slice window that is not there, not
whole or not aligned, or whose island is down, ends with an error response and has no effect (R15, R26); so do a PCIe host's to a
register block beside the mailbox (R27) and a store into the other units' MRAM and the capture SRAM (R25, R220). Software reads and
writes the application partition and DRAM, in bytes, halfwords, words and 64-bit words: the bytes under the mask and no others
(R23, R25). An access of the host comes by the PCIe link alone (R408). -/
def Obligations.FailedAccess : Prop :=
  ∀ (s : State) (q : Requester) (n : AccSize) (a : Nat) (m v : BitVec 64),
    let fails := exec (.writeWord q n a m v) s = .next (after s (emit s (.busError q a))) ∧
      exec (.rcRead q n a) s = .next (after s (emit s (.busError q a)))
    (q.cls ≠ .host → q.cls ≠ .slice →
      a < 0x40000000 ∨ (0x40440000 ≤ a ∧ a < 0x40500000) ∨ (0x41500000 ≤ a ∧ a < 0x48000000) ∨
        (0x48400000 ≤ a ∧ a < 0x50000000) ∨ (0x55000000 ≤ a ∧ a < 0x800000000) ∨ dramEnd s ≤ a → fails) ∧
    (∀ (b : Blk) (i o : Nat), wordAt a = some (b, i, o) →
      (o % 4 ≠ 0 → accessErr s b i o = true) ∧
      (fusedOff s b i = false → isDown s (b.island i) = true ∨ fieldsOf b o = [] → accessErr s b i o = true) ∧
      (q.cls = .host → mailboxWord b o = false → reaches q b i o = false) ∧
      (arrives s q = true → n ≠ .word → fails) ∧
      (arrives s q = true → accessErr s b i o = true ∨ reaches q b i o = false →
        exec (.writeWord q .word a m v) s = .next (after s (emit s (.busError q (b.base i + o)))) ∧
          exec (.rcRead q .word a) s = .next (after s (emit s (.busError q a))))) ∧
    (arrives s q = false → exec (.writeWord q n a m v) s = .next (after s s) ∧ exec (.rcRead q n a) s = .next (after s s)) ∧
    (q.cls = .internal → (0x50000000 ≤ a ∧ a < 0x52570000) ∨ (0x54000000 ≤ a ∧ a < 0x55000000) →
      exec (.writeWord q n a m v) s = .next (after s (emit s (.busError q a)))) ∧
    (q.cls = .internal → isUp s .memory = true →
      (0x52570000 ≤ a ∧ a + n.bytes ≤ 0x54000000) ∨ (0x800000000 ≤ a ∧ a + n.bytes ≤ dramEnd s) →
        exec (.writeWord q n a m v) s = .next (after s (memPut s a n.bytes m.toNat v.toNat)) ∧
        exec (.rcRead q n a) s = .next (after s (emit s (.readData q a (BitVec.ofNat 64 (rdNum s a n.bytes))))) ∧
        (∀ k, k < n.bytes → rdByte (memPut s a n.bytes m.toNat v.toNat) (a + k) =
          (rdByte s (a + k) &&& ~~~(m.extractLsb' (8 * k) 8)) ||| (v.extractLsb' (8 * k) 8 &&& m.extractLsb' (8 * k) 8)) ∧
        ∀ x, x < a ∨ a + n.bytes ≤ x → rdByte (memPut s a n.bytes m.toNat v.toNat) x = rdByte s x)

/-- The page of a unit fused off (R3), whether or not its island is held or clocked: its words read 0 but for PG_ID, which reads as
ever, and a write to it does nothing, without an error; REG_READ answers the same words with OK; REG_WRITE and every command of the
unit end with ABSENT and change nothing, with their entry in the journal; a record of an image that names it is skipped, with
nothing changed. -/
def Obligations.FusedOffPage : Prop :=
  ∀ (s : State) (b : Blk) (i o : Nat), fusedOff s b i = true →
    let shown : Nat := if o = 0 then b.code * 65536 + i else 0
    (i < b.insts → o % 4 = 0 → b ≠ .sw → accessErr s b i o = false) ∧
    (∀ (q : Requester) (a : Nat) (m v : BitVec 64), wordAt a = some (b, i, o) → arrives s q = true → reaches q b i o = true →
      accessErr s b i o = false →
      exec (.writeWord q .word a m v) s = .next (after s s) ∧
        exec (.rcRead q .word a) s = .next (after s (emit s (.readData q a (BitVec.ofNat 64 shown))))) ∧
    (i < b.insts → o < b.size → accessErr s b i o = false → i < 65536 → o < 2 ^ 32 →
      ∀ c : CmdCtx,
        (let args := le 2 b.code ++ le 2 i ++ le 4 o
         ready s c 0x1003 args = true → unitReady s 0x1003 = true →
           done (.regRead c (BitVec.ofNat 16 b.code) (BitVec.ofNat 16 i) (BitVec.ofNat 32 o)) s c 0x1003 args
             (opened s c 0x1003 args) (le 4 shown)) ∧
        ∀ m v : Word,
          let args := le 2 b.code ++ le 2 i ++ le 4 o ++ le 4 m.toNat ++ le 4 v.toNat
          ready s c 0x3001 args = true → unitReady s 0x3001 = true →
            exec (.regWrite c (BitVec.ofNat 16 b.code) (BitVec.ofNat 16 i) (BitVec.ofNat 32 o) m v) s =
              .next (after s (ended s c 0x3001 args (opened s c 0x3001 args) rAbsent []))) ∧
    (∀ (c : CmdCtx) (op : Nat) (args : List Byte), op < 0x10000 → i = 0 → unitOf op = some b → s.aon.pf = false →
      execute (opened s c op args) (msgOf s c op args) = .done (opened s c op args) rAbsent []) ∧
    ∀ (q : Requester) (k : Nat) (e : CfgRec) (r : Report),
      e.code = b.code → e.inst = i → (applyRecord q k e s r).1 = s ∧ (applyRecord q k e s r).2.applied = r.applied ∧
        (applyRecord q k e s r).2.skipped = r.skipped + 1

/-- EN of a pair word (R86): a write that would set it is clamped to 0 when the two ports are the same, have another speed, are
absent on the part, or one is in another enabled pair; in every other case it is set; a write of 0 clears it. -/
def Obligations.PairEnableClamped : Prop :=
  ∀ (s : State) (n : Fin 16) (m v : Word), bit m.toNat 31 = true →
    let w := wordStep s .swc 0 (0x9000 + 4 * n.val) m.toNat v.toNat
    let a := pairA w.new
    let b := pairB w.new
    let used (p : Nat) : Prop := ∃ k, k < 16 ∧ k ≠ n.val ∧ pairEn (pairWord s k) = true ∧
      (pairA (pairWord s k) = p ∨ pairB (pairWord s k) = p)
    let clamped : Prop := a = b ∨ speedOf s a ≠ speedOf s b ∨ used a ∨ used b ∨ portPresent s a = false ∨ portPresent s b = false
    (bit v.toNat 31 = false → pairEn w.new = false ∧ w.clamps = []) ∧
    (bit v.toNat 31 = true → clamped → pairEn w.new = false ∧ ∃ e ∈ w.clamps, e.lsb = 31 ∧ e.value = 1 ∧ e.applied = 0) ∧
    (bit v.toNat 31 = true → ¬clamped → pairEn w.new = true ∧ w.clamps = [])

/-- A field that the clamp rule applies a value to holds a legal value of its range: unsigned values lie between the bounds
on a step from the lower one, signed ones between the bounds, enumerated ones among the listed; a legal value is kept as it
was written (R32). -/
def Obligations.ClampGivesLegalValue : Prop :=
  (∀ w lo hi step v : Nat, lo ≤ hi → 0 < step →
      lo ≤ clampVal w (.u lo hi step) v ∧ clampVal w (.u lo hi step) v ≤ hi ∧
        (clampVal w (.u lo hi step) v - lo) % step = 0 ∧
        (lo ≤ v → v ≤ hi → (v - lo) % step = 0 → clampVal w (.u lo hi step) v = v)) ∧
    (∀ (w v : Nat) (lo hi : Int), 0 < w → -((2 ^ (w - 1) : Nat) : Int) ≤ lo → lo ≤ hi → hi < ((2 ^ (w - 1) : Nat) : Int) →
      lo ≤ toSigned w (clampVal w (.s lo hi) v) ∧ toSigned w (clampVal w (.s lo hi) v) ≤ hi ∧
        (v < 2 ^ w → lo ≤ toSigned w v → toSigned w v ≤ hi → clampVal w (.s lo hi) v = v)) ∧
    ∀ (w fb v : Nat) (l : List Nat), fb ∈ l →
      clampVal w (.en l fb) v ∈ l ∧ (v ∈ l → clampVal w (.en l fb) v = v) ∧ (v ∉ l → clampVal w (.en l fb) v = fb)

/-- A write keeps every bit of a word outside the fields that its mask touches and that are writable; and with PG_LOCK set, an
RWL field keeps its value (R29, R31, R32). The condition of a trigger unit on a BFA-6440-S is apart: where a write of COND or SRC
leaves SRC at a travelling-wave channel, COND is 0 (R4). -/
def Obligations.WriteKeepsOtherBits : Prop :=
  (∀ (s : State) (b : Blk) (i o m v n : Nat),
     (b = .gge → s.fuse.variant = .s → o % 0x20 = 0 → o < 0x1000 ∨ 3 ≤ n) →
     (∀ f ∈ fieldsAt s b o, f.lsb ≤ n → n < f.lsb + f.w →
       f.writable = false ∨ getBits m f.lsb f.w = 0 ∨ (f.acc = .rwl ∧ bit (reg s b i 0x28) 0 = true ∧ o ≠ 0x28)) →
       (wordStep s b i o m v).new.testBit n = ((statusWord s b i o).getD (reg s b i o)).testBit n) ∧
  (∀ (s : State) (u : Fin 64) (m v : Word), s.fuse.variant = .s →
     let w := wordStep s .gge 0 (tgO u.val 0) m.toNat v.toNat
     getBits m.toNat 0 3 ≠ 0 ∨ getBits m.toNat 4 2 ≠ 0 → getBits w.new 4 2 = 1 → getBits w.new 0 3 = 0)

/-- LOCK: PG_LOCK of the page reads 1 afterwards and PG_OWNER names the requester, in every block; no other register is touched
(R29, R30). The decision block looks at its outputs again after any write. -/
def Obligations.LockStaysSet : Prop :=
  ∀ (s : State) (q : Requester) (b : Blk) (i : Nat), accessible s q b i 0x28 = true →
    ∃ r, exec (.lock q b.code i) s =
        .next (after s (if b = .dec then decRefresh { s with regs := r } else { s with regs := r })) ∧
      bit (reg { s with regs := r } b i 0x28) 0 = true ∧ reg { s with regs := r } b i 0x2C = ownerWord q ∧
      sameBut s r (b.base i + 0x28) (b.base i + 0x2C)

/-- The rows that are writes of one word each write the word that their rule names, by the clamp rule and with all that the write
sets off; none of them ends with an error when the word is accessible. -/
def Obligations.RegisterRowsWriteTheirWord : Prop :=
  ∀ (s : State) (q : Requester),
    let writes (i : Instr) (b : Blk) (n o m v : Nat) : Prop := accessible s q b n o = true →
      exec i s = .next (after s (busWrite s q b n o m v).st) ∧ (busWrite s q b n o m v).err = false
    (∀ p : Fin 64, writes (.prtSoftRst q p) .prt p.val 8 2 2) ∧
    writes (.swcSoftRst q) .swc 0 8 2 2 ∧ writes (.svsSoftRst q) .svs 0 8 2 2 ∧ writes (.decSoftRst q) .dec 0 8 2 2 ∧
    (∀ x : BitVec 2, writes (.sourceChange q x) .tim 0 0x40 0xC (x.toNat * 4)) ∧
    (∀ (p : Fin 64) (k : Fin 8), writes (.queueDisable q p k) .prt p.val 0x60 (2 ^ k.val) 0) ∧
    (∀ (n : Fin 16) (m v : Word), writes (.redPairWrite q n m v) .swc 0 (0x9000 + 4 * n.val) m.toNat v.toNat) ∧
    (∀ (c : Fin 24) (k : Bool), writes (.bankChange q c k) .acq 0 (0x100 + 0x40 * c.val) 4 (if k then 4 else 0)) ∧
    (∀ t : Fin 64, writes (.pmuStreamEnable q t) .phx 0 (0x2000 + 32 * t.val) 1 1) ∧
    (∀ n : Fin 67, writes (.snapshotRequest q n) .nrg 0 0x50 0x8000007F (0x80000000 + n.val)) ∧
    (∀ x : BitVec 3, writes (.storeBaseChange q x) .gge 0 0x60 7 x.toNat) ∧
    writes (.measurementExtend q) .chk 0 0xE4 1 1 ∧
    (∀ (k : Fin 3) (m v : Word), writes (.clockEnableWrite q k m v) .clk 0 (0x48 + 4 * k.val) m.toNat v.toNat) ∧
    (∀ v : Word, writes (.wdtKick q v) .aon 0 0xA8 0xFFFFFFFF v.toNat) ∧
    (∀ i : Fin 64, writes (.sliceEnable q i) .slc 0 (slOff i.val 0) 1 1) ∧
    (∀ (i : Fin 64) (m v : Word), writes (.shareWrite q i 0 m v) .slc 0 (slOff i.val 0x30) m.toNat v.toNat ∧
      writes (.shareWrite q i 1 m v) .slc 0 (slOff i.val 0) (Nat.land m.toNat 16) v.toNat ∧
      writes (.shareWrite q i 2 m v) .slc 0 (slOff i.val 0x34) m.toNat v.toNat ∧
      writes (.shareWrite q i 3 m v) .slc 0 (slOff i.val 0x38) m.toNat v.toNat)

/-- The rows of the forwarding table's commands: while it is not busy GO runs the operation, on a state that differs in the
command word and PG_OWNER alone (R115). The rows of the other tables' commands, in the same way (R111, R112, R121, R173). -/
def Obligations.TableCommands : Prop :=
  (∀ (s : State) (q : Requester), accessible s q .swc 0 0x10C = true → s.swc.fdbBusy = false →
     let runs (i : Instr) (op arg : Nat) : Prop := ∃ r, exec i s = .next (after s (fdbOp { s with regs := r } op arg)) ∧
       sameBut s r (Blk.base .swc 0 + 0x10C) (Blk.base .swc 0 + 0x2C)
     runs (.fdbWrite q) 1 0 ∧ runs (.fdbDelete q) 2 0 ∧ runs (.fdbRead q) 3 0 ∧
       (∀ p : Fin 68, runs (.fdbFlushPort q p) 4 p.val) ∧ runs (.fdbFlushVid q) 5 0 ∧ runs (.fdbFlushAll q) 6 0) ∧
  (∀ (s : State) (q : Requester),
     let runs (i : Instr) (b : Blk) (o : Nat) (f : State → State) : Prop :=
       ∃ r, exec i s = .next (after s (f { s with regs := r })) ∧ sameBut s r (b.base 0 + o) (b.base 0 + 0x2C)
     (accessible s q .swc 0 0x160 = true → s.swc.clsBusy = false →
       runs (.clsWrite q) .swc 0x160 (fun s => clsOp s 1) ∧ runs (.clsRead q) .swc 0x160 (fun s => clsOp s 2) ∧
         runs (.clsInvalidate q) .swc 0x160 (fun s => clsOp s 3)) ∧
     (accessible s q .swc 0 0x190 = true → s.swc.grpBusy = false →
       runs (.grpWrite q) .swc 0x190 (fun s => grpOp s 1) ∧ runs (.grpRead q) .swc 0x190 (fun s => grpOp s 2)) ∧
     (accessible s q .svs 0 0xA4 = true →
       runs (.subWrite q) .svs 0xA4 (fun s => subOp s 1) ∧ runs (.subRead q) .svs 0xA4 (fun s => subOp s 2) ∧
         runs (.subInvalidate q) .svs 0xA4 (fun s => subOp s 3)) ∧
     (accessible s q .phx 0 0x190 = true → s.phx.grpBusy = false →
       runs (.phxGrpWrite q) .phx 0x190 (fun s => mtCheckAll (phxGrpOp s 1)) ∧
         runs (.phxGrpRead q) .phx 0x190 (fun s => mtCheckAll (phxGrpOp s 2)) ∧
         runs (.phxGrpInvalidate q) .phx 0x190 (fun s => mtCheckAll (phxGrpOp s 3))))

/-! ### Messages and the command queues -/

/-- A message whose checks all pass gets its place at the end of its queue: from CONSOLE and DEBUG as it arrives, from HOST
and a slice by GO of its mailbox out of the request area (R33, R37, R433). A message that arrives on a port that is not
enabled is discarded and counted; one that fails a check is counted, written as an event and answered with the first check's
code (R33, R38, R433). MGMT_FRAME: a frame of the command type on a management port whose tag is the one that its slot's key
makes and whose counter is above the last one of its sender reaches the queue's checks as an authentic message; with a wrong
tag as one that is not (R34). -/
def Obligations.MessagesTakenOrRefused : Prop :=
  (∀ (s : State) (m : RawMsg), cmdUp s = true →
     let queued (r : List (Nat × Word)) (c : CmdCtx) (m : RawMsg) : State :=
       { s with regs := r, cmd := { s.cmd with queue := s.cmd.queue ++ [{ ctx := c, opcode := m.opcode, args := m.args }] } }
     (portOpen s .console = true → msgCheck s { port := .console, index := 0, tag := m.tag } true m = none →
       exec (.consoleMessage m) s = .next (stepEnd s (queued s.regs { port := .console, index := 0, tag := m.tag } m))) ∧
     (portOpen s .debug = true → msgCheck s { port := .debug, index := 0, tag := m.tag } true m = none →
       exec (.debugMessage m) s = .next (stepEnd s (queued s.regs { port := .debug, index := 0, tag := m.tag } m))) ∧
     (accessible s { cls := .host, index := 0 } .cmd 0 0x50 = true → portOpen s .host = true → areaMsg s .cmd 0 = m →
       msgCheck s { port := .host, index := 0, tag := m.tag } true m = none →
       ∃ r, exec .mbxGo s = .next (after s (queued r { port := .host, index := 0, tag := m.tag } m)) ∧
         sameBut s r (Blk.base .cmd 0 + 0x50) (Blk.base .cmd 0 + 0x2C)) ∧
     ∀ i : Fin 64, accessible s { cls := .slice, index := BitVec.ofNat 8 i.val } .sw i.val 0x70 = true →
       portOpen s .slice = true → areaMsg s .sw i.val = m →
       msgCheck s { port := .slice, index := BitVec.ofNat 8 i.val, tag := m.tag } true m = none →
       ∃ r, exec (.sliceCmdGo i) s =
           .next (after s (queued r { port := .slice, index := BitVec.ofNat 8 i.val, tag := m.tag } m)) ∧
         sameBut s r (Blk.base .sw i.val + 0x70) (Blk.base .sw i.val + 0x2C)) ∧
  (∀ (s : State) (c : CmdCtx) (a : Bool) (m : RawMsg), cmdUp s = true → (c.port = .host → hostUp s = true) →
     (portOpen s c.port = false →
       arrive s c a m = emit (cnt s .cmd 0 (0x60 + 4 * portNum c.port)) (.discarded c.port)) ∧
     (portOpen s c.port = true → a = false →
       arrive s c a m = refuseMsg s { ctx := c, opcode := m.opcode, args := m.args } rAuthFailed) ∧
     (portOpen s c.port = true → a = true → m.flags ≠ 0 →
       arrive s c a m = refuseMsg s { ctx := c, opcode := m.opcode, args := m.args } rBadFormat) ∧
     (portOpen s c.port = true → a = true → m.flags = 0 → m.args.length = m.argLen → m.argLen ≤ 4080 →
       (opcodeInfo m.opcode.toNat).isNone = true →
       arrive s c a m = refuseMsg s { ctx := c, opcode := m.opcode, args := m.args } rUnknown) ∧
     (portOpen s c.port = true → a = true → m.flags = 0 → m.args.length = m.argLen → m.argLen ≤ 4080 →
       argsFit c.port m.opcode.toNat m.argLen = true → (opcodeInfo m.opcode.toNat).isNone = false →
       classPermitted c.port m.opcode.toNat = false →
       arrive s c a m = refuseMsg s { ctx := c, opcode := m.opcode, args := m.args } rNotAuth)) ∧
  (∀ (s s1 : State) (p : Fin 64) (f : Frame) (b t : List Byte), f.pdu = .raw b → f.etype = 0x88B5 → numAt b 0 2 = 1 →
     isMgmtPort s p.val = true → cmdUp s = true → portOpen s .mgmt = true →
     mgmtTag s (b.take (28 + numAt b 16 2)) = (s1, some t) →
     let m := rawOf (b.drop 12) (slice b 28 (min (numAt b 16 2) (b.length - 28)))
     let c : CmdCtx :=
       { port := .mgmt, index := BitVec.ofNat 8 p.val, tag := m.tag, reply := some { mac := f.src, vlan := f.vlan } }
     (∀ s2, b.drop (28 + numAt b 16 2) = t → mgmtCounter s1 f.src (numAt b 4 8) = (s2, true) →
       exec (.mgmtFrame p f) s = .next (stepEnd s (arrive s2 c true m))) ∧
     (∀ s2, b.drop (28 + numAt b 16 2) = t → mgmtCounter s1 f.src (numAt b 4 8) = (s2, false) →
       exec (.mgmtFrame p f) s = .next (stepEnd s (arrive s2 c false m))) ∧
     (b.drop (28 + numAt b 16 2) ≠ t → exec (.mgmtFrame p f) s = .next (stepEnd s (arrive s1 c false m))))

/-- RSP_VALID cleared while it is 1: it reads 0, and the response held back, if there is one, follows (R39). COMMAND_TAKE: an
idle processor takes the next message out of its queue; that is the first servable message of its port, and no port between
the last one served and this one, in the fixed order, has a servable message (R36). A message that R433 accepts gets the last place
of the queue, by its own row of whatever port, and is not yet executed; a frame of MGMT besides leaves its counter in the table (R33
to R36). -/
def Obligations.ResponsesAndQueue : Prop :=
  (∀ s : State,
     (accessible s { cls := .host, index := 0 } .cmd 0 0x54 = true → bit (reg s .cmd 0 0x54) 1 = true →
       ∃ r, exec (.rspValidClear none) s = .next (after s (hostCleared { s with regs := r })) ∧
         sameBut s r (Blk.base .cmd 0 + 0x54) (Blk.base .cmd 0 + 0x2C) ∧
         bit (reg { s with regs := r } .cmd 0 0x54) 1 = false) ∧
     ∀ i : Fin 64, accessible s { cls := .slice, index := BitVec.ofNat 8 i.val } .sw i.val 0x74 = true →
       bit (reg s .sw i.val 0x74) 1 = true →
       ∃ r, exec (.rspValidClear (some i)) s = .next (after s (sliceCleared { s with regs := r } i.val)) ∧
         sameBut s r (Blk.base .sw i.val + 0x74) (Blk.base .sw i.val + 0x2C) ∧
         bit (reg { s with regs := r } .sw i.val 0x74) 1 = false) ∧
  (∀ (s : State) (m : CmdMsg), cmdUp s = true → s.cmd.exec = none → nextMsg s = some m →
     exec .commandTake s = .next (after s
       (take { s with cmd := { s.cmd with queue := dropFirst s.cmd.queue m, rr := portNum m.ctx.port } } m)) ∧
     m ∈ s.cmd.queue ∧ servable s m = true ∧
     (s.cmd.queue.find? fun x => portNum x.ctx.port == portNum m.ctx.port && servable s x) = some m ∧
     ∀ x ∈ s.cmd.queue, servable s x = true →
       (portNum m.ctx.port + 5 - s.cmd.rr % 6) % 6 ≤ (portNum x.ctx.port + 5 - s.cmd.rr % 6) % 6) ∧
  (∀ (s : State) (m : RawMsg), cmdUp s = true → m.flags = 0 → m.args.length = m.argLen → m.argLen ≤ 4080 →
     (opcodeInfo m.opcode.toNat).isSome = true → s.chk.recovery = false →
     let room (p : Port) : Prop :=
       portOpen s p = true ∧ argsFit p m.opcode.toNat m.argLen = true ∧ classPermitted p m.opcode.toNat = true ∧
         (s.cmd.queue.filter fun q => q.ctx.port == p).length < 8
     let waits (i : Instr) (c : CmdCtx) : Prop :=
       ∃ t, exec i s = .next t ∧ t.cmd.queue = s.cmd.queue ++ [{ ctx := c, opcode := m.opcode, args := m.args }] ∧
         t.cmd.rr = s.cmd.rr ∧ t.regs = s.regs ∧ t.out = s.out
     (room .console → waits (.consoleMessage m) { port := .console, index := 0, tag := m.tag }) ∧
     (room .debug → waits (.debugMessage m) { port := .debug, index := 0, tag := m.tag }) ∧
     (room .host → accessible s { cls := .host, index := 0 } .cmd 0 0x50 = true → areaMsg s .cmd 0 = m →
       ∃ r, exec .mbxGo s = .next (after s { s with
           regs := r
           cmd := { s.cmd with queue := s.cmd.queue ++
             [{ ctx := { port := .host, index := 0, tag := m.tag }, opcode := m.opcode, args := m.args }] } }) ∧
         sameBut s r (Blk.base .cmd 0 + 0x50) (Blk.base .cmd 0 + 0x2C)) ∧
     (∀ i : Fin 64, room .slice → sliceMayRead i.val m.opcode.toNat m.args = true →
       accessible s { cls := .slice, index := BitVec.ofNat 8 i.val } .sw i.val 0x70 = true → areaMsg s .sw i.val = m →
       ∃ r, exec (.sliceCmdGo i) s = .next (after s { s with
           regs := r
           cmd := { s.cmd with queue := s.cmd.queue ++
             [{ ctx := { port := .slice, index := BitVec.ofNat 8 i.val, tag := m.tag }, opcode := m.opcode, args := m.args }] } }) ∧
         sameBut s r (Blk.base .sw i.val + 0x70) (Blk.base .sw i.val + 0x2C)) ∧
     ∀ (p : Fin 64) (f : Frame) (b k : List Byte), s.fuse.debug = false → f.pdu = .raw b → f.etype = 0x88B5 →
       isMgmtPort s p.val = true → rawOf (b.drop 12) (slice b 28 (min (numAt b 16 2) (b.length - 28))) = m → numAt b 0 2 = 1 →
       loadSym s (fld s .cmd 0x4C 0 6) 1 = (s, some k) → b.drop (28 + numAt b 16 2) =
         kmac256 k (b.take (28 + numAt b 16 2)) 32 (ascii "ASDAR-MGMT") →
       (∀ e ∈ s.nv.mgmt, e.1 = f.src → e.2.toNat < numAt b 4 8) → s.nv.mgmt.length < 256 → room .mgmt →
       ∃ t, exec (.mgmtFrame p f) s = .next t ∧
         t.cmd.queue = s.cmd.queue ++ [{
           ctx := { port := .mgmt, index := BitVec.ofNat 8 p.val, tag := m.tag, reply := some { mac := f.src, vlan := f.vlan } }
           opcode := m.opcode, args := m.args }] ∧
         (t.nv.mgmt.find? fun e => e.1 == f.src) = some (f.src, BitVec.ofNat 64 (numAt b 4 8)) ∧ t.regs = s.regs)

/-! ### Commands of the command processor

Each statement speaks of a command that finds the processor idle and passes its checks (`ready`), whose unit is there with its
island up and which no power-fail warning refuses (`unitReady`). The state it acts on, with its journal entry open, is `x`. -/

/-- What a ready command does whatever it is: its entry is the newest of the journal, of which at most 4096 are held, the
queue is empty and its port is the last one served (R36, R44, R45). When a command that came from CONSOLE ends, its journal
entry, if it still stands in its place, holds the result beside the bytes it had, and the response goes out; an entry that was
overwritten is left (R37, R44). A command of the classes CONFIG, SLICE, FIRMWARE, KEYS and DESTRUCTIVE during a power-fail
warning ends with STATE and no effect; a command whose unit is fused off with ABSENT; one whose island is down with FAILED
(R3, R15, R398). -/
def Obligations.CommandsJournalledOrTurnedAway : Prop :=
  (∀ (s : State) (c : CmdCtx) (op : Nat) (args : List Byte),
     let x := opened s c op args
     x.nv.jnlNewest = nextSeq s.nv.jnlNewest ∧ x.nv.jnlCount = min (s.nv.jnlCount + 1) 4096 ∧
       rdBytes x (jnlAddr (nextSeq s.nv.jnlNewest)) 32 = (jnlEntry s (nextSeq s.nv.jnlNewest) (msgOf s c op args)).take 32 ∧
       x.cmd.queue = [] ∧ x.cmd.rr = portNum c.port ∧ x.regs = s.regs ∧ x.mem = s.mem ∧ x.out = s.out) ∧
  (∀ (t : State) (m : CmdMsg) (q r : Nat) (d : List Byte), m.ctx.port = .console →
     let b := rdBytes t (jnlAddr q) 32
     let u := finish t m q r d
     (numAt b 0 4 = q → rdBytes u (jnlAddr q) 32 = jnlWith b r ∧ numAt (jnlWith b r) 24 2 = r % 65536) ∧
     (numAt b 0 4 ≠ q → u.wr = t.wr) ∧
     (∀ a, a < jnlAddr q ∨ jnlAddr q + 32 ≤ a → rdByte u a = rdByte t a) ∧
     u.out = t.out ++ [.response m.ctx (responseBytes m.opcode.toNat r q m.ctx.tag d)] ∧ u.regs = t.regs) ∧
  (∀ (s : State) (c : CmdCtx) (op : Nat) (args : List Byte), op < 0x10000 →
     let x := opened s c op args
     (s.aon.pf = true → [3, 4, 5, 6, 8].contains (op / 4096) = true → execute x (msgOf s c op args) = .done x rState []) ∧
     (s.aon.pf = false → ∀ b, unitOf op = some b →
       (fusedOff s b 0 = true → execute x (msgOf s c op args) = .done x rAbsent []) ∧
       (fusedOff s b 0 = false → ¬(op = 0x4006 ∧ pairPart s = false) → isDown s (b.island 0) = true →
         execute x (msgOf s c op args) = .done x rFailed [])))

/-- Commands of the journal, of registers, of the clamp report and of the staging area (R29, R43, R45, R432, R434). What
REG_WRITE answers when its write is not simply taken (R29, R38): a word that is not there or whose island is down FAILED, a
unit fused off ABSENT, a locked field LOCKED, a field that its state keeps STATE, a clamped field CLAMPED, in this order. -/
def Obligations.CoreAndRegisterCommands : Prop :=
  ((∀ (s : State) (c : CmdCtx), ready s c 0x1001 [] = true → unitReady s 0x1001 = true →
     let x := opened s c 0x1001 []
     done (.jnlInfo c) s c 0x1001 [] x
       (le 4 (nextSeq s.nv.jnlNewest) ++ le 4 (min (s.nv.jnlCount + 1) 4096) ++ le 4 s.nv.startCount.toNat ++
         le 4 s.nv.restartCount.toNat)) ∧
   (∀ (s : State) (c : CmdCtx) (first : Word) (n : BitVec 16),
     let args := le 4 first.toNat ++ le 2 n.toNat
     ready s c 0x1002 args = true → unitReady s 0x1002 = true → 1 ≤ n.toNat → n.toNat ≤ 127 →
     let x := opened s c 0x1002 args
     let d := jnlDist x.nv.jnlNewest first.toNat
     (first ≠ 0 → first.toNat ≤ 0xFFFFF000 → d < x.nv.jnlCount →
       done (.jnlRead c first n) s c 0x1002 args x
         ((List.range (min n.toNat (d + 1))).map fun k => jnlShown x (jnlAt first.toNat k)).flatten) ∧
     (first = 0 ∨ 0xFFFFF000 < first.toNat ∨ x.nv.jnlCount ≤ d → done (.jnlRead c first n) s c 0x1002 args x [])) ∧
   (∀ (s : State) (c : CmdCtx) (k i : BitVec 16) (o : Word) (b : Blk) (v : Nat) (t : State),
     let args := le 2 k.toNat ++ le 2 i.toNat ++ le 4 o.toNat
     ready s c 0x1003 args = true → unitReady s 0x1003 = true →
     Blk.ofCode k.toNat = some b → i.toNat < b.insts → o.toNat < b.size →
     busRead (opened s c 0x1003 args) b i.toNat o.toNat = (t, some v) →
       done (.regRead c k i o) s c 0x1003 args t (le 4 v)) ∧
   (∀ (s : State) (c : CmdCtx) (first : Word) (n : BitVec 16),
     let args := le 4 first.toNat ++ le 2 n.toNat
     ready s c 0x1004 args = true → unitReady s 0x1004 = true → 1 ≤ n.toNat → n.toNat ≤ 168 →
     let x := opened s c 0x1004 args
     done (.cfgReportRead c first n) s c 0x1004 args x
       (rdBytes x 0x50002000 32 ++
         rdBytes x (0x50002020 + 24 * first.toNat) (24 * min n.toNat (rdNum x 0x50002014 4 - first.toNat)))) ∧
   (∀ (s : State) (c : CmdCtx) (k i : BitVec 16) (o m v : Word) (b : Blk),
     let args := le 2 k.toNat ++ le 2 i.toNat ++ le 4 o.toNat ++ le 4 m.toNat ++ le 4 v.toNat
     ready s c 0x3001 args = true → unitReady s 0x3001 = true →
     Blk.ofCode k.toNat = some b → i.toNat < b.insts → o.toNat < b.size →
     let w := busWrite (opened s c 0x3001 args) (cmdReq c) b i.toNat o.toNat m.toNat v.toNat
     w.err = false → w.absent = false → w.field = true → w.locks = [] → w.refused = false → w.clamps = [] →
       done (.regWrite c k i o m v) s c 0x3001 args w.st []) ∧
   (∀ (s : State) (c : CmdCtx) (o : Word) (data : List Byte),
     let args := le 4 o.toNat ++ data
     ready s c 0x3002 args = true → unitReady s 0x3002 = true → o.toNat + data.length ≤ 0x4000000 →
     let x := opened s c 0x3002 args
     done (.stageWrite c o data) s c 0x3002 args (wrBytes x (stageBase x + o.toNat) data) [])) ∧
  (∀ (s : State) (c : CmdCtx) (k i : BitVec 16) (o m v : Word),
     let args := le 2 k.toNat ++ le 2 i.toNat ++ le 4 o.toNat ++ le 4 m.toNat ++ le 4 v.toNat
     ready s c 0x3001 args = true → unitReady s 0x3001 = true →
     let x := opened s c 0x3001 args
     let ends (t : State) (r : Nat) : Prop := exec (.regWrite c k i o m v) s = .next (after s (ended s c 0x3001 args t r []))
     (Blk.ofCode k.toNat = none → ends x rFailed) ∧
     ∀ b, Blk.ofCode k.toNat = some b →
       (b.insts ≤ i.toNat ∨ b.size ≤ o.toNat → ends x rFailed) ∧
       (i.toNat < b.insts → o.toNat < b.size →
         (accessErr x b i.toNat o.toNat = true → ends x rFailed) ∧
         (accessErr x b i.toNat o.toNat = false → fusedOff x b i.toNat = true → ends x rAbsent) ∧
         (let w := busWrite x (cmdReq c) b i.toNat o.toNat m.toNat v.toNat
          (w.err = true → ends w.st rFailed) ∧
          (w.err = false → w.absent = false → w.field = false → ends w.st rFailed) ∧
          (w.err = false → w.absent = false → w.field = true →
           (w.locks ≠ [] → ends w.st rLocked) ∧ (w.locks = [] → w.refused = true → ends w.st rState) ∧
           (w.locks = [] → w.refused = false → w.clamps ≠ [] → ends w.st rClamped)))))

/-- CFG_APPLY (R10, R38, R40 to R43): the first check that an image fails decides the result and leaves the committed image; one
that passes them all takes the place of the committed one, its records are applied, the report is written, and the module leaves
the blank state; the result is CLAMPED when the report has an entry. -/
def Obligations.CfgApplyCompletes : Prop :=
  ∀ (s : State) (c : CmdCtx) (addr : BitVec 64) (len : Word),
    let args := objArgs c addr.toNat len.toNat
    answers (.cfgApply c addr len) s c 0x3003 args fun x =>
      match objOf x (msgOf s c 0x3003 args) with
      | none => .done x rState []
      | some (p, n) =>
        let img := rdBytes x p n
        let y := (verifyKey x (fld x .chk 0x44 0 2)).1
        if cfgForm x p n = false then .done x rFailed []
        else if sigOk (verifyKey x (fld x .chk 0x44 0 2)).2 img = false then .done (verifyFailed y) rSignature []
        else if variantOk y (numAt img 16 4) = false then .done y rVariant []
        else if slice img 32 32 ≠ shake256 (slice img 64 (16 * imgCount img)) 32 then .done y rFailed []
        else match poolPlace y [y.nv.cfg, y.nv.spn, y.nv.spnPend] n with
          | none => .done y rFailed []
          | some (z, r) =>
            let u := wrBytes z r.addr img
            let v := applyImage { u with nv := { u.nv with cfg := some r } } (cmdReq c) img
            .done (leaveBlank v.1) (if v.2 = true then rClamped else rOk) []

/-! ### Commands of time, acquisition, energy, records and the event log -/

/-- The commands of time and acquisition (R68, R161, R162): TIM_SET steps the timebase to the time given and starts ROUGHING
under SOURCE 1, TIM_REROUGH clears PERSIST and the run and enters ROUGHING, ACQ_CAL starts a calibration at the first grain at
least 1 ms ahead, ACQ_SKEW_APPLY writes the measured LAG of every channel that has a valid one, with a channel change. The
commands of energy (R195, R199): NRG_SAVE saves at once with reason 2; NRG_CLEAR with a legal mask waits for the grain
boundary that clears its meters. Both need the unit enabled. Its events (R194, R196, R197, R200, R201): the periodic save and its
repetition at a power failure take the other slot with the next sequence number and their reason; a snapshot answers the request; a
comparison of half-cycle values notes whether an event runs; an aggregated interval takes its fifteen basic intervals. -/
def Obligations.TimeAcqEnergyCommands : Prop :=
  ((∀ (s : State) (c : CmdCtx) (sec : BitVec 64) (ns : Word),
     answers (.timSet c sec ns) s c 0x2010 (le 8 sec.toNat ++ le 4 ns.toNat) fun x =>
       if fld x .tim 0x40 2 2 = 0 ∨ 1000000000 ≤ ns.toNat then .done x rState []
       else
         let y := timStep x ((sec.toNat * 1000000000 + ns.toNat) * nsU)
         let y := { y with tim := { y.tim with setDone := true } }
         .done (if fld x .tim 0x40 2 2 = 1 then servoGo y .roughing else y) rOk []) ∧
   (∀ (s : State) (c : CmdCtx),
     answers (.timRerough c) s c 0x2011 [] fun x =>
       if x.tim.servo = .invalid ∨ x.tim.servo = .free then .done x rState []
       else .done (servoGo { persistEnd x with tim := { (persistEnd x).tim with run := [] } } .roughing) rOk []) ∧
   (∀ (s : State) (c : CmdCtx) (mask : Word),
     answers (.acqCal c mask) s c 0x2020 (le 4 mask.toNat) fun x =>
       if 0x1000000 ≤ mask.toNat ∨ mask = 0 ∨ x.acq.cal.isSome = true then .done x rState []
       else
         let g : Nat := match x.tim.lastGrain with
           | some (sec, k) => sec * secU + k * 625000 * nsU / 9
           | none => 0
         let j := ((x.tim.time + 1000000 * nsU - g) * 9 + 625000 * nsU - 1) / (625000 * nsU)
         .done { x with acq := { x.acq with cal := some { mask := mask.toNat, start := x.tim.grains + j, step := 0, edges := [] } } }
           rOk []) ∧
   (∀ (s : State) (c : CmdCtx) (mask : Word),
     answers (.acqSkewApply c mask) s c 0x2021 (le 4 mask.toNat) fun x =>
       if 0x1000000 ≤ mask.toNat ∨ x.acq.cal.isSome = true then .done x rState []
       else .done
         ((bitsOf mask.toNat 24).foldl (fun s c => match findK x.acq.calResult c with
           | some (lag, true) => channelChange (setReg s .acq 0 (0x108 + 0x40 * c) (ofSigned 16 lag)) c
           | _ => s) x) rOk [])) ∧
  ((∀ (s : State) (c : CmdCtx),
     answers (.nrgSave c) s c 0x2030 [] fun x => if nrgOn x then .done (energySave x 2) rOk [] else .done x rState []) ∧
   (∀ (s : State) (c : CmdCtx) (mask : BitVec 96),
     answers (.nrgClear c mask) s c 0x8010 (le 12 mask.toNat) fun x =>
       if mask = 0 ∨ 2 ^ 67 ≤ mask.toNat ∨ nrgOn x = false then .done x rState []
       else .waits { x with nrg := { x.nrg with clearReq := some mask } } (.clearMeters mask))) ∧
  (∀ s : State, nrgOn s = true →
     let saves (i : Instr) (r : Nat) : Prop :=
       ∃ t, exec i s = .next t ∧ t.nrg = { s.nrg with
           saveSeq := s.nrg.saveSeq + 1, saveSlot := some (match s.nrg.saveSlot with | some k => 1 - k | none => 0) } ∧
         rdNum t (slotAddr (t.nrg.saveSlot.getD 0) + 8) 1 = r ∧ t.regs = s.regs ∧ t.phx = s.phx
     (isUp s .memory = true → Memory.wf s.mem = true → saves .energySavePeriodic 0 ∧
       (s.aon.pf = true → saves .powerFailSaveRepeat 1)) ∧
     (∀ m, s.nrg.snapReq = some m → ∃ t, exec .snapshot s = .next t ∧
       t.nrg = { s.nrg with snapReq := none, snapSeq := (s.nrg.snapSeq + 1) % 65536 } ∧
       (∀ i, i < 10 → reg2 t .nrg 0 (0x80 + 8 * i) = (mtOf s m).acc.getD i 0 / 2 ^ 32 % 2 ^ 64) ∧ t.out = s.out ∧ t.phx = s.phx) ∧
     ∀ m : Fin 67, mtOn s m.val = true → mtF s m.val 0 3 1 = 1 →
       (∃ t, exec (.voltageEvent m) s = .next t ∧ (mtOf t m.val).acc = (mtOf s m.val).acc ∧
         ((mtOf s m.val).fault = 0 → ((mtV s m.val).all fun c => (halfRms s c
             (roundTiesUp 14400000000 (((f0Hz s * 1000000 : Nat) : Int) + clampInt
               (((findK s.phx.grpStat (mtVg s m.val)).bind fun t => t.dfreq).getD 0) (-(((f0Hz s * 1000000 : Nat) : Int) / 20))
               (((f0Hz s * 1000000 : Nat) : Int) / 20)).toNat).toNat).isSome) = true →
           (mtOf t m.val).seen = ((mtOf s m.val).seen || (mtOf t m.val).evt.intr.isSome || (mtOf t m.val).evt.dip.isSome ||
             (mtOf t m.val).evt.swell.isSome))) ∧
       (15 ≤ (mtOf s m.val).basic.length → (aggregate m.val ((mtOf s m.val).basic.take 15)
           (intervalFreq (mtOf s m.val) (mtOf s m.val).fDone)).isSome = true →
         ∃ t, exec (.qualityInterval m 0) s = .next t ∧ (mtOf t m.val).basic = (mtOf s m.val).basic.drop 15 ∧
           (mtOf t m.val).fDone = []))

/-- The commands of the record store (R240): GGE_INDEX gives the index entries of held records in order from the one named,
GGE_READ bytes of a record, GGE_EXPORT bytes of one of its COMTRADE files with the file's length, GGE_MANUAL fires unit 64 (its flag on the grain of that instant),
GGE_DELETE deletes the oldest records that are not RECORDING. What GGE_DELETE deletes: the oldest records, as many as asked
for and no further than the first that is RECORDING (R240). The commands of the event log (R368, R369): EVR_INFO and EVR_READ
change nothing, EVR_CLEAR first flushes, and with the right count begins the next generation, whose first record says what was
removed. -/
def Obligations.RecordAndLogCommands : Prop :=
  ((∀ (s : State) (c : CmdCtx) (first : Word) (n : BitVec 16),
     answers (.ggeIndex c first n) s c 0x1020 (le 4 first.toNat ++ le 2 n.toNat) fun x =>
       if n = 0 ∨ 63 < n.toNat ∨ (x.gge.recs.find? fun h => h.num == first.toNat).isNone then .done x rState []
       else .done x rOk
         ((((x.gge.recs.dropWhile fun h => h.num != first.toNat).take n.toNat).map fun h => rdBytes x (recEntry x h.num) 64).flatten)) ∧
   (∀ (s : State) (c : CmdCtx) (num : Word) (off : BitVec 64) (n : BitVec 16),
     answers (.ggeRead c num off n) s c 0x1021 (le 4 num.toNat ++ le 8 off.toNat ++ le 2 n.toNat) fun x =>
       match x.gge.recs.find? fun h => h.num == num.toNat with
       | none => .done x rState []
       | some h =>
         if n = 0 ∨ 4064 < n.toNat ∨ rdNum x (recEntry x num.toNat + 12) 4 < off.toNat + n.toNat then .done x rState []
         else .done x rOk (rdBytes x (storeBase x + 0x40000 + 4096 * h.off + off.toNat) n.toNat)) ∧
   (∀ (s : State) (c : CmdCtx) (num : Word) (part file : BitVec 8) (off : BitVec 64) (n : BitVec 16),
     answers (.ggeExport c num part file off n) s c 0x1022
         (le 4 num.toNat ++ le 1 part.toNat ++ le 1 file.toNat ++ le 8 off.toNat ++ le 2 n.toNat) fun x =>
       match x.gge.recs.find? fun h => h.num == num.toNat with
       | none => .done x rState []
       | some h =>
         let b := storeBase x + 0x40000 + 4096 * h.off
         let len := fileLen x b num.toNat part.toNat file.toNat
         if 1 < part.toNat ∨ 1 < file.toNat ∨ n = 0 ∨ 4064 < n.toNat ∨ h.recording = true ∨ rdNum x b 4 ≠ 0x43524747 ∨
             len < off.toNat + n.toNat then .done x rState []
         else .done x rOk (le 8 len ++
           (if file = 0 then slice (cfgFile x b num.toNat part.toNat) off.toNat n.toNat
            else datRange x b part.toNat off.toNat n.toNat))) ∧
   (∀ (s : State) (c : CmdCtx),
     answers (.ggeManual c) s c 0x2040 [] fun x =>
       if x.gge.state = .disarmed ∨ ggeOn x = false then .done x rState []
       else
         let y := match grainAt x ((nowStamp x).units : Int) with
           | some g => markFrame x 64 g.label.n false true
           | none => x
         .done (firingArrives y { unit := 64, cond := 0, src := 0, instant := ((nowStamp x).units : Int), stamp := nowStamp y,
                                  value := 0, moved := false, same := false }) rOk []) ∧
   (∀ (s : State) (c : CmdCtx) (n : Word),
     answers (.ggeDelete c n) s c 0x8020 (le 4 n.toNat) fun x =>
       let r := deleteRecords (if n = 0xFFFFFFFF then 4096 else min n.toNat 4096) x 0
       .done (evt (unblock r.1) 0x0C14 1 0 0 r.2) rOk [])) ∧
  (∀ (k : Nat) (s : State),
     let gone := (s.gge.recs.takeWhile fun h => !h.recording).take k
     (deleteRecords k s 0).2 = gone.length ∧ (deleteRecords k s 0).1.gge.recs = s.gge.recs.drop gone.length ∧
       (deleteRecords k s 0).1.gge.opened = s.gge.opened ∧ (deleteRecords k s 0).1.regs = s.regs) ∧
  ((∀ (s : State) (c : CmdCtx),
     answers (.evrInfo c) s c 0x1050 [] fun x =>
       .done x rOk (le 4 x.evr.count ++ le 2 x.evr.gen ++ le 2 x.evr.buf.length ++ le 4 x.evr.lost)) ∧
   (∀ (s : State) (c : CmdCtx) (first : Word) (n : BitVec 16),
     answers (.evrRead c first n) s c 0x1051 (le 4 first.toNat ++ le 2 n.toNat) fun x =>
       if n = 0 ∨ 127 < n.toNat ∨ first = 0 ∨ x.evr.count < first.toNat then .done x rState []
       else
         let b := x.evr.count - x.evr.buf.length + 1
         .done x rOk ((List.range (min n.toNat (x.evr.count + 1 - first.toNat))).map fun k =>
           if b ≤ first.toNat + k then x.evr.buf.getD (first.toNat + k - b) []
           else rdBytes x (0x50570000 + (first.toNat + k - 1) * 32) 32).flatten) ∧
   (∀ (s : State) (c : CmdCtx) (n : Word),
     answers (.evrClear c n) s c 0x8030 (le 4 n.toNat) fun x =>
       let y := evrFlush x
       if n ≠ 0 ∧ n.toNat ≠ y.evr.count then .done y rState []
       else .done (evrClearWith y (y.evr.gen + 1) (portClass c.port) c.index.toNat 0 y.evr.count y.evr.lost) rOk []))

/-! ### Slices -/

/-- What the operations of a slice do, by its state (R264, R273, R274, R276, R277, R280): each is legal in the states named and in
no other; an operation in progress lets only a SQUASH, and a DRAIN of a slice that freezes, go on. -/
def Obligations.SliceOperations : Prop :=
  ∀ (s : State) (i : Nat) (r : Bool),
    let x := slOf s i
    let runs : Bool := x.state == .active || x.state == .freezing || x.state == .frozen
    let sq (y : Slice) : Slice := { y with squash := true, blocked := true, desc := none }
    let part (y : Slice) : Option State := some (slGo (setSl s i { y with busy := true, log := false }) i .parting)
    (runs = true → (x.busy = false ∨ x.state = .freezing) →
      sliceOp s i 1 r = part { x with swapping := false, squash := false }) ∧
    (runs = true → sliceOp s i 2 r = part (sq { x with swapping := false })) ∧
    (x.state = .receiving → x.busy = false → sliceOp s i 1 r = part (sq x) ∧ sliceOp s i 2 r = part (sq x)) ∧
    (x.state = .parting → sliceOp s i 1 r = none ∧
      sliceOp s i 2 r = if x.squash then none else some (setSl s i { sq x with escalated := true })) ∧
    (x.state = .free → sliceOp s i 1 false = none ∧ sliceOp s i 2 false = none) ∧
    (x.busy = true → ∀ op, op ≠ 2 → (op = 1 → x.state ≠ .freezing) → sliceOp s i op r = none) ∧
    (x.busy = false →
      sliceOp s i 3 r = (if x.state = .active then some (slGo (setSl s i { x with busy := true }) i .freezing) else none) ∧
      sliceOp s i 4 r = (if x.state = .frozen then some (slGo s i .active) else none) ∧
      sliceOp s i 5 r = (if runs && !x.swapping then some (setSl s i { x with log := true, act := false }) else none) ∧
      sliceOp s i 6 r = (if runs && x.log && !x.swapping then
        some (setSl s i { x with act := !x.act, busy := true, swapping := true }) else none) ∧
      sliceOp s i 7 r = (if runs && !x.swapping then some (setSl s i { x with log := false }) else none) ∧
      sliceOp s i 8 r = (if x.state = .free then some (slGo (setSl s i { Slice.free with blocked := x.blocked }) i .receiving) else none))

/-- The rows of S_OP with GO run the operation when it is legal; one that is not leaves the state as it was, but for the
command word and PG_OWNER. RING_ENABLE selects the slice and starts its ring anew (R135, R138, R274, R284). The commands of
slices (R283): the operation when it is legal and no background operation names the slice, else STATE. SLC_PART ends other
background operations of the slice and goes on in the background; SLC_FREEZE and a log swap wait for their end; the rest of
the log operations, SLC_RESUME and SLC_RECEIVE end at once; migration, save and restore go on in the background. -/
def Obligations.SliceRowsAndCommands : Prop :=
  (∀ (s : State) (q : Requester) (i : Fin 64),
     (accessible s q .slc 0 (slOff i.val 0x64) = true →
       let runs (k : Instr) (op : Nat) : Prop :=
         ∃ r, exec k s = .next (after s
             ((sliceOp { s with regs := r } i.val op (restoring s i.val)).getD { s with regs := r })) ∧
           sameBut s r (Blk.base .slc 0 + slOff i.val 0x64) (Blk.base .slc 0 + 0x2C)
       runs (.drain q i) 1 ∧ runs (.squash q i) 2 ∧ runs (.freeze q i) 3 ∧ runs (.resume q i) 4 ∧ runs (.logStart q i) 5 ∧
         runs (.logSwap q i) 6 ∧ runs (.logStop q i) 7 ∧ runs (.receive q i) 8) ∧
     ∀ g : Bool, accessible s q .svs 0 0x100 = true →
       let o := if g then 0x11C else 0x10C
       ∃ r, exec (.ringEnable q g i) s = .next (after s (ringEnable { s with regs := r } g i.val)) ∧
         fld { s with regs := r } .svs 0x100 0 6 = i.val ∧ flag { s with regs := r } .svs o 0 = true ∧
         ∀ k, k ≠ Blk.base .svs 0 + 0x100 → k ≠ Blk.base .svs 0 + 0x2C →
           (∀ j, k ≠ bankKey .svs 0 o j) → findK r k = findK s.regs k) ∧
  (∀ (s : State) (c : CmdCtx) (i : BitVec 8),
     let k := i.toNat
     (∀ (mode : BitVec 8) (tmo : BitVec 16),
       answers (.slcPart c i mode tmo) s c 0x4001 (le 1 k ++ le 1 mode.toNat ++ le 2 tmo.toNat) fun x =>
         if 64 ≤ k ∨ 1 < mode.toNat then .done x rState []
         else match sliceOp x k (mode.toNat + 1) (restoring x k) with
           | none => .done x rState []
           | some t =>
             .bg ((t.cmd.bg.filter fun b => b.slice == k).foldl (fun t b => match b.kind with
               | .part _ => t
               | _ => finishBg t b rFailed []) t) k (.part (decide (10000 < tmo.toNat)))) ∧
     (answers (.slcFreeze c i) s c 0x4002 (le 1 k) fun x =>
       match (if 64 ≤ k || bgBusy x k then none else sliceOp x k 3 false) with
       | some t => .waits t (.freeze k)
       | none => .done x rState []) ∧
     (answers (.slcResume c i) s c 0x4003 (le 1 k) fun x =>
       match (if 64 ≤ k || bgBusy x k then none else sliceOp x k 4 false) with
       | some t => .done t rOk []
       | none => .done x rState []) ∧
     (∀ op : BitVec 8, answers (.slcLog c i op) s c 0x4004 (le 1 k ++ le 1 op.toNat) fun x =>
       match (if 2 < op.toNat || 64 ≤ k || bgBusy x k then none else sliceOp x k (5 + op.toNat) false) with
       | some t => if op = 1 then .waits t (.logSwap k) else .done t rOk []
       | none => .done x rState []) ∧
     (answers (.slcReceive c i) s c 0x4005 (le 1 k) fun x =>
       match (if 64 ≤ k || bgBusy x k then none else sliceOp x k 8 false) with
       | some t => .done t rOk []
       | none => .done x rState []) ∧
     (∀ (d : BitVec 8) (flags : BitVec 16) (list : BitVec 64) (count : Word), pairPart s = true →
       answers (.slcMigSend c i d flags list count) s c 0x4006
           (le 1 k ++ le 1 d.toNat ++ le 2 flags.toNat ++ le 8 list.toNat ++ le 4 count.toNat) fun x =>
         if 64 ≤ k || 64 ≤ d.toNat || 3 < flags.toNat || 2097152 < count.toNat || bgBusy x k ||
           !inDram x list.toNat (8 * count.toNat) || !logState (slOf x k) then .done x rState []
         else .bg x k (.migSend d.toNat flags.toNat list.toNat count.toNat 0 0)) ∧
     (∀ (addr : BitVec 64) (n : Word),
       (answers (.slcSave c i addr n) s c 0x4007 (le 1 k ++ le 8 addr.toNat ++ le 4 n.toNat) fun x =>
         if 64 ≤ k || bgBusy x k || (slOf x k).state != .frozen then .done x rState [] else .bg x k (.save addr.toNat n.toNat)) ∧
       (answers (.slcRestore c i addr n) s c 0x4008 (le 1 k ++ le 8 addr.toNat ++ le 4 n.toNat) fun x =>
         if 64 ≤ k || bgBusy x k || (slOf x k).state != .free || !inDram x addr.toNat n.toNat then .done x rState []
         else .bg x k (.restore addr.toNat n.toNat))))

/-- The slice's own rows (R268, R269, R273, R277): a doorbell that keeps the queue within its depth moves SQ_TAIL, any other
is refused with its cause and leaves it; CQ_HEAD moves no further than CQ_TAIL; a parting in DRAIN becomes a SQUASH at its
time-out; a parting, a freezing and a log swap that have ended take their end. Work of slices (R267, R269, R270, R271): a
descriptor that has ended writes its completion entry, moves both pointers and frees its place; a round goes over every slice
in order of its number; a frame goes to the slices in ACTIVE whose address it has, or that take group addresses. A background
operation that has ended ends its command (R280 to R283): SLC_SAVE writes the image when it fits, SLC_RESTORE takes the image,
a migration ends with OK when every record was acknowledged without errors. A slice restored or received stands FROZEN, with
EN set and its device released (R279, R282). -/
def Obligations.SliceEvents : Prop :=
  (∀ (s : State) (i : Fin 64), isUp s .app = true →
     let k := i.val
     let x := slOf s k
     (∀ t : BitVec 16,
       let cause := if windowClosed x then (if x.state = .parting then 3 else 2)
         else if idxDist t x.sqHead < idxDist x.sqTail x.sqHead then 4 else if 2 ^ sqLog2 s k < idxDist t x.sqHead then 1 else 0
       exec (.doorbell i t) s = .next (stepEnd s
         (if cause = 0 then setSl s k { x with sqTail := t }
          else
           let u := irq (swIrq (cnt (setSl s k { x with refuse := cause }) .sw k 0x50) k 3) .slc 5
           if windowClosed x then emit u (.accessFault k (Blk.base .sw k + 0x44)) else u))) ∧
     (∀ h : BitVec 16, exec (.cqHeadWrite i h) s = .next (stepEnd s
       (if windowClosed x then emit s (.accessFault k (Blk.base .sw k + 0x54))
        else if idxDist h x.cqHead ≤ idxDist x.cqTail x.cqHead then setSl s k { x with cqHead := h } else s))) ∧
     exec (.partTimeout i) s = .next (stepEnd s
       (if x.state = .parting ∧ partEnded x = false then
         setSl s k { x with squash := true, blocked := true, desc := none, escalated := true } else s)) ∧
     (x.state = .freezing → x.desc = none →
       exec (.freezeDone i) s = .next (after s
         (irq (slGo (setSl s k { x with busy := false, outst := 0 }) k .frozen) .slc 2))) ∧
     (x.swapping = true → exec (.logSwapDone i) s = .next (after s
         (irq (setSl s k { x with swapping := false, busy := x.state == .freezing }) .slc 3))) ∧
     (partEnded x = true → exec (.partingComplete i) s = .next (after s
         (partFinish (evt (irq (sliceRegsFree (setSl (partWords s k) k { Slice.free with blocked := x.blocked }) k) .slc 1)
           0x0F10 0 k (ofBit x.escalated 0) 0) k x.escalated)))) ∧
  (∀ (s : State), isUp s .app = true →
     (isUp s .memory = true → exec .schedulerRound s = .next (stepEnd s
       (((List.range 64).filter fun i => (findK s.slc.s i).isSome).foldl roundSlice s))) ∧
     (∀ (f : Frame) (dt : Nat), exec (.sliceFrameReceive f dt) s = .next (stepEnd s
       (((List.range 64).filter fun i => (slOf s i).state == .active &&
         (if isMulticast f.dst then bit (slReg s i 0) 5 else slMac s i == f.dst)).foldl
           (fun s i => rqDeliver s i f (stampBefore s dt)) s))) ∧
     ∀ (i : Fin 64) (d : Desc),
       let x := { slOf s i.val with outst := 0 }
       let y := setSl s i.val x
       x.desc = some d → descEnded d = true → (runsUnits x = true ∨ x.state = .freezing) →
       let depth := 2 ^ sqLog2 s i.val
       let e := le 8 d.tag.toNat ++ le 2 x.sqHead.toNat ++ le 1 d.status ++ le 1 ((x.sqHead.toNat / depth + 1) % 2) ++ le 4 d.done
       let z := (dmaWrite y i.val (slReg2 s i.val 0x18 + x.cqTail.toNat % depth * 16) e).1
       exec (.descriptorComplete i) s = .next (stepEnd s
         (swIrq (cnt (setSl z i.val { slOf z i.val with
           desc := none, cqTail := (slOf z i.val).cqTail + 1, sqHead := (slOf z i.val).sqHead + 1 }) .slc 0 (slOff i.val 0x74))
           i.val 1))) ∧
  (∀ (s : State) (i : Fin 64) (b : Bg), s.cmd.bg.find? (fun x => x.slice == i.val) = some b →
     (∀ (addr n : Nat), b.kind = .save addr n →
       let img := saveImage s i.val
       exec (.backgroundComplete i) s = .next (after s
         (if n < img.length || !inDram s addr img.length then finishBg s b rFailed []
          else finishBg (wrBytes s addr img) b rOk []))) ∧
     (∀ (addr n : Nat), b.kind = .restore addr n → ∀ (t : State) (r : Nat),
       restoreEnd s (cmdReq b.msg.ctx) i.val addr n = (t, r) →
       exec (.backgroundComplete i) s = .next (after s (finishBg t b r []))) ∧
     (∀ d flags list count sent errs, b.kind = .migSend d flags list count sent errs → migTotal flags count ≤ sent →
       s.rdn.elade.mig.unacked = [] → s.rdn.elade.mig.waiting = [] →
       exec (.backgroundComplete i) s = .next (after s (finishBg s b (if errs = 0 then rOk else rFailed) [])))) ∧
  (∀ (s : State) (i : Nat), i < 64 →
     let t := slFrozen s i
     (slOf t i).state = .frozen ∧ (slOf t i).busy = false ∧ (slOf t i).blocked = false ∧ bit (slReg t i 0) 0 = true ∧
       (∀ j, j ≠ i → slOf t j = slOf s j) ∧ t.mem = s.mem ∧ t.cmd = s.cmd ∧ t.dec = s.dec)

/-! ### Commands of Spindle, the safety island and the pair -/

/-- The commands of Spindle on its data and its program (R286, R289, R295, R300 to R302): while it runs, forces, SPN_STOP and
SPN_SWITCH wait for the boundary between two cycles (log 95); else they act at once. SPN_LOAD: an image that passes its checks takes
the place of a pending one and nothing else changes; the first check that fails decides the result (R38, R286, R289). A force
holds: after SPN_FORCE with an identifier of a forceable variable the table has an entry of it that agrees with the mask and
value given; data, words and memory are as before (R295). -/
def Obligations.SpindleCommandsRun : Prop :=
  (∀ (s : State) (c : CmdCtx),
     (∀ id : Word, answers (.spnReadVar c id) s c 0x1030 (le 4 id.toNat) fun x =>
       if x.spn.cur.isNone then .done x rState []
       else match findVar (spnImg x) id.toNat, forceVar (spnImg x) id.toNat with
         | some v, _ => .done x rOk (slice x.spn.data v.off (min v.size 4064))
         | none, some (o, n, _) => .done x rOk (slice x.spn.data o n)
         | none, none => .done x rState []) ∧
     (answers (.spnSwitch c) s c 0x2050 [] fun x =>
       if switchLegal x = false then .done x rState []
       else if spnWaits x then .waits x .switch else .done (doSwitch x).1 rOk (doSwitch x).2) ∧
     (∀ mode : BitVec 8, answers (.spnRun c mode) s c 0x2051 (le 1 mode.toNat) fun x =>
       if 1 < mode.toNat ∨ x.spn.state = .noImage ∨ x.spn.state = .running then .done x rState []
       else
         let img := spnImg x
         let data := if mode = 1 then dPut (initData img) (retOff img) (slice x.spn.data (retOff img) (retLen img)) else x.spn.data
         .done { x with spn := { x.spn with state := .running, data := data, inCycle := false, cycleStart := none } } rOk []) ∧
     (answers (.spnStop c) s c 0x2052 [] fun x =>
       if spnWaits x then .waits x .stop
       else .done (if x.spn.state = .fault ∨ x.spn.state = .running then spnHalt x .stopped else x) rOk []) ∧
     (∀ (id : Word) (mask value : BitVec 64),
       answers (.spnForce c id mask value) s c 0x2053 (le 4 id.toNat ++ le 8 mask.toNat ++ le 8 value.toNat) fun x =>
         if spnWaits x then .waits x (.force id mask value)
         else match forceSet x id.toNat mask.toNat value.toNat with
           | some t => .done t rOk []
           | none => .done x rState []) ∧
     (∀ id : Word, answers (.spnUnforce c id) s c 0x2054 (le 4 id.toNat) fun x =>
       if spnWaits x then .waits x (.unforce id)
       else match forceOf x id.toNat with
         | some f => .done (irq { x with spn := { x.spn with force := delK x.spn.force f.1 } } .spn 4) rOk []
         | none => .done x rState []) ∧
     (answers (.spnUnforceAll c) s c 0x2055 [] fun x =>
       if spnWaits x then .waits x .unforceAll
       else .done (if x.spn.force = [] then x else irq { x with spn := { x.spn with force := [] } } .spn 4) rOk []) ∧
     (answers (.spnDiscard c) s c 0x5011 [] fun x =>
       if switchOpen x = true ∨ x.nv.spnPend = none then .done x rState []
       else .done { x with nv := { x.nv with spnPend := none } } rOk [])) ∧
  (∀ (s : State) (c : CmdCtx) (addr : BitVec 64) (len : Word),
     let args := objArgs c addr.toNat len.toNat
     answers (.spnLoad c addr len) s c 0x5010 args fun x =>
       match objOf x (msgOf s c 0x5010 args) with
       | none => .done x rState []
       | some (p, n) =>
         let img := rdBytes x p (min n 0x100001)
         if switchOpen x then .done x rState []
         else if spnImageForm img = false then .done x rFailed []
         else
           let y := (verifyKey x (fld x .chk 0x44 4 2)).1
           if sigOk (verifyKey x (fld x .chk 0x44 4 2)).2 img = false then .done (verifyFailed y) rSignature []
           else if variantOk y (numAt img 12 4) = false then .done y rVariant []
           else if spnDigestOk img = false then .done y rFailed []
           else match poolPlace y [y.nv.cfg, y.nv.spn] n with
             | none => .done y rFailed []
             | some (z, r) => .done { wrBytes z r.addr img with nv := { z.nv with spnPend := some r } } rOk []) ∧
  (∀ (s t : State) (id : Word) (mask value : BitVec 64), forceSet s id.toNat mask.toNat value.toNat = some t →
     (∃ k f, findK t.spn.force k = some f ∧ f.id = id ∧ f.mask &&& mask = mask ∧ f.value &&& mask = value &&& mask) ∧
       t.spn.data = s.spn.data ∧ t.spn.state = s.spn.state ∧ t.mem = s.mem ∧ t.wr = s.wr ∧ t.dec = s.dec ∧ t.out = s.out)

/-- The commands of the safety island (R308, R309, R314, R317): SFI_PROOF requests an operation of a drive in PROOF and waits
for its end, or ends with STATE when the request is refused (log 93), SFI_ACK without a fault present leaves DEGRADED for RUN and SAFE for SELFTEST, SFI_STOP halts a moving drive. The
commands of the pair (R339 to R341): RDN_HANDOVER offers the token of a Headstock to a healthy partner, RDN_TAKEBACK asks the
arbiter for it on the preferred side, RDN_WITHDRAW takes NOT_WITHDRAWN from the health word, on a Headstock by a handover
unless it is forced, RDN_RESTORE gives it back. -/
def Obligations.SafetyPairCommands : Prop :=
  (∀ (s : State) (c : CmdCtx),
     (∀ d dir : BitVec 8, answers (.sfiProof c d dir) s c 0x2060 (le 1 d.toNat ++ le 1 dir.toNat) fun x =>
       if 3 < d.toNat ∨ 1 < dir.toNat ∨ (drOf x d.toNat).state ≠ .proof then .done x rState []
       else
         let y := sfiRequest x d.toNat (dir == 1) true false
         if sfiReason x d.toNat (dir == 1) true false = 0 then .waits y (.proof d.toNat) else .done y rState []) ∧
     (answers (.sfiAck c) s c 0x2061 [] fun x =>
       if faultPresent x = true ∨ (x.sfi.state ≠ .degraded ∧ x.sfi.state ≠ .safe) then .done x rState []
       else if x.sfi.state = .degraded then
         let y := ((List.range 4).filter fun d => (drOf x d).state == .locked).foldl
           (fun s d => setDr s d { drOf s d with state := .proof, provenOpen := false, provenClose := false }) x
         .done (sfiLatch (sfiGo { y with sfi := { y.sfi with fault1 := (0, 0), fault2 := (0, 0), degLeft := 0 } } .run)) rOk []
       else
         .done (sfiLatch (sfiGo (drivesProof { x with sfi := { x.sfi with
           tested := false, parOk := false, fault1 := (0, 0), fault2 := (0, 0), degLeft := 0 } }) .selftest)) rOk []) ∧
     (∀ d : BitVec 8, answers (.sfiStop c d) s c 0x2062 (le 1 d.toNat) fun x =>
       if 3 < d.toNat ∨ (drOf x d.toNat).state ≠ .moving then .done x rState []
       else .done (setDr (outOff x d.toNat) d.toNat { drOf (outOff x d.toNat) d.toNat with state := .halted }) rOk [])) ∧
  (∀ (s : State) (c : CmdCtx),
     let legal (x : State) : Bool :=
       x.rdn.mstate == .headstock && !x.rdn.window && x.rdn.elade.up && peerHealthy x
     (answers (.rdnHandover c) s c 0x7001 [] fun x =>
       if legal x then .done (linkSend x 1 6 (le 4 x.rdn.tokEpoch)) rOk [] else .done x rState []) ∧
     (answers (.rdnTakeback c) s c 0x7002 [] fun x =>
       if rdnPreferred x = true ∧ x.rdn.mstate = .tailstock ∧ x.rdn.window = false ∧ x.rdn.elade.up = true then
         .done (sendTake { x with rdn := { x.rdn with holdFrom := none } } 3) rOk []
       else .done x rState []) ∧
     (∀ force : BitVec 8, answers (.rdnWithdraw c force) s c 0x7003 (le 1 force.toNat) fun x =>
       if 1 < force.toNat then .done x rState []
       else if x.rdn.mstate = .headstock ∧ force = 0 then
         if legal x then
           let y := { x with rdn := { x.rdn with withdrawn := true } }
           .done (linkSend y 1 6 (le 4 x.rdn.tokEpoch)) rOk []
         else .done x rState []
       else .done { x with rdn := { x.rdn with notWithdrawn := false, withdrawn := false } } rOk []) ∧
     (answers (.rdnRestore c) s c 0x7004 [] fun x =>
       .done { x with rdn := { x.rdn with notWithdrawn := true, withdrawn := false },
                      aon := { x.aon with pfWithdrew := false } } rOk []))

/-! ### Commands of Chuck, clocks and resets -/

/-- What Chuck answers without changing anything (R356, R357, R359): the attestation statement with its proof, the public key,
the description of a slot. Keys written and erased on a part that is neither sealed nor in debug (R347, R350): a legal target
and form begin a commit, for whose end the command waits (log 58), the first check that fails decides the result. Under the seal every one of them is refused. -/
def Obligations.ChuckCommands : Prop :=
  (∀ (s : State) (c : CmdCtx),
     (∀ nonce : List Byte, answers (.chkAttest c nonce) s c 0x1040 nonce fun x =>
       let m := statement x nonce
       if fld x .chk 0x40 0 1 = 0 then
         .done x rOk (m ++ Config.mldsaSign (if x.fuse.debug then Config.testPrivate else Config.devicePrivate) m)
       else match loadSym x (fld x .chk 0x40 8 6) 5 with
         | (y, some k) => .done y rOk (m ++ kmac256 k m 32 (ascii "ASDAR-ATT"))
         | (y, none) => .done y rState []) ∧
     (answers (.chkPubkey c) s c 0x1041 [] fun x =>
       .done x rOk (padTo 1952 (if x.fuse.debug then Config.testPublic else Config.devicePublic))) ∧
     (∀ kind n : BitVec 8, answers (.chkSlotInfo c kind n) s c 0x1042 (le 1 kind.toNat ++ le 1 n.toNat) fun x =>
       if slotExists kind.toNat n.toNat = false then .done x rFailed []
       else
         let sl := slotOf x kind.toNat n.toNat
         let test := x.fuse.debug && kind == 0
         let key := if test then findK x.chk.test n.toNat else sl.key
         let bad := !test && sl.bad
         match key with
         | some k => .done x rOk ([BitVec.ofNat 8 (ofBit (test || sl.valid) 0), BitVec.ofNat 8 (ofBit bad 0)] ++
             le 2 k.usage.toNat ++ le 4 k.id.toNat ++ le 2 (8 * k.share.length) ++ le 2 0 ++ le 4 k.version.toNat)
         | none => .done x rOk ([0, BitVec.ofNat 8 (ofBit bad 0)] ++ List.replicate 10 (0 : Byte) ++
             le 4 (match sl.inactive with | some k => k.version.toNat | none => 0)))) ∧
  (∀ (s : State) (c : CmdCtx) (kind n : BitVec 8), s.fuse.debug = false →
     let k := kind.toNat
     (∀ (id : Word) (usage len : BitVec 16) (value : List Byte),
       let args := le 1 k ++ le 1 n.toNat ++ le 4 id.toNat ++ le 2 usage.toNat ++ le 2 len.toNat ++ value
       answers (.keyWrite c kind n id usage len value) s c 0x6001 args fun x =>
         if x.fuse.sealed then .done x rPolicy []
         else if slotExists k n.toNat = false then .done x rFailed []
         else if (k ≠ 0 ∧ n = 0) ∨ (k = 2 ∧ (slotOf x 2 1).valid = true) then .done x rPolicy []
         else if keyForm k id.toNat usage.toNat len.toNat value = false then .done x rFailed []
         else match commitKey x k n.toNat (if k = 0 then 1 else if k = 1 then 3 else 5) x.chk.keyCtr.toNat value id usage with
           | some t => .waits t .commit
           | none => .done x rFailed []) ∧
     (answers (.keyErase c kind n) s c 0x6002 (le 1 k ++ le 1 n.toNat) fun x =>
       if x.fuse.sealed then .done x rPolicy []
       else if slotExists k n.toNat = false then .done x rFailed []
       else if k = 2 ∨ (k = 1 ∧ n = 0) then .done x rPolicy []
       else match commitErase x k n.toNat (if k = 0 then 2 else 4) x.chk.keyCtr.toNat with
         | some t => .waits t .commit
         | none => .done x rFailed []))

/-- A commit (R344, R350): the new content stands in the copy that is not active, in its cell and read back, and nothing else has
changed. Then (log 58: in idle cycles) the record is written into the next place of the ring, its CRC word last, and the copy of the
record is the active one, with its version, counter and MIN_SVN; at a power-fail warning a commit whose record is not begun stands
still. -/
def Obligations.KeyCommitted : Prop :=
  (∀ (s t : State) (kind n op ctr : Nat) (v : List Byte) (id : Word) (usage : BitVec 16), ctr < 2 ^ 64 →
     commitKey s kind n op ctr v id usage = some t →
     let x := slotOf s kind n
     let y := slotOf t kind n
     isUp s .memory = true ∧ y.valid = x.valid ∧ y.active = x.active ∧ y.bad = x.bad ∧ y.key = x.key ∧
       (∃ k u, y.inactive = x.inactive ∧ (if x.active then y.a else y.b) = some k ∧ k.id = id ∧ k.usage = usage ∧
         k.tag = keyTag kind n k ∧ (∀ o, x.key = some o → k.version = o.version + 1) ∧
         rdBytes t (cellAddr kind n (!x.active)) (cellBytes kind n (!x.active) k).length = cellBytes kind n (!x.active) k ∧
         t.chk.upd = some u ∧ u.kind = kind ∧ u.slot = n ∧ u.op = op ∧ u.copy = !x.active ∧ u.erase = false ∧
         u.ctr.toNat = ctr ∧ u.minSvn = s.chk.minSvn ∧ u.tag = k.tag ∧ u.phase = 0 ∧ u.result = none) ∧
       (∀ j m, (j, m) ≠ (kind, n) → slotOf t j m = slotOf s j m) ∧
       t.chk.keyCtr = s.chk.keyCtr ∧ t.chk.commitSeq = s.chk.commitSeq ∧ t.fuse = s.fuse ∧ t.cmd = s.cmd ∧ t.regs = s.regs) ∧
  (∀ (s : State) (u : Upd), s.chk.upd = some u → u.result = none →
     let a := commitAddr (s.chk.commitSeq + 1)
     let stage (s : State) (p : Nat) : State := { s with chk := { s.chk with upd := some { u with phase := p } } }
     (u.phase = 0 → s.aon.pf = true → commitStep s = s) ∧
     (u.phase = 0 → s.aon.pf = false → isUp s .memory = true →
       commitStep s = stage (wrBytes s a ((u.record s).take 60)) 1) ∧
     (u.phase = 1 → isUp s .memory = true → commitStep s = stage (wrBytes s (a + 60) ((u.record s).drop 60)) 2) ∧
     (2 ≤ u.phase → u.kind ≠ 3 → u.op ≠ 8 →
       let t := commitStep s
       let x := slotOf s u.kind u.slot
       slotOf t u.kind u.slot = { x with active := u.copy, valid := !u.erase, bad := false } ∧
         (∀ j m, (j, m) ≠ (u.kind, u.slot) → slotOf t j m = slotOf s j m) ∧ t.chk.keyCtr = u.ctr ∧ t.chk.minSvn = u.minSvn ∧
         t.chk.commitSeq = s.chk.commitSeq + 1 ∧ t.chk.upd = some { u with result := some rOk } ∧ t.fuse = s.fuse ∧
         t.regs = (irq s .chk 2).regs))

/-- KEY_UPDATE and KEY_UPDATE_STAGED (R348, R349, R350): a message whose form is wrong is refused; a refused update is counted and
raises interrupt 3; one whose commit has begun waits for its end; the staged form reads the message out of its object. The order of
the checks of an update (R349): without a valid ROOT1 STATE, then the signature, then identity and counter, then the target; an
update that passes them all begins its operation's commit, with the message's counter: a key that unwraps, an erasure, a public key,
a new ROOT1, or debug at the next start. -/
def Obligations.KeyUpdateCommands : Prop :=
  let refused (s : State) : State := irq (cnt s .chk 0 0xB0) .chk 3
  let commits (s : State) (o : Option State) : Res := match o with
    | some t => (t, rProgress, [])
    | none => (s, rFailed, [])
  (∀ (s : State) (c : CmdCtx),
     let act (x : State) (m : List Byte) : Act :=
       if updForm m = false then .done (refused x) rFailed []
       else
         let r := updApply x m
         if r.2.1 = rProgress then .waits r.1 .commit else .done r.1 r.2.1 r.2.2
     (∀ m : List Byte, answers (.keyUpdate c m) s c 0x6003 m fun x => act x m) ∧
     (∀ (addr : BitVec 64) (len : Word),
       let args := objArgs c addr.toNat len.toNat
       answers (.keyUpdateStaged c addr len) s c 0x6004 args fun x =>
         match objOf x (msgOf s c 0x6004 args) with
         | none => .done x rState []
         | some (p, n) => act x (rdBytes x p (min n 0x10000)))) ∧
  (∀ (s : State) (m : List Byte),
     let y := (verifyKey s 0).1
     let n := 128 + numAt m 64 4
     let op := numAt m 6 1
     let k := numAt m 7 1
     let ctr := numAt m 8 8
     let good : Bool := match (verifyKey s 0).2 with
       | some k => Config.mldsaVerify k (m.take n) (m.drop n)
       | none => false
     updApply s m =
       if (slotOf s 2 1).valid = false then (refused s, rState, [])
       else if good = false then (refused y, rSignature, [])
       else if slice m 16 32 ≠ idDigest y.fuse ∨ ctr ≤ y.chk.keyCtr.toNat then (refused y, rPolicy, [])
       else if updTarget y op k = false then (refused y, rFailed, [])
       else if op = 1 then (match updKey y m with
         | (t, some v) => commits t (commitKey t 0 k 1 ctr v (BitVec.ofNat 32 (numAt m 48 4)) (BitVec.ofNat 16 (numAt m 52 2)))
         | (t, none) => (refused t, rFailed, []))
       else if op = 2 then commits y (commitErase y 0 k 2 ctr)
       else if op = 3 then commits y (commitKey y 1 k 3 ctr (slice m 128 1952) 0 0)
       else if op = 4 then commits y (commitErase y 1 k 4 ctr)
       else if op = 5 then commits y (commitKey y 2 1 5 ctr (slice m 128 1952) 0 0)
       else commits y (commitBare y op y.chk.minSvn ctr))

/-- Firmware (R352, R353): FW_LOAD writes an image that passes its checks into the slot that does not run, FW_CONFIRM begins
the commit that raises the least SVN to that of the running image. Sealing and debug (R347, R358): CHK_SEAL with the right digest and a valid ROOT1
seals the part, but not variant S; CHK_DEBUG switches debug at the next start, unless the part is sealed. -/
def Obligations.FirmwareSealDebugCommands : Prop :=
  (∀ (s : State) (c : CmdCtx),
     (∀ (addr : BitVec 64) (len : Word),
       let args := objArgs c addr.toNat len.toNat
       answers (.fwLoad c addr len) s c 0x5001 args fun x =>
         match objOf x (msgOf s c 0x5001 args) with
         | none => .done x rState []
         | some (p, n) =>
           let img := rdBytes x p (min n 0x400001)
           let y := (fwKey x).1
           if fwForm img = false then .done x rFailed []
           else if sigOk (fwKey x).2 img = false then .done (cnt y .chk 0 0xB4) rSignature []
           else if variantOk y (numAt img 12 4) = false then .done y rVariant []
           else if fwDigestOk img = false then .done y rFailed []
           else if numAt img 20 4 < y.chk.minSvn.toNat then .done y rPolicy []
           else .done (wrBytes y (0x52570000 + (1 - y.chk.fwSlot) * 0x400000) img) rOk []) ∧
     (answers (.fwConfirm c) s c 0x5002 [] fun x =>
       if x.chk.unconfirmed = false then .done x rState []
       else match commitBare x 8 x.chk.fwSvn x.chk.keyCtr.toNat with
         | some y => .waits y .commit
         | none => .done x rFailed [])) ∧
  (∀ (s : State) (c : CmdCtx),
     (∀ digest : List Byte, answers (.chkSeal c digest) s c 0x6005 digest fun x =>
       if x.fuse.variant = .s then .done x rPolicy []
       else if (slotOf x 2 1).valid = false ∨ digest ≠ idDigest x.fuse then .done x rState []
       else .done { x with fuse := { x.fuse with sealed := true } } rOk []) ∧
     (∀ on : BitVec 8, answers (.chkDebug c on) s c 0x6006 (le 1 on.toNat) fun x =>
       if x.fuse.sealed then .done x rPolicy []
       else if 2 ≤ on.toNat then .done x rState []
       else if (on == 1) = x.fuse.debug then .done { x with chk := { x.chk with debugPend := none } } rOk []
       else .done (irq { x with chk := { x.chk with debugPend := some (on == 1) } } .chk 6) rOk []))

/-- Clocks, resets and power states (R377, R388, R389, R393): CLK_RETURN moves what can return to its own source; RST_MODULE
announces a reset; RST_ISLAND resets islands 1 to 10 and no other (one that is held stays so); PWR_SLEEP needs every slice FREE; PWR_RUN ends the sleep.
PWR_DEEP (R394): refused with STATE to a module that holds or asks for the token, or whose RESET_N is stuck with no wake
timer; else it answers OK and the module goes into deep sleep. -/
def Obligations.ClockResetPowerCommands : Prop :=
  (∀ (s : State) (c : CmdCtx),
     (answers (.clkReturn c) s c 0x2070 [] fun x =>
       let sys := onFallback x && x.clk.sysOnRc && x.clk.refclk.stable
       let aon := x.clk.aonOnRef && x.clk.rc.stable
       let y := if sys then switchSys x false else x
       if sys = false ∧ aon = false then .done x rState []
       else .done (if aon then { y with clk := { y.clk with aonOnRef := false } } else y) rOk []) ∧
     (answers (.rstModule c) s c 0x2080 [] fun x => .done { x with aon := { x.aon with rstDue := true } } rOk []) ∧
     (∀ n : BitVec 8, answers (.rstIsland c n) s c 0x2081 (le 1 n.toNat) fun x =>
       match islands[n.toNat]? with
       | some i =>
         if 1 ≤ n.toNat ∧ n.toNat ≤ 10 then .done (if held x i then x else leaveReset (enterReset x i) i false) rOk []
         else .done x rState []
       | none => .done x rState []) ∧
     (answers (.pwrSleep c) s c 0x2082 [] fun x =>
       if (List.range 64).all (fun i => (slOf x i).state == .free) then
         let y := enterReset x .app
         .done { y with aon := { y.aon with pwr := 1 } } rOk []
       else .done x rState []) ∧
     (answers (.pwrRun c) s c 0x2083 [] fun x =>
       if x.aon.pwr = 0 then .done x rState []
       else
         let y := { x with aon := { x.aon with pwr := 0 } }
         if clkEn y 8 then
           .done (leaveReset { y with
             aon := { y.aon with clkOff := y.aon.clkOff &&& ~~~0x100 }, clk := { y.clk with lock := y.clk.lock ||| 0x100 } } .app
             false) rOk []
         else .done y rOk [])) ∧
  (∀ (s : State) (c : CmdCtx), ready s c 0x2084 [] = true → unitReady s 0x2084 = true →
     let x := opened s c 0x2084 []
     let held := x.rdn.mstate == .headstock || x.rdn.mstate == .requesting || x.rdn.mstate == .taking
     let dead := x.aon.stuck && reg x .aon 0 0x48 == 0
     exec (.pwrDeep c) s = .next (after s
       (if held || dead then ended s c 0x2084 [] x rState [] else deepEnter (ended s c 0x2084 [] x rOk []))))

/-! ### Time, ports and switch: the rows that are events -/

/-- A step of the timebase (R20): the time is the new one, the epoch counts, the next grain carries the step flag and sampling is
re-phased, REF10_OUT stops; the number of grains, servo state, quality and integrator stay, and no grain number falls back. -/
def Obligations.TimeSteps : Prop :=
  ∀ (s : State) (new : Nat),
    let t := timStep s new
    t.tim.time = new ∧ t.tim.epoch = (s.tim.epoch + 1) % 4 ∧ t.tim.stepFlag = true ∧ t.tim.rephase = true ∧ t.tim.ref10 = false ∧
      t.tim.grains = s.tim.grains ∧ t.tim.servo = s.tim.servo ∧ t.tim.quality = s.tim.quality ∧ t.tim.integ = s.tim.integ ∧
      t.tim.freq = s.tim.freq ∧ t.tim.parent = s.tim.parent ∧
      t.tim.lastGrain = s.tim.lastGrain ∧ t.tim.ppsFloor = topFrom new ∧ t.tim.ppsMark = s.tim.ppsMark ∧
      ∀ a k, s.tim.lastGrain = some (a, k) → a * 14400 + k + 1 ≤ nextGrain t

/-- The time core's own events. GRAIN_STROBE (R49, R378): with the Time island up the next grain is made at its labelled
instant or at once, and everything that waits for a grain is served; on the RC oscillator the grain is skipped and counted.
HOLD_DELAY and HOLD_LIMIT (R64) act in FINISHING and HOLDOVER alone. PPS_OUT (R66) rises once for each second, and falls. A
leap second (R48) moves UTC_OFFSET and clears its flag while SOURCE is not PTP. An edge at PPS_IN (R66, R67): its stamp stands
in the registers, a stamp not read before is marked as lost, interrupt 8 is raised, and under SOURCE 1 with the time set the
offset to the nearest second is taken by the servo. -/
def Obligations.TimeCoreEvents : Prop :=
  (∀ s : State,
     (isUp s .time = true →
       let g := nextGrain s
       let at' := max s.tim.time (g / 14400 * secU + strobeNs (g % 14400) * nsU)
       let p := pauseEnd { s with tim := { s.tim with time := at' } }
       let u : State :=
         { p with tim := { p.tim with time := at', lastGrain := some (g / 14400, g % 14400),
                                      gaps := p.tim.gaps.filter fun e => decide (g < e.2) } }
       let l : Label :=
         { sec := g / 14400, k := g % 14400, n := s.tim.grains + 1, quality := s.tim.quality, epoch := s.tim.epoch,
           step := s.tim.stepFlag }
       let v := emit { u with tim := { u.tim with grains := s.tim.grains + 1, stepFlag := false, rephase := false } } (.grain l)
       exec .grainStrobe s = .next (after s (
         if timFallback s = true then energyBoundary (cnt u .tim 0 0x98)
         else energyBoundary (gpPumpAll (ggeTransfer (ggeFill (ggeGrain
           (cfgMarks (openSet (if s.tim.rephase = true then acqStep v else v) l) l.n) l))))))) ∧
     exec .holdDelayExpiry s = .next (afterPair s (if s.tim.servo = .finishing then servoGo s .holdover else s)) ∧
     (s.tim.servo = .finishing →
       (servoGo s .holdover).tim.servo = .holdover ∧ (servoGo s .holdover).tim.freq = roundAway s.tim.integ integUnit ∧
         (servoGo s .holdover).tim.quality = if timFallback s = true then 2 else 1) ∧
     exec .holdLimitExpiry s = .next (afterPair s (if s.tim.servo = .holdover then setQuality s 2 else s)) ∧
     (setQuality s 2).tim.quality = 2 ∧
     (isUp s .time = true → ppsGated s = false → s.tim.ppsFloor ≤ nowSec s →
       (∀ e ∈ s.tim.ppsMark, nowSec s < e.1 ∨ e.2 ≤ nowSec s) →
       exec .ppsOutPulse s = .next (stepEnd s
         { s with tim := { s.tim with ppsHigh := true, ref10 := true, ppsMark := ppsMarked s.tim.ppsMark (nowSec s) } })) ∧
     (∀ m : List (Nat × Nat), ∃ e ∈ ppsMarked m (nowSec s), e.1 ≤ nowSec s ∧ nowSec s < e.2) ∧
     (isUp s .time = false ∨ ppsGated s = true ∨ nowSec s < s.tim.ppsFloor ∨
         (∃ e ∈ s.tim.ppsMark, e.1 ≤ nowSec s ∧ nowSec s < e.2) →
       exec .ppsOutPulse s = .next (stepEnd s s)) ∧
     exec .ppsWidthExpiry s = .next (stepEnd s { s with tim := { s.tim with ppsHigh := false } }) ∧
     (isUp s .time = true → fld s .tim 0x40 2 2 ≠ 0 →
       let off := fld s .tim 0x54 0 16
       let moved (n b : Nat) : State :=
         let r := setFld (setFld s .tim 0x54 0 16 n) .tim 0x54 b 1 0
         irq { r with tim := { r.tim with utcChanged := some (mono r) } } .tim 9
       exec .leapSecond s = .next (stepEnd s (
         if flag s .tim 0x54 16 = true then moved (min (off + 1) 255) 16
         else if flag s .tim 0x54 17 = true then moved (off - 1) 17 else s))) ∧
     (fld s .tim 0x40 2 2 = 0 → exec .leapSecond s = .next (stepEnd s s))) ∧
  (∀ (s : State) (dt : Nat), isUp s .time = true →
     let st := stampBefore s dt
     let a := if s.tim.ppsUnread = true then setReg s .tim 0 0xD0 1 else s
     let b := irq (setReg (setReg (setReg2 a .tim 0 0xC0 st.sec) .tim 0 0xC8 st.ns) .tim 0 0xCC st.frac) .tim 8
     let e : State := { b with tim := { b.tim with ppsUnread := true } }
     exec (.ppsInEdge dt) s = .next (afterPair s
       (if fld e .tim 0x40 2 2 = 1 ∧ s.tim.setDone = true ∧ s.tim.servo ≠ .invalid then
         takeOffset e (toSecond ((st.units : Int) - toSigned 32 (reg e .tim 0 0x5C) * 65536)) true
        else e)))

/-- PTP frames and the stack (R52, R55 to R59): a frame at a port that is no PTP port is counted and dropped; at a PTP port it is
forwarded unless the switch has bound it to the other ports, and each kind has its effect at the stack with the stamp of its
arrival; an accepted Announce is weighed, and under SOURCE 0 brings the UTC offset; without Announce at a port its masters are
forgotten and the best master algorithm decides anew; a Pdelay_Req opens an exchange; Sync and Announce leave a port at which the
module is master. -/
def Obligations.PtpEvents : Prop :=
  ∀ (s : State) (p : Fin 64), isUp s .time = true →
    (∀ f : Frame,
      (isPtpPort s p.val = false →
        (∀ dt, exec (.ptpFrameReceive p f dt) s = .next (afterPair s (cnt s .tim 0 0xB0))) ∧
        exec (.announceReceive p f) s = .next (after s (cnt s .tim 0 0xB0))) ∧
      (isPtpPort s p.val = true →
        (∀ (m : PtpMsg) (dt : Nat), f.pdu = .ptp m →
          let stamp := if f.stampLost = true then none else some (rxStamp s p.val dt)
          let r := ptpRelay s p.val f stamp
          exec (.ptpFrameReceive p f dt) s = .next (afterPair s (match m.type with
            | .sync => stackSync r p.val m stamp
            | .followUp => stackFollowUp r p.val m f.stampLost
            | .pdelayReq => pdelayAnswer r p.val m stamp
            | .pdelayResp => pdelayResp r p.val m stamp
            | .pdelayRespFollowUp => if f.stampLost = true then pdelayDrop r p.val else pdelayFollowUp r p.val m
            | .management | .announce | .other => r))) ∧
        (∀ a : Announce, f.pdu = .ann a →
          let r := ptpRelay s p.val f (if f.stampLost = true then none else some (rxStamp s p.val 0))
          let e := announce r p.val a
          exec (.announceReceive p f) s = .next (after s (
            if annAccepted r p.val a = false then r
            else if fld e .tim 0x40 2 2 = 0 ∧ a.utcValid = true then
              (busWrite e { cls := .internal, index := 3 } .tim 0 0x54 0x3FFFF
                (min a.utcOffset 0xFFFF + ofBit a.leap61 16 + ofBit a.leap59 17)).st
            else e))))) ∧
    (isPtpPort s p.val = false → exec (.announceTimeout p) s = .next (afterPair s s)) ∧
    (isPtpPort s p.val = true →
      exec (.announceTimeout p) s = .next (afterPair s (bmca { s with tim := { s.tim with
        foreign := s.tim.foreign.filter (fun e => e.port != p.val), left := s.tim.left ||| BitVec.ofNat 64 (2 ^ p.val),
        slavePort := if s.tim.slavePort = some p.val then none else s.tim.slavePort } })) ∧
      (let x : Pdelay :=
         { port := p.val, seqId := s.tim.seqPd, t1 := none, t2 := none, t4 := none, corr := 0, epoch := s.tim.epoch }
       ∃ m : PtpMsg, m.type = .pdelayReq ∧ m.clockId = ownClock s ∧ m.seqId = s.tim.seqPd ∧ m.portNum.toNat = p.val + 1 ∧
         exec (.pdelayReq p) s = .next (stepEnd s
           (ptpSend { s with tim := { s.tim with seqPd := s.tim.seqPd + 1,
                                                 pdelay := s.tim.pdelay.filter (fun y => y.port != p.val) ++ [x] } }
             p.val true 54 (.ptp m) none))) ∧
      (s.tim.masters.toNat.testBit p.val = true →
        ∃ (m : PtpMsg) (a : Announce), m.type = .sync ∧ m.clockId = ownClock s ∧ m.seqId = s.tim.seqSync ∧
          a.clockId = ownClock s ∧ a.gmId = ownClock s ∧ a.seqId = s.tim.seqAnn ∧ a.gmClass.toNat = ownClass s ∧
          exec (.syncTransmit p) s = .next (stepEnd s
            (ptpSend (ptpSend
              { s with tim := { s.tim with seqSync := s.tim.seqSync + 1, seqAnn := s.tim.seqAnn + 1 } }
              p.val false 44 (.ptp m) none) p.val false 64 (.ann a) none)))) ∧
    (s.tim.masters.toNat.testBit p.val = false → exec (.syncTransmit p) s = .next (stepEnd s s))

/-- A frame at a port without a pair and without cut-through (R73, R76, R78, R95): at a port that is down nothing happens; the
first stage that refuses the frame counts it and no more; a frame that passes them all counts as received with its length and is
handed to the switch with its stamp and its queue, or, while the Switch island is down, discarded at the crossing (R15). -/
def Obligations.FrameStages : Prop :=
  ∀ (s : State) (p : Fin 64) (f : Frame) (dt : Nat),
    let k := p.val
    let ends (t : State) : Prop := exec (.frameReceive p f dt) s = .next (stepEnd s t)
    (portUp s k = false → ends s) ∧
    (portUp s k = true → pairOf s k = none → inMap64 s 0x78 k = false → tsqLen s (k / 4) < 256 → f.fecCorr = 0 →
      let long := decide (fldI s .prt k 0x40 16 14 < f.len - redBytes s k f)
      if f.symErr = true then ends (rxErr s k 0x138 1)
      else if f.fecUncorr ≠ 0 then ends (rxErr s k 0x140 f.fecUncorr)
      else if f.len - redBytes s k f < 64 then ends (rxErr s k 0x110 1)
      else if long = true then ends (rxErr s k 0x114 1)
      else if f.fcsOk = false then ends (rxErr s k 0x10C 1)
      else if f.etype = 0x8808 then ends (cnt s .prt k 0x120)
      else if vlanAccept s k f = false then ends (cnt s .prt k 0x118)
      else match steer s k f with
        | none => ends (cnt s .prt k 0x11C)
        | some q =>
          if f.etype = 0x88F7 ∧ isPtpPort s k = false then ends (cnt s .tim 0 0xB0)
          else if isDown s .switch = true then ends (crossDrop s .prt k)
          else
            let t := bytesUp (cnt s .prt k 0x100) k 0x104 f.len
            let t := if f.etype = 0x88FB then cnt t .prt k 0x134 else t
            ends (handOver t k f (some (rxStamp s k dt)) (mono s - dt * cycleU s) q .good none))

/-- Transmission and links (R15, R79, R82, R83, R99, R103, R106, R109). A frame of an island enters the switch at its internal port,
or is discarded at the crossing while the Switch island is down. A port that is free starts the head of its highest queue, cut
through when no other port of its tile sends so; the last byte ends the transmission, counts it and sends the frame out. A link
comes up when its port is enabled, present and out of reset with its reference there; a link that falls drops what is queued
there, ends a frame in reception through the receive stages, and FLUSHING ends by its row. -/
def Obligations.PortEvents : Prop :=
  ∀ s : State,
    (∀ (ip : Fin 4) (f : Frame) (q : Fin 8),
      exec (.internalPortFrame ip f q) s = .next (stepEnd s
        (sendVia s (64 + ip.val) f (ownVlan f).1 (ownVlan f).2 q.val)) ∧
      (isUp s .switch = true → ipUp s (64 + ip.val) = false ∨ blank s = true →
        exec (.internalPortFrame ip f q) s = .next (stepEnd s s)) ∧
      (isUp s .switch = false → exec (.internalPortFrame ip f q) s = .next (stepEnd s (crossDrop s (ipBlk (64 + ip.val)) 0)))) ∧
    (∀ p : Fin 68,
      (anyUp s p.val = false ∨ (∃ c ∈ s.ports.tx, c.port = p.val) ∨ nextCopy s p.val = none →
        exec (.transmitStart p) s = .next (stepEnd s s)) ∧
      (∀ (c : Copy) (fr : SFrame), anyUp s p.val = true → (∀ x ∈ s.ports.tx, x.port ≠ p.val) → nextCopy s p.val = some c →
        frameOf s c.frame = some fr → (∀ m, (egressFrame s fr c).pdu ≠ .ptp m) →
        let ct := c.ct && !tileCt s p.val
        let now := mono s - 8 * byteU s p.val
        let c' : Copy := { c with sent := some (egressFrame s fr c), ct := ct, start := if ct = true then max c.start now else now }
        let two := (fr.ptrs.take 2).filter fun x => !(bufOf s p.val).contains x
        let t : State := { s with
          swc := { s.swc with copies := s.swc.copies.filter fun x => x != c,
                              buf := if p.val < 64 then putK s.swc.buf p.val (bufOf s p.val ++ two) else s.swc.buf },
          ports := { s.ports with tx := s.ports.tx ++ [c'] } }
        exec (.transmitStart p) s = .next (stepEnd s (if ct = true then cnt t .swc 0 0x314 else t))) ∧
      (∀ (c : Copy) (f : Frame), s.ports.tx.find? (fun x => x.port == p.val) = some c → c.sent = some f →
        let r := dropCopies s fun x => x == c
        let t : State := { r with tim := { r.tim with tsq := r.tim.tsq.filter fun e => e.1 != p.val } }
        exec (.transmitEnd p) s = .next (stepEnd s
          (if p.val < 64 then emit (bytesUp (cnt t .prt p.val 0x150) p.val 0x154 f.len) (.frame p.val f)
           else emit (cnt t .swc 0 (0x400 + (p.val - 64) * 0x20 + 8)) (.toInternal (p.val - 64) f)))) ∧
      ((∀ x ∈ s.ports.tx, x.port ≠ p.val) → exec (.transmitEnd p) s = .next (stepEnd s s))) ∧
    (∀ p : Fin 64,
      let k := p.val
      (portUp s k = false → bit (reg s .prt k 8) 0 = true → s.clk.serdes.failed = false → isUp s (portIsland k) = true →
        portPresent s k = true →
        ∃ t, exec (.linkUp p) s = .next (stepEnd s t) ∧ portUp t k = true ∧
          (∀ j, j < 64 → j ≠ k → portUp t j = portUp s j) ∧ t.swc = s.swc ∧ t.tim = s.tim) ∧
      (portUp s k = true ∨ s.clk.serdes.failed = true → exec (.linkUp p) s = .next (stepEnd s s)) ∧
      (portUp s k = true →
        (∃ t, exec (.linkDown p none) s = .next (stepEnd s t) ∧ portUp t k = false ∧ t.ports.flushing.toNat.testBit k = true ∧
          (∀ c ∈ t.swc.copies ++ t.ports.tx, c.port ≠ k) ∧ (∀ e ∈ t.swc.fdb, e.static = false → e.dtype = 0 → e.dest ≠ k) ∧
          (∀ j, j < 64 → j ≠ k → portUp t j = portUp s j)) ∧
        ∀ (f : Frame) (n : Nat),
          let pcs := mono s - n * byteU s k
          exec (.linkDown p (some (f, n))) s = .next (stepEnd s
            (portDown (rxStages s k f (some (rxStamp s k ((mono s - pcs) / cycleU s))) pcs (some n)) k))) ∧
      (portUp s k = false → ∀ c, exec (.linkDown p c) s = .next (stepEnd s s)) ∧
      (s.ports.flushing.toNat.testBit k = true →
        ∃ t, exec (.flushDone p) s = .next (stepEnd s t) ∧ t.ports.flushing.toNat.testBit k = false ∧
          t.ports.softRst.toNat.testBit k = false ∧ t.ports.link = s.ports.link ∧ t.swc = s.swc) ∧
      (s.ports.flushing.toNat.testBit k = false → exec (.flushDone p) s = .next (stepEnd s s)))

/-- The switch's own events (R85, R87, R90, R101, R114, R115): a supervision frame leaves with the pair's next sequence number at
each of its ports that is up; an entry of duplicate discard that ages out is gone, counted when one of the ports never brought its
copy; the ager removes and counts the learned entries that no frame used since its last visit and keeps the static ones; BUSY
ends. A frame without destination, or without the billets that it reserves, is counted and not taken. -/
def Obligations.SwitchEvents : Prop :=
  ∀ s : State,
    (∀ n : Fin 16, pairEn (pairWord s n.val) = true → enabled s .swc = true → isUp s .switch = true →
      let w := pairWord s n.val
      let vid := fldI s .prt (pairA w) 0x48 0 12
      let pcp := fldI s .prt (pairA w) 0x48 12 3
      let ds : List Dest := (([pairA w, pairB w] : List Nat).filter fun p => portUp s p).map fun p =>
        { port := p, pair := some n.val }
      exec (.supervisionTransmit n) s = .next (stepEnd s
        (if ds = [] then s
         else takeIn s (fromInside 66 (supervisionFrame s n.val ((findK s.swc.pairSeq n.val).getD 0)) none vid pcp
           (fldI s .prt (pairA w) 0x4C (3 * pcp) 3)) 1 [mono s] true ds))) ∧
    (∀ n : Fin 16, pairEn (pairWord s n.val) = false → exec (.supervisionTransmit n) s = .next (stepEnd s s)) ∧
    (∀ (fr : SFrame) (n : Nat) (ready : List Nat) (good : Bool) (ds : List Dest),
      (ds = [] → takeIn s fr n ready good ds = cnt s .swc 0 0x308) ∧
      (ds ≠ [] → freeBillets s < n → takeIn s fr n ready good ds = cnt s .swc 0 0x300)) ∧
    (∀ (n : Fin 16) (src : Mac) (seq : BitVec 16),
      let same (e : Dd) : Bool := e.pair == n.val && e.src == src && e.seq == seq
      let gone : State := { s with swc := { s.swc with dd := s.swc.dd.filter fun x => !same x } }
      (∀ e, s.swc.dd.find? same = some e → exec (.ddAgeExpiry n src seq) s = .next (stepEnd s
        (if e.seenA && e.seenB then gone else cnt gone .swc 0 0x9050))) ∧
      (s.swc.dd.find? same = none → exec (.ddAgeExpiry n src seq) s = .next (stepEnd s s))) ∧
    (∃ t, exec .fdbAgeExpiry s = .next (stepEnd s t) ∧
      t.swc = { s.swc with fdb := (s.swc.fdb.filter fun e => e.static || e.hit).map fun e =>
        if e.static = true then e else { e with hit := false } } ∧
      t.regs = (cntBy s .swc 0 0x320 (s.swc.fdb.filter fun e => !e.static && !e.hit).length).regs ∧ t.ports = s.ports) ∧
    exec .fdbOpDone s = .next (stepEnd s
      (if s.swc.fdbBusy = true then irq { s with swc := { s.swc with fdbBusy := false } } .swc 4 else s))

/-! ### Streams, acquisition, phasors, energy and travelling waves: the rows that are events -/

/-- Frames at the subscriber and their verification (R118, R121, R123, R124). A frame gets there by a classification entry alone. One
that no entry matches, a simulated one that is not accepted, and one that finds 64 waiting are counted and dropped; any other
waits with the stamp of its arrival. The oldest
waiting frame leaves the FIFO; refused by the verification, malformed or with another identity it is counted; else its ASDUs,
or its message, are taken. GOOSE messages that passed the verification (R136, R137): another confRev or ndsCom is discarded as
such; a higher stNum is a new state with a new deadline, which goes on to Spindle (R138); a repetition of the state takes its sqNum; any other is discarded and
counted, and the state stays. -/
def Obligations.SubscriberRows : Prop :=
  (∀ s : State,
     (∀ (p : Fin 64) (f : Frame) (dt : Nat),
       (enabled s .svs = false ∨ isUp s .stream = false ∨ classified s p.val f 0 = false →
         exec (.subscriberFrame p f dt) s = .next (stepEnd s s)) ∧
       (enabled s .svs = true → isUp s .stream = true → classified s p.val f 0 = true →
         exec (.subscriberFrame p f dt) s = .next (stepEnd s
         (match preMatch s f (vidOf s p.val f).1 with
          | none => cnt s .svs 0 0x300
          | some (i, w) =>
            if frameSim f = true ∧ simAccept s = false then subCnt s 0xC4 i (asduCount f)
            else if 64 ≤ s.svs.fifo.length then irq (subCnt (cnt s .svs 0 0x308) 0xE4 i (asduCount f)) .svs 6
            else { s with svs := { s.svs with
                     fifo := s.svs.fifo ++ [{ frame := f, entry := i, words := w, stamp := rxStamp s p.val dt }] } })))) ∧
     (s.svs.fifo = [] → exec .authVerify s = .next (stepEnd s s)) ∧
     (∀ (v : VFrame) (rest : List VFrame), s.svs.fifo = v :: rest →
       let r := verify { s with svs := { s.svs with fifo := rest } } v
       let t := r.1
       let i := v.entry
       let n := asduCount v.frame
       let ends (u : State) : Prop := exec .authVerify s = .next (stepEnd s u)
       match r.2, v.frame.pdu with
       | some why, _ => ends (authRefused t v why)
       | none, .sv p =>
         if svFormat p = false ∨ 512 ≤ i then ends (subCnt t 0xCC i n)
         else if idOk v.words p.svId = false then ends (subCnt (cnt t .svs 0 0x304) 0xE4 i n)
         else ends (forEach p.asdus t fun u a => takeAsdu u i v p.sim a)
       | none, .goose p =>
         if gooseFormat p = false ∨ i < 512 then ends (subCnt t 0xCC i 1)
         else if idOk v.words p.gocbRef = false then ends (subCnt (cnt t .svs 0 0x304) 0xE4 i 1)
         else ends (takeGoose t i v p)
       | none, _ => ends (subCnt t 0xCC i 1))) ∧
  (∀ (s : State) (i : Nat) (v : VFrame) (p : GoosePdu) (k : Nat),
     let g := i - 512
     let x := gOf s g
     let t := takeGoose s i v p
     x.confRev = some k →
       (p.ndsCom = true ∨ p.confRev ≠ k → t = subCnt s 0xDC i 1) ∧
       (p.ndsCom = false → p.confRev = k → x.state ≠ .idle →
         (newer32 p.stNum x.stNum = true →
           (gOf t g).state = .live ∧ (gOf t g).stNum = p.stNum ∧ (gOf t g).sqNum = p.sqNum ∧ (gOf t g).discards = 0 ∧
             (gOf t g).deadline = gooseDeadline s v p.tal ∧
             (isUp s .rt = true → t.spn.inbox = s.spn.inbox ++ [(g, p.allData)])) ∧
         (p.stNum = x.stNum → newer32 p.sqNum x.sqNum = true →
           t = setG (subCnt s 0xC0 i 1) g
             { x with state := .live, sqNum := p.sqNum, confRev := some k, discards := 0, deadline := gooseDeadline s v p.tal }) ∧
         (newer32 p.stNum x.stNum = false → (p.stNum = x.stNum → newer32 p.sqNum x.sqNum = false) → x.discards < 16 →
           t = setG (subCnt s 0xD0 i 1) g { x with discards := x.discards + 1 })))

/-- What time brings to subscriptions and sets (R125, R128, R130, R131, R137): a running SV subscription that is lost gives up its
estimate and its samples, with an interrupt and a record; at the top of a second the smallest delay of the past one makes the
estimate; at the end of its window the oldest set leaves with what has come, the sets behind it that are complete follow; a live
GOOSE subscription past its deadline becomes stale, with a counter, an interrupt, a record and an entry of each ring. -/
def Obligations.StreamTimeouts : Prop :=
  ∀ s : State,
    (∀ i : Fin 512,
      ((svOf s i.val).state ≠ .running → exec (.subLost i) s = .next (stepEnd s s)) ∧
      ((svOf s i.val).state = .running →
        let t := setSv s i.val { svOf s i.val with state := .lost, est := none, minE := none, cntE := 0, hist := [] }
        exec (.subLost i) s = .next (stepEnd s (tryRelease (evt (irq t .svs 2) 0x0711 1 i.val 0 0)))) ∧
      ((findK s.svs.tab i.val = none ∨ (svOf s i.val).est = none → exec (.offsetEstimateReplace i) s = .next (stepEnd s s))) ∧
      (∀ (w : List Word) (m : Int), findK s.svs.tab i.val = some w → (svOf s i.val).est.isSome = true →
        16 < (svOf s i.val).cntE → (svOf s i.val).minE = some m →
        exec (.offsetEstimateReplace i) s = .next (stepEnd s (setSv s i.val
          { svOf s i.val with est := some (m - ((ew w 6 0 14 * 1000 * 65536 * entRate w : Nat) : Int)), minE := none })))) ∧
    (s.svs.opened = [] → exec .alignWindowExpiry s = .next (stepEnd s s)) ∧
    (∀ (o : OpenSet) (l : List OpenSet), s.svs.opened = o :: l →
      exec .alignWindowExpiry s = .next (stepEnd s (tryRelease (releaseSet s o true))) ∧
        (releaseSet s o true).svs.opened = l ∧ (releaseSet s o true).svs.lastRel = some o.label ∧
        (isUp s .phasor = true → (releaseSet s o true).phx.todo = s.phx.todo + 1 ∧
          ((releaseSet s o true).phx.hist.head?.map fun a => (a.label, a.window)) = some (o.label, true)) ∧
        (isUp s .phasor = false → (releaseSet s o true).phx = s.phx)) ∧
    (∀ g : Fin 2048,
      ((gOf s g.val).state ≠ .live → exec (.gooseStale g) s = .next (stepEnd s s)) ∧
      ((gOf s g.val).state = .live →
        let x := gOf s g.val
        let t := irq (subCnt (setG s g.val { x with state := .stale }) 0xE0 (512 + g.val) 1) .svs 3
        let u := evt t 0x0714 1 g.val 0 x.stNum
        let r := gooseRecord u g.val ((findK u.svs.tab (512 + g.val)).getD []) 1 (nowStamp u) x.stNum x.sqNum [] []
        exec (.gooseStale g) s = .next (stepEnd s (if (gOf r g.val).state = .stale then stationDropout r g.val else r))))

/-- Acquisition (R141, R143, R152, R153, R155, R161): bits of a channel that takes them are captured, and every grain they complete
is delivered; a run of STUCK_LEN bits without a transition is a modulator fault, with an interrupt and a record, and 2,000 bits
with no longer run end it by a channel change; a range switch that is due moves the pin and blanks the bits after it; CAL_OUT
toggles for each repetition, and the last one ends the calibration. -/
def Obligations.AcqEvents : Prop :=
  ∀ s : State,
    (∀ (c : Fin 24) (bits : List Bool) (level : Bool),
      let k := c.val
      let x := acOf s k
      let sampled (l : List Bool) : State :=
        if acOn s k = false ∨ isUp s .acq = false ∨ flag s .acq 0x40 (k / 4) = false then s
        else
          let t := l.foldl (fun s v => capture s k v) s
          if (acOf t k).cfgFault = true then t else deliverDue (l.length / 2000 + 2) t k
      exec (.localSample c bits) s = .next (stepEnd s (sampled bits)) ∧
      exec (.mdFault c level) s = .next (stepEnd s (sampled (List.replicate (stuckLen s) level))) ∧
      exec (.mdFaultClear c bits) s = .next (stepEnd s (if x.mdFault = true then sampled bits else s)) ∧
      (x.mdFault = false → x.run < stuckLen s → stuckCheck s k = s) ∧
      (x.mdFault = false → stuckLen s ≤ x.run →
        stuckCheck s k = tryRelease (evt (irq (setAc s k { x with
          mdFault := true, good := 0, active := false, settling := false, settleLeft := 0 }) .acq 3) 0x0810 2 k 0 0)) ∧
      (x.mdFault = true → 2000 ≤ x.good →
        stuckCheck s k = channelChange (setAc s k { x with mdFault := false }) k ∧
          (acOf (stuckCheck s k) k).mdFault = false ∧ (acOf (stuckCheck s k) k).change = some x.nextEdge) ∧
      (x.pendRange = none ∨ isUp s .acq = false → exec (.rangeSwitch c) s = .next (stepEnd s s)) ∧
      (∀ (lvl : Bool) (e : Nat), isUp s .acq = true → x.pendRange = some (lvl, e) →
        ∃ t, exec (.rangeSwitch c) s = .next (stepEnd s t) ∧
          (acOf t k).range16 = lvl ∧ (acOf t k).pendRange = none ∧ (acOf t k).swEdge = max e x.nextEdge ∧
          (acOf t k).bits = x.bits ∧ (acOf t k).nextEdge = x.nextEdge ∧
          (acOf t k).sws.head? = some (max e x.nextEdge, max e x.nextEdge + acF s k 0x10 16 12) ∧
          (∀ j, j ≠ k → acOf t j = acOf s j) ∧ t.svs = s.svs ∧ t.phx = s.phx)) ∧
    (s.acq.cal = none → exec .calOutToggle s = .next (stepEnd s s) ∧ exec .calDone s = .next (stepEnd s s)) ∧
    (∀ k : Cal, s.acq.cal = some k →
      (k.step < calReps s →
        exec .calOutToggle s = .next (stepEnd s
          { s with acq := { s.acq with calOut := !s.acq.calOut, cal := some { calTake s k with step := k.step + 1 } } }) ∧
        exec .calDone s = .next (stepEnd s s)) ∧
      (calReps s ≤ k.step →
        exec .calOutToggle s = .next (stepEnd s s) ∧
        let res := (bitsOf k.mask 24).foldl (fun m c =>
          putK m c (calLag s c ((findK (calTake s k).edges c).getD []))) s.acq.calResult
        exec .calDone s = .next (stepEnd s
          (forEach (List.range 24) (irq { s with acq := { s.acq with cal := none, calOut := false, calResult := res } } .acq 5)
            fun s c => if acOn s c then channelChange s c else s))))

/-- Phasors and the publisher (R166, R177, R180, R182, R186): the oldest released set that waits gives the phasor set, then meters and
recorder; a complete harmonic window gives its record and may end a basic interval; the coefficients change with interrupt 6; CFG-2
goes out at its period; a command frame is acted on for the stream it names when it is well-formed, else counted; the four commands
are acted on where the stream is there and takes commands. -/
def Obligations.PhasorEvents : Prop :=
  ∀ s : State,
    (enabled s .phx = true → isUp s .phasor = true → s.phx.todo ≠ 0 →
      ∀ a, s.phx.hist[s.phx.todo - 1]? = some a →
        let t : State := { s with phx := { s.phx with todo := s.phx.todo - 1 } }
        exec .phasorSet s = .next (after s (ggeQuant (ggeFill (energySet (phasorSet t a) a)) a.label.n))) ∧
    (s.phx.todo = 0 → exec .phasorSet s = .next (after s s)) ∧
    (∀ (e : Fin 256), (∀ w, isUp s .phasor = true → findK s.phx.hdone e.val = some w →
        exec (.harmonicWindow e) s = .next (stepEnd s (qualBasic (harmonicWindow s e.val) e.val)) ∧
          findK (harmonicWindow s e.val).phx.hdone e.val = none ∧
          (findK (harmonicWindow s e.val).phx.hres e.val).map (fun h => (h.first, h.len)) = some (w.first, w.len)) ∧
      (findK s.phx.hdone e.val = none → exec (.harmonicWindow e) s = .next (stepEnd s s))) ∧
    (isUp s .phasor = true → s.phx.regen = true →
      let f := fld s .phx 0x40 0 1
      let p := { s.phx with regen := false, mN := fld s .phx 0x44 0 11, mFfr := fld s .phx 0x44 16 12 }
      exec .coefRegenerate s = .next (stepEnd s (irq
        { s with phx :=
            if f = s.phx.fnom then { p with sinceM := s.tim.grains + 1 }
            else { p with fnom := f, since := s.tim.grains + 1, hwin := [], hnext := [], hfrom := s.tim.grains + 1 } } .phx 6))) ∧
    (isUp s .phasor = false ∨ s.phx.regen = false → exec .coefRegenerate s = .next (stepEnd s s)) ∧
    (∀ st : Fin 64,
      let k := st.val
      let p := pubOf s k
      (isUp s .phasor = true → p.state ≠ 0 → p.state ≠ 3 → pubEntry s k 1 24 8 ≠ 0 →
        exec (.cfg2Periodic st) s = .next (stepEnd s (sendCfg s k 0xAA32))) ∧
      (isUp s .phasor = false ∨ p.state = 0 ∨ p.state = 3 ∨ pubEntry s k 1 24 8 = 0 →
        exec (.cfg2Periodic st) s = .next (stepEnd s s)) ∧
      (enabled s .phx = true → isUp s .phasor = true → pubEntry s k 0 0 1 = 1 → pubEntry s k 0 1 1 = 1 →
        let t := irq (cntB s .phx 0x20C k) .phx 5
        exec (.dataOff st) s = .next (stepEnd s
          (if p.state = 1 then pubSnap (setPub t k { p with state := 2 }) k false else t)) ∧
        exec (.dataOn st) s = .next (stepEnd s
          (if p.state = 2 then pubSnap (setPub t k { p with state := 1 }) k true else t)) ∧
        (∀ (u : State) (on : Bool), (pubOf (pubSnap u k on) k).state = (pubOf u k).state ∧
          (pubOf (pubSnap u k on) k).snaps.head? = some (u.tim.grains + 1, on, pubView u k) ∧
          (∀ e ∈ (pubOf (pubSnap u k on) k).snaps.tail, e ∈ (pubOf u k).snaps)) ∧
        exec (.sendCfg1 st) s = .next (stepEnd s (if p.state = 3 ∨ p.state = 0 then t else sendCfg t k 0xAA22)) ∧
        exec (.sendCfg2 st) s = .next (stepEnd s (if p.state = 3 ∨ p.state = 0 then t else sendCfg t k 0xAA32))) ∧
      (pubEntry s k 0 0 1 = 0 → exec (.dataOff st) s = .next (stepEnd s s) ∧ exec (.dataOn st) s = .next (stepEnd s s) ∧
        exec (.sendCfg1 st) s = .next (stepEnd s s) ∧ exec (.sendCfg2 st) s = .next (stepEnd s s))) ∧
    (∀ (p : Fin 64) (f : Frame) (u : UdpPdu), f.pdu = .udp u →
      (enabled s .phx = false ∨ isUp s .phasor = false ∨ classified s p.val f 0 = false →
        exec (.pmuCommandFrame p f) s = .next (stepEnd s s)) ∧
      (enabled s .phx = true → isUp s .phasor = true → classified s p.val f 0 = true →
        let bs := u.payload
        let cmd := ofBe (slice bs 14 2)
        let socket (st : Nat) : Bool := pubEntry s st 0 0 1 == 1 && ofBe (le 4 (pubEntry s st 3 0 32)) == u.dstIp.toNat &&
          pubEntry s st 4 16 16 == u.dstPort.toNat
        let good (st : Nat) : Bool := decide (18 ≤ bs.length) &&
          crcCcitt (bs.take (bs.length - 2)) == ofBe (bs.drop (bs.length - 2)) && ofBe (slice bs 0 2) / 16 == 0xAA4 &&
          ofBe (slice bs 4 2) == (pubCfg s st).idcode && pubEntry s st 0 1 1 == 1
        exec (.pmuCommandFrame p f) s = .next (stepEnd s (match (List.range 64).filter socket with
          | [] => s
          | st :: rest => match (st :: rest).find? good with
            | some x => if cmd = 1 ∨ cmd = 2 ∨ cmd = 4 ∨ cmd = 5 then pubCommand s x cmd else cntB s .phx 0x210 x
            | none => cntB s .phx 0x210 st))))

/-- Energy (R193, R194, R196, R197, R200 to R202): the snapshot requested stands in its registers with its sequence number; a save
goes to the slot that does not hold the newest one, with the next sequence number, and touches no other byte of memory than that
slot's, and one that cannot reach the MRAM is abandoned, counted and an interrupt; an aggregated interval takes its basic
intervals; a comparison of the half-cycle values keeps the meter's energy as it is; a voltage event starts with a counter, an
interrupt and a record, keeps its extreme, and ends with its duration. -/
def Obligations.EnergyEvents : Prop :=
  ∀ s : State,
    (nrgOn s = true →
      exec .energySavePeriodic s = .next (stepEnd s (energySave s 0)) ∧
      (s.aon.pf = true → exec .powerFailSaveRepeat s = .next (stepEnd s (energySave s 1))) ∧
      (s.nrg.snapReq = none → exec .snapshot s = .next (stepEnd s s)) ∧
      (∀ m, s.nrg.snapReq = some m → ∃ t, exec .snapshot s = .next (stepEnd s t) ∧
        t.nrg = { s.nrg with snapReq := none, snapSeq := (s.nrg.snapSeq + 1) % 65536 } ∧ reg t .nrg 0 0xD0 = (mtOf s m).miss % 2 ^ 32 ∧
        (∀ i, i < 10 → reg2 t .nrg 0 (0x80 + 8 * i) = (mtOf s m).acc.getD i 0 / 2 ^ 32 % 2 ^ 64) ∧ t.phx = s.phx)) ∧
    (nrgOn s = false →
      exec .energySavePeriodic s = .next (stepEnd s s) ∧ exec .powerFailSaveRepeat s = .next (stepEnd s s) ∧
        exec .snapshot s = .next (stepEnd s s)) ∧
    (s.aon.pf = false → exec .powerFailSaveRepeat s = .next (stepEnd s s)) ∧
    (s.fuse.variant ≠ .s → ∀ r : Nat, r < 256 →
      let k := match s.nrg.saveSlot with | some k => 1 - k | none => 0
      (isUp s .memory = true →
        (energySave s r).nrg = { s.nrg with saveSeq := s.nrg.saveSeq + 1, saveSlot := some k } ∧
        rdNum (energySave s r) (slotAddr k) 4 = 0x4752454E ∧ rdNum (energySave s r) (slotAddr k + 8) 1 = r ∧
        ∀ a, (a < slotAddr k ∨ slotAddr k + 0x8000 ≤ a) → rdByte (energySave s r) a = rdByte s a) ∧
      (isUp s .memory = false → energySave s r = irq (cnt s .nrg 0 0xDC) .nrg 5)) ∧
    (∀ m : Fin 67,
      (mtOn s m.val = false ∨ mtF s m.val 0 3 1 = 0 → exec (.voltageEvent m) s = .next (stepEnd s s) ∧
        ∀ k, exec (.qualityInterval m k) s = .next (stepEnd s s)) ∧
      (∃ t, exec (.voltageEvent m) s = .next (stepEnd s t) ∧ t = voltageEvent s m.val ∧ t.phx = s.phx ∧
        (mtOf t m.val).acc = (mtOf s m.val).acc ∧ (mtOf t m.val).miss = (mtOf s m.val).miss ∧
        ∀ j, j ≠ m.val → mtOf t j = mtOf s j) ∧
      (∀ us : List Nat, mtOn s m.val = true → (mtOf s m.val).fault = 0 → mtF s m.val 0 3 1 = 1 →
        let k := m.val
        let x := mtOf s k
        let f0 := f0Hz s * 1000000
        let df := clampInt (((findK s.phx.grpStat (mtVg s k)).bind fun t => t.dfreq).getD 0) (-((f0 : Int) / 20)) ((f0 : Int) / 20)
        let n := (roundTiesUp 14400000000 ((f0 : Int) + df).toNat).toNat
        ((mtV s k).map fun c => halfRms s c n) = us.map some →
        let vs := us.map fun q => milliVolts s k q n
        let pct (p : Nat) : Nat := p * mtF s k 0x14 0 20 * 10
        let now := match (s.phx.hist.drop s.phx.todo).head? with
          | some a => a.label.sec * 1000000000 + a.label.ns
          | none => nowNs s
        let lo := vs.foldl min (vs.headD 0)
        let hi := vs.foldl max 0
        let hy := mtF s k 0x18 24 8
        let e := (mtOf (voltageEvent s k) k).evt
        e.intr = (voltKind s k 2 now lo true (vs.all fun u => decide (u < pct (mtF s k 0x18 16 8)))
            (vs.all fun u => decide (u ≥ pct (mtF s k 0x18 16 8 + hy))) x.evt.intr).2 ∧
          e.dip = (voltKind s k 0 now lo true (e.intr.isNone && vs.any fun u => decide (u < pct (mtF s k 0x18 0 8)))
            (vs.all fun u => decide (u ≥ pct (mtF s k 0x18 0 8 + hy))) x.evt.dip).2 ∧
          e.swell = (voltKind s k 1 now hi false (vs.any fun u => decide (u > pct (mtF s k 0x18 8 8)))
            (vs.all fun u => decide (u + pct hy ≤ pct (mtF s k 0x18 8 8))) x.evt.swell).2) ∧
      (mtOn s m.val = true → mtF s m.val 0 3 1 = 1 →
        let x := mtOf s m.val
        (x.basic.length < 15 → exec (.qualityInterval m 0) s = .next (stepEnd s s)) ∧
        (∀ q, 15 ≤ x.basic.length → aggregate m.val (x.basic.take 15) (intervalFreq x x.fDone) = some q →
          exec (.qualityInterval m 0) s = .next (stepEnd s
            (qringWrite (setMt s m.val { x with basic := x.basic.drop 15, fDone := [] }) (qualBytes m.val 1 q)))) ∧
        (∀ q, aggregate m.val x.agg10m (intervalFreq x x.fTen) = some q → exec (.qualityInterval m 1) s = .next (stepEnd s
          (qringWrite (setMt s m.val { x with agg10m := [], fTen := [], agg2h := x.agg2h ++ [q] }) (qualBytes m.val 2 q)))) ∧
        (∀ q, aggregate m.val x.agg2h (meanOf (x.agg2h.map fun q => q.dfreq)) = some q →
          exec (.qualityInterval m 2) s = .next (stepEnd s
            (qringWrite (setMt s m.val { x with agg2h := [] }) (qualBytes m.val 3 q)))))) ∧
    (∀ (m kind now ext : Nat) (low start fin : Bool) (t0 e0 : Nat),
      let e := if low then min e0 ext else max e0 ext
      voltKind s m kind now ext low start fin none =
        (if start then (evt (irq (cnt s .nrg 0 (mtO m 0x2C)) .nrg 3) 0x0A14 1 m kind ext, some (now, ext)) else (s, none)) ∧
      voltKind s m kind now ext low start fin (some (t0, e0)) =
        (if fin then (evt s 0x0A14 1 m (kind + 256) (e % 2 ^ 32 + (now - t0) / 1000000 * 2 ^ 32), none)
         else (s, some (t0, e))))

/-- Travelling waves (R205, R207, R211, R212, R215, R217, R219): the next tap sample of a channel, once its bits are there, goes
into the capture ring with its validity (log 112: none between a step and the re-phasing); the oldest detection of a channel is
worked out; the close of an event reports it once and plans its repetitions, which send the report again; the window ends with its
records; after REARM the line is idle once its event is reported; a report at another port than TWV's, or one that no
classification entry sent, is none; any other is taken or refused. -/
def Obligations.TwaveEvents : Prop :=
  ∀ s : State,
    (∀ c : Fin 24,
      let x := twOf s c.val
      let a := acOf s c.val
      let e := 8 * a.tapNext
      ((tapRuns s c.val = false ∨ s.tim.rephase = true ∨ a.nextEdge ≤ e) →
        exec (.travellingWaveSample c) s = .next (stepEnd s s)) ∧
      (tapRuns s c.val = true → s.tim.rephase = false → e < a.nextEdge →
        let m := tapNumber s e
        let tap := tapWord a e
        let bad := bit tap 12 || a.cfgFault || a.mdFault || s.acq.cal.isSome ||
          match a.change with
          | some g => decide (a.tapNext < (g + 7) / 8 + 16)
          | none => true
        let t := wrNum (setAc s c.val { a with tapNext := a.tapNext + 1 }) (tapAddr m c.val) 2 (tap + ofBit bad 13)
        let g := { t.gge with twNewest := m, twHistFrom := if t.gge.twFresh then m else t.gge.twHistFrom, twFresh := false }
        ∃ y : TwCh, exec (.travellingWaveSample c) s = .next (stepEnd s (setTw { t with gge := g } c.val y)) ∧
          y.taken = x.taken + 1 ∧ y.next = m + 1 ∧ y.invalid = bad ∧ y.chg = a.change ∧ y.waves = x.waves ∧
          (y.recent.head?.map fun e => (e.sn, e.m, e.y, e.quality, e.epoch)) =
            some (x.taken + 1, m, if bad then none else some (tapValue s c.val tap), s.tim.quality, s.tim.epoch))) ∧
    (∀ c : Fin 24,
      ((twOf s c.val).det = [] → exec (.wavefrontDetection c) s = .next (stepEnd s s)) ∧
      (∀ m l, twvOn s = true → (twOf s c.val).det = m :: l → exec (.wavefrontDetection c) s = .next (stepEnd s
        (takeDetection (setTw s c.val { twOf s c.val with det := l }) c.val m)))) ∧
    (∀ n : Fin 8, twvOn s = true →
      let k := n.val
      let ln := lnOf s k
      (ln.event = none → exec (.eventClose n) s = .next (stepEnd s s) ∧ exec (.reflectionRecord n) s = .next (stepEnd s s) ∧
        exec (.lineRearm n) s = .next (stepEnd s s)) ∧
      (∀ e, ln.event = some e →
        (e.reported = true → exec (.eventClose n) s = .next (stepEnd s s)) ∧
        (e.reported = false →
          let r := eventPayload (irq (cnt s .twv 0 (tlO k 0x2C)) .twv 1) k e
          let t := setLn r.1 k { lnOf r.1 k with event := if e.rearmed then none else some { e with reported := true } }
          let u := eventRings t k 1 (ofBit (cw e.cfg 3 1 1 == 0) 1) (nowStamp t) r.2
          let left := cw e.cfg 3 2 2
          let c : TwCopies := { due := mono u + 1000000 * nsU, left := left, report := r.2, cfg := e.cfg }
          exec (.eventClose n) s = .next (stepEnd s
            (if cw e.cfg 3 0 1 = 0 then u
             else if left = 0 then sendReport u e.cfg r.2
             else sendReport (setLn u k { lnOf u k with copies := (lnOf u k).copies ++ [c] }) e.cfg r.2))) ∧
        (e.windowDone = true →
          exec (.lineRearm n) s = .next (stepEnd s (setLn s k
            { ln with event := if e.reported then none else some { e with rearmed := true } })) ∧
          exec (.reflectionRecord n) s = .next (stepEnd s s)) ∧
        (e.windowDone = false → exec (.lineRearm n) s = .next (stepEnd s s) ∧
          ∃ t, exec (.reflectionRecord n) s = .next (stepEnd s t) ∧
            (lnOf t k).event = some { e with windowDone := true } ∧ (∀ j, j ≠ k → lnOf t j = lnOf s j))) ∧
      (ln.copies = [] → exec (.reportRepeat n) s = .next (stepEnd s s)) ∧
      (∀ c r, ln.copies = c :: r → (∀ d ∈ r, c.due ≤ d.due) → exec (.reportRepeat n) s = .next (stepEnd s
        (sendReport (setLn s k { ln with copies := r ++ (if c.left ≤ 1 then []
          else [{ c with due := c.due + 1000000 * nsU, left := c.left - 1 }]) }) c.cfg c.report)))) ∧
    (∀ (p : Fin 64) (f : Frame) (u : UdpPdu) (dt : Nat), twvOn s = true → f.pdu = .udp u →
      ((classified s p.val f 0 = false ∨ u.dstPort.toNat ≠ fld s .twv 0x48 0 16) →
        exec (.reportReceive p f dt) s = .next (stepEnd s s)) ∧
      (classified s p.val f 0 = true → u.dstPort.toNat = fld s .twv 0x48 0 16 →
        let b := u.payload
        let plain := 56 + 16 * numAt b 50 1
        let n := (List.range 8).find? fun n => (lineCfg s n).getD 5 0 == numAt b 16 4
        (b.length < 56 ∨ numAt b 0 4 ≠ 0x52545754 → exec (.reportReceive p f dt) s = .next (stepEnd s (reportRefused s n))) ∧
        (∀ k, n = some k → 56 ≤ b.length → numAt b 0 4 = 0x52545754 → numAt b 4 2 = 1 → 1 ≤ numAt b 50 1 → numAt b 50 1 ≤ 8 →
          numAt b 6 2 = b.length → b.length = plain → flag s .twv 0x48 16 = false →
          let pair := (numAt b 20 4, numAt b 24 4)
          let ln := lnOf s k
          let t := irq (cnt (setLn s k { ln with lastRx := some pair }) .twv 0 (tlO k 0x34)) .twv 3
          let fresh := eventRings t k 2 2 (rxStamp t p.val dt) b
          exec (.reportReceive p f dt) s = .next (stepEnd s (match ln.lastRx with
            | none => fresh
            | some (a, c) =>
              if (a, c) = pair then cnt s .twv 0 (tlO k 0x3C)
              else if a < pair.1 ∨ (a = pair.1 ∧ newer32 pair.2 c = true) then fresh
              else reportRefused s (some k))))))

/-! ### Recorder, decisions, Spindle and the safety island: the rows that are events -/

/-- The recorder's controller (R224, R227, R229 to R232, R237): a unit evaluates its new samples in order; what a firing does
follows from the state it finds; the first firing that waits opens a record when there is room, and is refused when there is none;
a record that is complete closes, and its state becomes REARM; REARM ends by its row. -/
def Obligations.RecorderEvents : Prop :=
  ∀ s : State,
    (∀ u : Fin 64,
      (ggeOn s = false → exec (.triggerFiring u) s = .next (stepEnd s s)) ∧
      (ggeOn s = true →
        let t := ggeFill s
        let c0 := trigCfg t u.val
        let c := if c0.src = 1 ∧ t.fuse.variant = .s then { c0 with cond := 0 } else c0
        exec (.triggerFiring u) s = .next (stepEnd s
          (forEach (trigSamples t c (tuOf t u.val).cursor) t fun s e =>
            let r := unitSample c (tuOf s u.val) e.x
            let v := if c.src = 1 ∧ c.cond = 5 then e.det else r.2
            let fires := v.isSome && s.gge.state != .disarmed
            let x := { r.1 with cursor := e.no, fireCnt := if fires then (r.1.fireCnt + 1) % 65536 else r.1.fireCnt }
            let s := markFrame (setTu s u.val x) u.val e.grain (x.inState && e.x.isSome) fires
            match v with
            | some v => firingArrives s
                { unit := u.val, cond := c.cond, src := c.src, instant := e.instant, stamp := e.stamp, value := v, moved := false,
                  same := false }
            | none => s)))) ∧
    (∀ f : Firing,
      (s.gge.state = .disarmed → firingArrives s f = s) ∧
      (s.gge.state = .armed → firingArrives s f = { s with gge := { s.gge with arrived := s.gge.arrived ++ [f] } }) ∧
      (∀ r, s.gge.state = .recording → s.gge.opened = some r → r.firings.length < 16 →
        ∃ q, (firingArrives s f).gge = { s.gge with opened := some q } ∧ q.firings.length = r.firings.length + 1 ∧
          q.num = r.num ∧ r.last ≤ q.last ∧ (flag s .gge 0x40 2 = false → q.last = r.last)) ∧
      (s.gge.state = .rearm → (firingArrives s f).gge.suppSince = s.gge.suppSince + 1 ∧
        (firingArrives s f).gge.state = .rearm ∧ (firingArrives s f).gge.recs = s.gge.recs) ∧
      (s.gge.state = .blocked → firingArrives s f = irq (cnt s .gge 0 0xA8) .gge 4)) ∧
    (ggeOn s = true → isUp s .memory = true →
      (s.gge.arrived = [] ∨ s.gge.state ≠ .armed → exec .recordOpen s = .next (stepEnd s s)) ∧
      (∀ f l, s.gge.arrived = f :: l → s.gge.state = .armed →
        let t := ggeFill { s with gge := { s.gge with arrived := [] } }
        exec .recordOpen s = .next (stepEnd s (forEach l (openRecord t f) firingArrives)))) ∧
    (∀ (f : Firing) (g : GFrame), grainAt s f.instant = some g → flag s .gge 0x40 1 = false →
      let pages := reservePages s (min (reg s .gge 0 0x44) (g.label.n - s.gge.histFrom))
      (storePlace s pages = none → openRecord s f = refuseFiring s) ∧
      (∀ off, storePlace s pages = some off →
        (openRecord s f).gge.state = .recording ∧ (openRecord s f).gge.nextNum = nextRec s.gge.nextNum ∧
          (openRecord s f).gge.recs = s.gge.recs ++ [{ num := s.gge.nextNum, off := off, pages := pages, recording := true }] ∧
          (openRecord s f).gge.suppSince = 0)) ∧
    (isUp s .memory = true →
      let t := ggeFill s
      (t.gge.opened = none → exec .recordClose s = .next (stepEnd s t)) ∧
      (∀ r, t.gge.opened = some r →
        (ggeOn t = false ∨ recComplete t r = false → exec .recordClose s = .next (stepEnd s t)) ∧
        (ggeOn t = true → recComplete t r = true →
          let a := copyRows 60000 t r r.twLast
          let b := copyFrames 600000 a.1 a.2 a.2.last
          let u := finishRecord b.1 b.2 false
          exec .recordClose s = .next (stepEnd s { u with gge := { u.gge with state := .rearm } }) ∧ u.gge.opened = none))) ∧
    exec .ggeRearmExpiry s = .next (stepEnd s
      (if s.gge.state = .rearm then { s with gge := { s.gge with state := .armed } } else s))

/-- Decision words and inputs (R243, R244, R246, R251, R255): a store of the word's owner replaces, sets or clears, and is seen at
once; a store to a word of another owner is refused, and one through a closed window too; a hold ends; a retransmission carries the
next sqNum; a pin's level shows raw at once; one that has stood for DEB is accepted: it stands in its bit, the change is marked with
its stamp and raises interrupt 4. -/
def Obligations.DecisionEvents : Prop :=
  ∀ s : State,
    (∀ (i : Fin 64) (w : Fin 32) (v : Word),
      let old := decWord s w.val
      let store (k : Nat) (e : Instr) (new : Nat) : Prop :=
        (isUp s .rt = true → isUp s .app = true → windowClosed (slOf s i.val) = false →
          (wordOwner s w.val = i.val → exec e s = .next (stepEnd s (wordsSet s [(w.val, new)]))) ∧
          (wordOwner s w.val ≠ i.val → exec e s = .next (stepEnd s (dwDenied s i.val w.val (dwAddr i.val w.val k))))) ∧
        (isUp s .rt = false ∨ isUp s .app = false ∨ windowClosed (slOf s i.val) = true →
          exec e s = .next (stepEnd s (emit s (.accessFault i.val (dwAddr i.val w.val k)))))
      store 0 (.dwVal i w v) v.toNat ∧ store 1 (.dwSet i w v) (Nat.lor old v.toNat) ∧
        store 2 (.dwClr i w v) (Nat.land old (Nat.xor v.toNat 0xFFFFFFFF))) ∧
    (∀ (w : Fin 32) (n : Nat), isUp s .rt = true → s.dec.word.length = 32 → n < 2 ^ 32 → (∀ e ∈ s.dec.pub, e.2.state ≠ 1) →
      let t := wordsSet s [(w.val, n)]
      decWord t w.val = n ∧ (∀ j, j ≠ w.val → decWord t j = decWord s j) ∧ ∀ o, o < 32 → bit t.dec.term.toNat o = termOf t o) ∧
    (∀ o : Fin 32, exec (.holdExpiry o) s = .next (stepEnd s
      { s with dec := { s.dec with hold := s.dec.hold &&& ~~~(BitVec.ofNat 32 (2 ^ o.val)) } })) ∧
    (∀ (p : Fin 256) (g : GooseState),
      let x := gpOf s p.val
      x.last = some g → x.state = 1 → x.active = true → tokenOk s = true → isUp s .rt = true → isUp s .stream = true →
      exec (.gooseRetransmit p) s = .next (stepEnd s
        (gpPump (gpSend s p.val x.stNum (if 0xFFFFFFFF ≤ x.sqNum then 1 else x.sqNum + 1) g) p.val))) ∧
    (∀ (i : Fin 32) (level : Bool) (dt : Nat),
      (isUp s .rt = false → exec (.biChange i level dt) s = .next (stepEnd s s)) ∧
      (isUp s .rt = true →
        let v := level != bit (reg s .dec 0 (0x800 + 4 * i.val)) 16
        let m : BitVec 32 := BitVec.ofNat 32 (2 ^ i.val)
        let put (w : BitVec 32) : BitVec 32 := if v = true then w ||| m else w &&& ~~~m
        exec (.biChange i level dt) s = .next (stepEnd s
          (if bit s.dec.bi.toNat i.val = v ∨ dt < fld s .dec (0x800 + 4 * i.val) 0 15 * 500 then { s with dec := { s.dec with biRaw := put s.dec.biRaw } }
           else irq
            { s with
              dec := { s.dec with
                biRaw := put s.dec.biRaw, bi := put s.dec.bi, biChg := s.dec.biChg ||| m,
                biStamp := putK s.dec.biStamp i.val (stampBefore s dt) }
              spn := { s.spn with biSeen := s.spn.biSeen ||| m } } .dec 4))))

/-- The Spindle cycle (R290 to R292, R294): an input phase starts a cycle of a RUNNING program that is in none, counts it, notes its
start and clears the flags of first cycles and the queue of dropouts; an output phase ends the cycle; the watchdog stops a program
whose output phase has not begun: FAULT, with a counter, an interrupt and a record. The oldest GOOSE state passed on is decoded for
the map entries of its stations while an image is active. -/
def Obligations.SpindleEvents : Prop :=
  ∀ s : State,
    (spnOn s = false ∨ s.spn.state ≠ .running →
      exec .inputPhase s = .next (stepEnd s s) ∧ exec .outputPhase s = .next (after s s) ∧
        exec .spnWatchdog s = .next (after s s)) ∧
    (spnOn s = true → s.spn.state = .running →
      (s.spn.inCycle = true → exec .inputPhase s = .next (stepEnd s s)) ∧
      (s.spn.inCycle = false →
        exec .outputPhase s = .next (after s s) ∧ exec .spnWatchdog s = .next (after s s) ∧
        ∃ t, exec .inputPhase s = .next (stepEnd s t) ∧ t.spn.inCycle = true ∧ t.spn.cycleStart = some (monoNs s) ∧
          t.spn.firstStart = false ∧ t.spn.firstSwitch = false ∧ t.spn.errq = [] ∧ t.spn.biSeen = 0 ∧
          reg t .spn 0 0x8C = (reg s .spn 0 0x8C + 1) % 2 ^ 32 ∧ t.spn.force = s.spn.force ∧ t.dec = s.dec ∧ t.svs = s.svs) ∧
      (s.spn.inCycle = true →
        exec .outputPhase s = .next (after s (if (outputPhase s).spn.inCycle = true then outputPhase s
          else boundary (outputPhase s))) ∧
        exec .spnWatchdog s = .next (after s (spnWatchdog s)) ∧ (spnWatchdog s).spn.state = .fault)) ∧
    (isUp s .rt = false ∨ s.spn.inbox = [] → exec .gooseDecode s = .next (stepEnd s s)) ∧
    (∀ m l, isUp s .rt = true → s.spn.inbox = m :: l →
      ∃ t, exec .gooseDecode s = .next (stepEnd s t) ∧ t.spn.inbox = l ∧ t.spn.data = s.spn.data ∧ t.dec = s.dec ∧
        (s.spn.cur = none → t = { s with spn := { s.spn with inbox := l } }) ∧
        (∀ k e, (inMap (spnImg s))[k]? = some e → (stations (spnImg s)).getD e.station 4096 ≠ m.1 →
          findK t.spn.staged k = findK s.spn.staged k))

/-- The SO pads (R306): each stands at the island's command for it, a test pulse taken away, while TOKEN_OK is 1 and the Tool
rest does not force; else it is de-energised. The read-back the island expects is the level of the pad after the gates, so that a
change of the gates alone leaves no mismatch. -/
def Obligations.SafetyPadsGated : Prop :=
  ∀ s : State,
    (∀ o, o < 8 → bit (soPads s).toNat o =
      (isUp s .safety && bit s.sfi.cmd.toNat o && !bit s.sfi.pulse.toNat o && tokenOk s && !s.clk.forcing)) ∧
    (s.clk.forcing = true → soPads s = 0) ∧ (tokenOk s = false → soPads s = 0) ∧
    (rbFollow s).sfi.rb = soPads s ∧ soPads (rbFollow s) = soPads s ∧
    ∀ t : State, t.sfi = s.sfi → (rbFollow t).sfi.rb = soPads t ∧ (rbFollow t).sfi.drive = s.sfi.drive ∧
      (rbFollow t).sfi.state = s.sfi.state ∧ (rbFollow t).sfi.fault1 = s.sfi.fault1 ∧ (rbFollow t).regs = t.regs

/-- The safety island's inputs (R305, R308 to R310). Each island cycle takes the rising edges of the request bits of the enabled
drives, in order. A filtered change of the contacts gives the position, and the arrival when it is the target of a motion; contacts
that last give fault 18 or 19; an operation observed without a fault proves its direction (log 93); a motion without movement gives 23, one without edges 22; an edge that changes both tracks gives 20,
any other counts one step in its direction. -/
def Obligations.DriveEvents : Prop :=
  ∀ (s : State) (d : Fin 4), isUp s .safety = true → s.sfi.drive.length = 4 →
    let k := d.val
    let x := drOf s k
    let ends (i : Instr) (t : State) : Prop := exec i s = .next (after s t)
    ends .islandCycle (
      let a := rbFollow s
      let b := if a.sfi.state = .degraded then sfiLatch { a with sfi := { a.sfi with degLeft := max 1 (a.sfi.degLeft - 1) } } else a
      forEach ((List.range 4).filter fun d => drEn b d) b fun s d =>
        let y := drOf s d
        let o := decBit s (sdF s d 4 0 10)
        let c := decBit s (sdF s d 4 16 10)
        let ro := o && !y.reqOpen
        let rc := c && !y.reqClose
        let s := setDr s d { y with reqOpen := o, reqClose := c }
        let s := if ro then sfiRequest s d false false (ro && rc) else s
        if rc then sfiRequest s d true false (ro && rc) else s) ∧
    (∀ n : BitVec 2,
      let pos := if n = 1 then posOpen else if n = 2 then posClosed else if n = 0 then posInter else posBad
      let t : State := { s with sfi := { s.sfi with si := BitVec.ofNat 16 (setBits s.sfi.si.toNat (4 * k) 2 n.toNat) } }
      let u := setDr t k { x with pos := pos, startLeft := true, cnt := if pos = posOpen then 0 else x.cnt }
      (drEn s k = false ∨ pos = x.pos → ends (.positionChange d n) t) ∧
      (drEn s k = true → pos ≠ x.pos → x.state = .moving →
        ends (.positionChange d n) (if pos = (if x.closing = true then posClosed else posOpen) then driveArrival u k else u)) ∧
      (drEn s k = true → pos ≠ x.pos → x.state ≠ .moving → x.observed = none → ends (.positionChange d n) u) ∧
      (∀ c, drEn s k = true → pos ≠ x.pos → x.state ≠ .moving → x.observed = some c →
        let y : Drive := { x with pos := pos, startLeft := true, cnt := if pos = posOpen then 0 else x.cnt, observed := none,
                                  idleEdges := 0 }
        ends (.positionChange d n) (if pos = (if c = true then posClosed else posOpen) then
          setDr u k (if x.faulted = true then y else provenBy y c) else u))) ∧
    (drEn s k = true →
      ends (.positionFault d) (if x.pos = posBad then sfiFault s 18 k
        else if x.pos = posInter ∧ x.state ≠ .moving ∧ x.observed = none ∧ afterFall s k = false then sfiFault s 19 k else s)) ∧
    ends (.travelTimeout d) (if x.state = .moving then sfiFault s 23 k else s) ∧
    ends (.speedTimeout d) (if 1 ≤ x.edges ∧ (x.state = .moving ∨ x.observed.isSome = true) then sfiFault s 22 k else s) ∧
    (∀ (n : BitVec 2) (us : Nat),
      let t : State := { s with sfi := { s.sfi with si := BitVec.ofNat 16 (setBits s.sfi.si.toNat (4 * k + 2) 2 n.toNat) } }
      let u := setDr t k { x with tracks := n }
      (drEn s k = false ∨ n = x.tracks → ends (.encoderEdge d n us) u) ∧
      (drEn s k = true → n ^^^ x.tracks = 3 → ends (.encoderEdge d n us) (sfiFault u 20 k)) ∧
      (drEn s k = true → n ≠ x.tracks → n ^^^ x.tracks ≠ 3 → x.state = .moving →
        let closing := (if x.tracks = 0 then 1 else if x.tracks = 1 then 3 else if x.tracks = 3 then 2 else (0 : BitVec 2)) == n
        let rev := if x.closing = closing then x.rev else x.rev + 1
        let v := setDr u k
          { x with tracks := n, cnt := wrapS 32 (x.cnt + (if closing = true then 1 else -1)), edges := x.edges + 1, rev := rev }
        let w := if x.closing ≠ closing ∧ sdF s k 0x10 24 4 < rev then sfiFault v 21 k else v
        ends (.encoderEdge d n us)
          (if 1 ≤ x.edges ∧ us < sdF s k 0x14 0 16 * 100 then sfiFault w 22 k else w)))

/-- The safety island's diagnostics (R306, R311 to R315): a test pulse takes an output low that is high, and its read-back must
follow; a read-back that differs gives fault 16 outside a pulse; the watchdog gives 1, an uncorrectable error 2, a clock that
deviates 4; the self-test and then the parameter check lead from SELFTEST to RUN, or give faults 3 and 5; the time of DEGRADED
warns, and its end is fault 6. Class A faults, codes below 16, take the island to SAFE with every output off. -/
def Obligations.SafetyDiagnostics : Prop :=
  ∀ (s : State), isUp s .safety = true →
    let ends (i : Instr) (t : State) : Prop := exec i s = .next (after s t)
    (∀ o : Fin 8,
      let m : BitVec 8 := BitVec.ofNat 8 (2 ^ o.val)
      let begun (p : BitVec 8) : State := { s with sfi := { s.sfi with pulse := p } }
      ends (.testPulse o) (if bit (soPads s).toNat o.val = true then rbFollow (begun (s.sfi.pulse ||| m)) else s) ∧
      ends (.testPulseEnd o)
        (if bit s.sfi.pulse.toNat o.val = false then s
         else if bit s.sfi.rb.toNat o.val = true then sfiFault (rbFollow (begun (s.sfi.pulse &&& ~~~m))) 17 (o.val / 2)
         else rbFollow (begun (s.sfi.pulse &&& ~~~m))) ∧
      (drEn s (o.val / 2) = false → ends (.rbMismatch o) s) ∧
      (drEn s (o.val / 2) = true →
        let t : State := { s with sfi := { s.sfi with
          rb := BitVec.ofNat 8 (setBits s.sfi.rb.toNat o.val 1 (ofBit (!bit (soPads s).toNat o.val) 0)) } }
        ends (.rbMismatch o)
          (if bit s.sfi.pulse.toNat o.val = true ∧ fld s .sfi 0x48 16 12 ≤ fld s .sfi 0x4C 0 10 then t
           else sfiFault t 16 (o.val / 2)))) ∧
    ends .safetyWatchdog (sfiFault s 1 0) ∧
    (∀ (n : Nat) (bad : Bool),
      let t := sfiPresent (cntBy s .sfi 0 0x90 n) 2 bad
      ends (.eccScrub n bad) (if bad = true then sfiFault t 2 0 else t)) ∧
    (∀ dev : Bool, s.clk.refclk.stable = true →
      let t := sfiPresent { s with sfi := { s.sfi with clkUnsup := s.sfi.clkUnsup && dev } } 4 dev
      ends (.clockCompare dev) (if dev = true then sfiFault t 4 0 else t)) ∧
    (∀ dev : Bool, s.clk.refclk.stable = false →
      ends (.clockCompare dev)
        (if s.sfi.clkUnsup = true then s else evt { s with sfi := { s.sfi with clkUnsup := true } } 0x11FF 1 0 0 0)) ∧
    (∀ pass : Bool,
      (s.sfi.state ≠ .selftest ∨ s.sfi.tested = true → ends (.selftest pass) s) ∧
      (s.sfi.state = .selftest → s.sfi.tested = false →
        let t : State := { s with sfi := { s.sfi with tested := true } }
        (pass = false → ends (.selftest pass) (sfiFault t 3 0)) ∧
        (pass = true → (∀ l, s.aon.safety = some l → l.state ≠ .degraded ∧ l.state ≠ .safe) →
          ends (.selftest pass) (drivesProof t)))) ∧
    (s.sfi.state = .selftest → s.sfi.tested = true → flag s .sfi 0x28 0 = true → blank s = false →
      let ok := crc32 (paramBytes s) == reg s .sfi 0 0x40
      let t := drivesProof { s with sfi := { s.sfi with parOk := ok } }
      ends .paramCheck (if ok = true then sfiLatch (sfiGo t .run) else sfiFault t 5 0)) ∧
    (s.sfi.state = .degraded →
      ends .degWarning (sfiLatch (irq { s with sfi := { s.sfi with degLeft := 3600000 } } .sfi 5)) ∧
      ends .degExpired (sfiFault { s with sfi := { s.sfi with degLeft := 0 } } 6 0)) ∧
    (s.sfi.state ≠ .degraded → ends .degWarning s ∧ ends .degExpired s) ∧
    (∀ code d, code < 16 → s.sfi.drive.length = 4 → s.sfi.state = .run ∨ s.sfi.state = .selftest →
      (sfiFault s code d).sfi.state = .safe ∧ (sfiFault s code d).sfi.cmd = 0 ∧
        (sfiFault s code d).sfi.fault1 = (code, d) ∧ (sfiFault s code d).sfi.fault2 = (code, d))

/-! ### The redundant pair: the rows that are events -/

/-- The pair's pins and time-outs (R320 to R323, R326, R330, R338, R339): HB_OUT toggles while HEALTHY; the supervisor lets the token
go; TOK_IN is followed, and the fall of the partner's token noted; the health bit of the command processor needs it up and out of
recovery; STARTING takes after its wait unless the partner is preferred or holds; the token is taken once TOK_IN is inactive, with
the gap of a failure in its register; a token that is stuck ends TAKING; REQUESTING repeats its TAKE; the window and the takeback
count run down. -/
def Obligations.PairPinEvents : Prop :=
  ∀ s : State,
    let ends (i : Instr) (t : State) : Prop := exec i s = .next (after s t)
    ends .heartbeatToggle (if isUp s .rt = true ∧ s.rdn.healthy = true then
      { s with rdn := { s.rdn with hbOut := !s.rdn.hbOut, hbSup := false } } else s) ∧
    ends .hbSupervisorExpiry { s with rdn := { s.rdn with hbSup := true } } ∧
    (∀ v : Bool, ends (.tokInChange v) (if v = s.rdn.tokIn then s
      else { s with rdn := { s.rdn with tokIn := v, gapFrom := if v = true then none else some (elapsedNs s) } })) ∧
    (∀ v : Bool, ends (.healthyChange v) { s with rdn := { s.rdn with cmdOk := v && cmdUp s && !s.chk.recovery } }) ∧
    ends .hbInEdge (if isUp s .rt = true then { s with rdn := { s.rdn with hbIn := true } } else s) ∧
    ends .hbInTimeout (if isUp s .rt = true then { s with rdn := { s.rdn with hbIn := false } } else s) ∧
    ends .linkHbTimeout { s with rdn := { s.rdn with elade := { s.rdn.elade with hbAlive := false } } } ∧
    ends .windowExpiry { s with rdn := { s.rdn with window := false } } ∧
    ends .statusTransmit (sendToArb s 0x10 0) ∧
    (rdnOn s = true →
      ends .startTakeWait (if s.rdn.mstate = .starting ∧ partnerHolds s = false ∧
        ¬(linkAlive s = true ∧ peerHealthy s = true ∧ peerFlag s 2 = true) then sendTake s 2 else s) ∧
      ends .takeRepeat (if s.rdn.mstate = .requesting then sendToArb s 0x11 s.rdn.takeCode else s) ∧
      ends .tokStuck (if s.rdn.mstate = .taking ∧ s.rdn.tokIn = true then
        rdnGo (sendToArb (irq (cnt s .rdn 0 0xB8) .rdn 8) 0x13 0) .tailstock else s) ∧
      (s.rdn.mstate ≠ .taking ∨ s.rdn.tokIn = true ∨ s.rdn.healthy = false → ends .taking s) ∧
      (s.rdn.mstate = .taking → s.rdn.tokIn = false → s.rdn.healthy = true → ∃ t, ends .taking t ∧
        t.rdn.mstate = .headstock ∧ t.rdn.tokEpoch = s.rdn.epoch ∧ t.rdn.epoch = s.rdn.epoch ∧ t.rdn.gapFrom = none ∧
        reg t .rdn 0 0xA0 = min (reg s .rdn 0 0xA0 + 1) 0xFFFFFFFF ∧
        (∀ g, s.rdn.gapFrom = some g → s.rdn.takeCode = 1 → reg t .rdn 0 0x9C = min (elapsedNs s - g) 0xFFFFFFFF) ∧
        t.dec = s.dec ∧ t.spn = s.spn)) ∧
    ends .takebackHoldoff (if holdoffRuns s = true ∧ s.rdn.holdFrom.isSome = true then
      sendTake { s with rdn := { s.rdn with holdFrom := none } } 3 else s)

/-- The Elade link (R325 to R328): HB frames carry health, flags and epoch, and what the partner's say is kept; frames whose CRCs are
wrong change nothing; the next frame of a class in order is accepted and acknowledged, any other is acknowledged as far as the class
has come; an acknowledgement releases the frames up to its number, modulo 2^32; unacknowledged ones are sent again, and the eighth time the link goes down;
a link that goes down forgets its classes; a lane that locks starts the exchange of HELLOs, which brings the link up when both
verify. -/
def Obligations.LinkEvents : Prop :=
  ∀ s : State, rdnOn s = true →
    let ends (i : Instr) (t : State) : Prop := exec i s = .next (after s t)
    let e := s.rdn.elade
    (e.up = false → ends .hbFrameTransmit s ∧ (∀ h, ends (.hbFrameReceive h) s) ∧ ends .eladeLinkDown s ∧
      (∀ c, ends (.retransmitTimeout c) s)) ∧
    (e.up = true →
      (∃ h : HbFrame, h.health.toNat % 65536 = healthBits s ∧ h.epoch.toNat = s.rdn.epoch % 2 ^ 32 ∧
        h.mstate.toNat = mCode s.rdn.mstate ∧ ends .hbFrameTransmit (emit s (.hb h))) ∧
      (∀ h : HbFrame, ends (.hbFrameReceive h)
        { s with rdn := { s.rdn with
          peer := { health := h.health, flags := h.flags, mstate := h.mstate.toNat, epoch := h.epoch.toNat, seen := true },
          elade := { e with hbAlive := true }, epoch := max s.rdn.epoch h.epoch.toNat } }) ∧
      (∀ c : Fin 3,
        let k := c.val + 1
        let x := linkCls s k
        (x.unacked = [] → ends (.retransmitTimeout c) s) ∧
        (x.unacked ≠ [] → 7 ≤ x.retries → ends (.retransmitTimeout c) (eladeDown (cnt s .rdn 0 0xB0))) ∧
        (x.unacked ≠ [] → x.retries < 7 → ends (.retransmitTimeout c)
          (forEach x.unacked (setLinkCls (cnt s .rdn 0 0xB0) k { x with retries := x.retries + 1 })
            fun s f => emit s (.link f))) ∧
        (∀ seq : Word,
          let rest := x.unacked.filter fun f => f.seq != seq && decide ((f.seq - seq).toNat < 2 ^ 31)
          ends (.ackReceive c seq 0)
            (if rest.length = x.unacked.length then s
             else linkPump 65 (setLinkCls s k { x with unacked := rest, retries := 0 }) k))) ∧
      (∀ f : LinkFrame, linkCrcOk f = true → 1 ≤ f.cls.toNat → f.cls.toNat ≤ 3 → (f.cls = 1 → f.type ≠ 1 ∧ f.type ≠ 2) →
        let x := linkCls s f.cls.toNat
        (f.seq.toNat ≠ x.nextRx → ends (.linkFrameReceive f) (sendAck s f.cls.toNat 0)) ∧
        (f.seq.toNat = x.nextRx →
          let r := linkAccepted (setLinkCls s f.cls.toNat { x with nextRx := (x.nextRx + 1) % 2 ^ 32 }) f
          ends (.linkFrameReceive f) (if r.1.rdn.elade.up = true then sendAck r.1 f.cls.toNat r.2 else r.1))) ∧
      ends .eladeLinkDown (eladeDown s) ∧
      (eladeDown s).rdn.elade.up = false ∧ (eladeDown s).rdn.elade.hbAlive = false ∧ (eladeDown s).rdn.mirrorOk = false ∧
      (∀ k, (linkCls (eladeDown s) k).unacked = [] ∧ (linkCls (eladeDown s) k).nextTx = 0 ∧
        (linkCls (eladeDown s) k).nextRx = 0)) ∧
    (∀ f : LinkFrame, linkCrcOk f = false → ends (.linkFrameReceive f) s) ∧
    (∀ l : Fin 2,
      let on : State := { s with rdn := { s.rdn with elade := { e with lanes := e.lanes ||| BitVec.ofNat 2 (2 ^ l.val) } } }
      ends (.laneLock l) (if s.clk.serdes.failed = true then s else if bit e.lanes.toNat l.val = true then on else helloStart on) ∧
      ends (.laneDown l) { s with rdn := { s.rdn with elade := { e with lanes := e.lanes &&& ~~~(BitVec.ofNat 2 (2 ^ l.val)) } } }) ∧
    ends .helloRetry (helloStart s) ∧
    (∀ h : Hello,
      let r := helloOk s h
      let t := sendHello (eladeDown r.1) 2 h.nonce
      let u : State := { t with rdn := { t.rdn with elade := { t.rdn.elade with peerNonce := h.nonce, ackSent := true } } }
      (r.2 = false → ends (.hello h) (helloReject r.1)) ∧
      (r.2 = true → e.up = true ∨ e.ackOk = false → ends (.hello h) u) ∧
      (e.up = true → ends (.helloAck h) s) ∧
      (e.up = false →
        (r.2 = false ∨ padTo 16 h.nonce ≠ e.nonce → ends (.helloAck h) (helloReject r.1)) ∧
        (r.2 = true → padTo 16 h.nonce = e.nonce → e.ackSent = false → ends (.helloAck h)
          { r.1 with rdn := { r.1.rdn with elade := { r.1.rdn.elade with ackOk := true } } })))

/-- The arbiter's answers at the module (R323, R332, R333, R338, R340): a frame that is not accepted counts and does no more; a GRANT
makes REQUESTING into TAKING, opens the window unless its code is KEEP and shows its epoch; a DENY returns to TAILSTOCK unless its
code is 2; a PROBE is answered with ALIVE and its counter; a REVOKE of a later epoch takes the token from a Headstock. -/
def Obligations.ArbiterAnswers : Prop :=
  ∀ (s : State) (f : ArbFrame),
    let ends (i : Instr) (t : State) : Prop := exec i s = .next (after s t)
    let r := arbAccept s f
    let t := r.1
    let seen := seeEpoch t f.epoch.toNat
    let won : State := if f.code = 0 then seen
      else { seen with rdn := { seen.rdn with window := true, windowFrom := elapsedNs seen } }
    let denied := irq (cnt t .rdn 0 0xA4) .rdn 6
    (r.2 = false → ends (.grant f) t ∧ ends (.deny f) t ∧ ends (.probe f) t ∧ ends (.revoke f) t) ∧
    (r.2 = true →
      (won.rdn.mstate ≠ .requesting → ends (.grant f) won) ∧
      (won.rdn.mstate = .requesting → ends (.grant f)
        (if f.code = 2 then linkSend (rdnGo won .taking) 1 6 (le 4 f.epoch.toNat) else rdnGo won .taking)) ∧
      ends (.deny f) (if t.rdn.mstate ≠ .requesting then denied else if f.code = 2 then sendToArb denied 0x10 0
        else rdnGo denied .tailstock) ∧
      ends (.probe f)
        (sendArb t (macOf (reg t .rdn 0 0x50) (reg t .rdn 0 0x54)) 0x14 0 (rdnSide t) t.rdn.epoch f.counter.toNat).1 ∧
      ends (.revoke f) (if t.rdn.mstate = .headstock ∧ t.rdn.tokEpoch < f.epoch.toNat then rdnGo t .tailstock else t)) ∧
    (rdnOn s = false ∨ rdnRole s = true → r = (s, false)) ∧
    (rdnOn s = true → rdnRole s = false → r.2 = true →
      f.sender = 0xFF ∧ f.pairId.toNat = reg s .rdn 0 0x48 ∧ t.rdn.mstate = s.rdn.mstate ∧ t.rdn.epoch = s.rdn.epoch)

/-- The arbiter (R334): it starts with nothing known; every verified frame with a new counter tells it the sender's flags, its epoch
and the holder; a TAKE is granted, denied or makes it probe the holder; a HOLD of the holder is granted; an ABORT of the epoch
returns the token to the holder before; the wait after a PROBE ends with a denial when the holder was alive. A part that is not the
witness takes none of these frames. -/
def Obligations.ArbiterEvents : Prop :=
  ∀ s : State,
    let ends (i : Instr) (t : State) : Prop := exec i s = .next (after s t)
    (isArb s = false →
      ends .arbiterStart s ∧ ends .probeWaitExpiry s ∧ ∀ (f : ArbFrame) (dt : Nat),
        ends (.arbTake f dt) s ∧ ends (.arbHold f dt) s ∧ ends (.arbAbort f dt) s ∧ ends (.arbStatus f dt) s ∧
          ends (.arbAlive f dt) s) ∧
    (isArb s = true →
      ends .arbiterStart { s with rdn := { s.rdn with arb := { Arb.reset with grantedAt := arbNow s - 180000000 } } } ∧
      (s.rdn.arb.probing = none → ends .probeWaitExpiry s) ∧
      (∀ f t0 alive, s.rdn.arb.probing = some (f, t0, alive) →
        let t : State := { s with rdn := { s.rdn with arb := { s.rdn.arb with probing := none } } }
        let m := f.sender.toNat
        ends .probeWaitExpiry
          (if alive = true then arbSend t m 0x21 3 f.counter.toNat
           else if arbNow s - s.rdn.arb.grantedAt < 200000000 then arbSend t m 0x21 2 f.counter.toNat
           else arbGrant t m f.counter.toNat 1)) ∧
      ∀ (f : ArbFrame) (dt : Nat),
        let r := arbHear s f dt
        let t := r.1
        let a := t.rdn.arb
        let m := f.sender.toNat
        let echo := f.counter.toNat
        ends (.arbStatus f dt) t ∧ ends (.arbAlive f dt) t ∧
        ends (.arbHold f dt) (if r.2 = true ∧ a.holder = some m then arbSend t m 0x20 0 echo else t) ∧
        ends (.arbAbort f dt) (if r.2 = true ∧ a.holder = some m ∧ f.epoch.toNat = a.epoch then
          { t with rdn := { t.rdn with arb := { a with holder := a.prev } } } else t) ∧
        (r.2 = false → ends (.arbTake f dt) t) ∧
        (r.2 = true →
          (a.holder = some m → ends (.arbTake f dt) (arbSend t m 0x20 0 echo)) ∧
          (a.holder ≠ some m →
            (bit f.flags.toNat 0 = false → ends (.arbTake f dt) (arbSend t m 0x21 1 echo)) ∧
            (bit f.flags.toNat 0 = true →
              (arbNow t - a.grantedAt < 200000000 → ends (.arbTake f dt) (arbSend t m 0x21 2 echo)) ∧
              (200000000 ≤ arbNow t - a.grantedAt → f.code ≠ 3 → f.code ≠ 4 →
                (a.holder = some (1 - m) → ∃ u, ends (.arbTake f dt) u ∧ (u.rdn.arb.probing.map fun p => p.1) = some f ∧
                  u.rdn.arb.holder = a.holder ∧ u.rdn.arb.epoch = a.epoch) ∧
                (a.holder = none → bit f.flags.toNat 2 = true → ends (.arbTake f dt) (arbGrant t m echo 1))))) ∧
          sideGet a.last m = f.counter.toNat ∧ a.epoch = max s.rdn.arb.epoch f.epoch.toNat ∧
          a.holder = if bit f.flags.toNat 1 = true then some m else s.rdn.arb.holder))

/-! ### Chuck, clocks, Tool rest, resets and power: the rows that are events -/

/-- Chuck, the event recorder and the boot (R344, R345, R352, R361, R364): new masks leave every key its value, and a scrub finds out
bad copies and changes no key; a boot that is due makes the measurements anew; a record goes into the log; a periodic flush
empties the buffer into MRAM. -/
def Obligations.ChuckRecorderEvents : Prop :=
  ∀ s : State,
    (isUp s .security = false →
      exec .remask s = .next (stepEnd s s) ∧ exec .tagScrub s = .next (stepEnd s s) ∧ exec .secureBoot s = .next (after s s)) ∧
    (isUp s .security = true →
      (∃ t, exec .remask s = .next (stepEnd s t) ∧ t.regs = s.regs ∧ t.nv = s.nv ∧
        ∀ kind n, (slotOf t kind n).key.map (fun k => k.value) = (slotOf s kind n).key.map fun k => k.value) ∧
      (∃ t, exec .tagScrub s = .next (stepEnd s t) ∧
        ∀ kind n, (slotOf t kind n).key = (slotOf s kind n).key ∧ ((slotOf s kind n).bad = true → (slotOf t kind n).bad = true)) ∧
      (s.chk.booted = true → exec .secureBoot s = .next (after s s)) ∧
      (s.chk.booted = false →
        let t := secureBoot s
        exec .secureBoot s = .next (after s { t with rdn := { t.rdn with cmdOk := t.chk.booted && !t.chk.recovery } }))) ∧
    (∀ r : EvRec, exec (.eventRecord r) s = .next (after s (evtRec s r)) ∧
      (isUp s .memory = true → s.evr.count < 1048576 → s.evr.buf.length < 8192 → s.evr.count < (evtRec s r).evr.count) ∧
      (isUp s .memory = true → s.evr.count = 1048576 → (evtRec s r).evr.count = s.evr.count ∧
        (evtRec s r).evr.lost = min (s.evr.lost + 1) 0xFFFFFFFF) ∧
      (isUp s .memory = false → (evtRec s r).evr = { s.evr with aonDrop := min (s.evr.aonDrop + 1) 0xFFFFFFFF })) ∧
    exec .flushPeriodic s = .next (after s (if isUp s .memory = true then evrFlush s else s)) ∧
    (evrFlush s).evr = { s.evr with buf := [] } ∧ (evrFlush s).nv = s.nv

/-- Clock sources and PLLs (R372, R374 to R378): nothing happens in power-on reset; a stability count judges its source unless the
source failed by frequency and its reference is stable; an armed monitor without edges fails its source; a frequency window counts
deviations, the second in a row fails, and the monitors that count against a failed source disarm; a forced switch is made when it is
due, to the other source; a lock is noted, and a loss holds the island. -/
def Obligations.ClockEvents : Prop :=
  ∀ s : State,
    let ends (i : Instr) (t : State) : Prop := exec i s = .next (after s t)
    (∀ x : Source,
      let c := srcOf s x
      (s.aon.por = true → ends (.sourceStable x) s ∧ ends (.missingEdge x) s ∧ ∀ ppm, ends (.freqWindow x ppm) s) ∧
      (s.aon.por = false →
        ends (.sourceStable x) (if c.stable = true then s
          else if c.byFreq = true ∧ (srcOf s (refOf x)).stable = true then setSrc s x { c with good := max c.good 1 }
          else srcStable s x) ∧
        ends (.missingEdge x) (if c.stable = true then srcFails s x false else setSrc s x { c with good := 0 }) ∧
        (∀ ppm : Int,
          let ok : Bool := decide (ppm.natAbs ≤ freqTol s x)
          ((srcOf s (refOf x)).stable = false → ends (.freqWindow x ppm) s) ∧
          ((srcOf s (refOf x)).stable = true → x ≠ .rc →
            (c.stable = true → ends (.freqWindow x ppm) (if ok = true then setSrc s x { c with dev := 0 }
              else if c.dev = 0 then setSrc s x { c with dev := 1 } else srcFails s x true)) ∧
            (c.stable = false → ends (.freqWindow x ppm) (if c.good = 0 then s
              else if ok = false then setSrc s x { c with good := 1 }
              else if c.good = 1 then setSrc s x { c with good := 2 } else srcStable s x))))) ∧
      (x ≠ .rc →
        (srcOf (srcFail s x true) x).failed = true ∧ (srcOf (srcFail s x true) x).stable = false ∧
          (srcOf (srcStable s x) x).stable = true ∧ (srcOf (srcStable s x) x).failed = false)) ∧
    ends (.forcedSwitch true) (if s.clk.aonPend = true then
      forcedSwitch { s with clk := { s.clk with aonPend := false, aonOnRef := !s.clk.aonOnRef } } [0] else s) ∧
    ends (.forcedSwitch false) (if s.clk.sysPend = true then forcedSwitch (switchSys s (!s.clk.sysOnRc)) (pllIslands.map islNum) else s) ∧
    (∀ i : Island,
      (pllIslands.contains i = false ∨ clkEn s (islNum i) = false ∨ s.aon.por = true →
        ends (.pllLock i) s ∧ ends (.pllLockLoss i) s) ∧
      (pllIslands.contains i = true → clkEn s (islNum i) = true → s.aon.por = false →
        (s.aon.rstLoss.toNat.testBit (islNum i) = true → ends (.pllLockLoss i) s) ∧
        (s.aon.rstLoss.toNat.testBit (islNum i) = false → ends (.pllLockLoss i) (loseLock s i) ∧
          held (loseLock s i) i = true ∧ (loseLock s i).aon.rstLoss.toNat.testBit (islNum i) = true) ∧
        (sysRef s = true → s.clk.sysPend = false → s.clk.sysOnRc = true → s.aon.rstLoss.toNat.testBit (islNum i) = false →
          ends (.pllLock i)
            { s with clk := { s.clk with lock := s.clk.lock ||| BitVec.ofNat 13 (2 ^ islNum i) } })))

/-- The Tool rest (R379 to R381): a supply or rail condition arises or clears; release needs every condition clear, writes the
time of forcing and raises interrupt 5. From the first condition on the Tool rest forces. Power (R396, R398, R399, R408): a
wake in deep sleep begins a start of kind 5 with the seconds that passed; the power-fail warning is counted, recorded,
withdraws where it is told to, asks for the meters' save, completes a commit whose record is begun and flushes Spindle; its end raises
interrupt 2 and interrupts a commit that it had stopped; PCIE_PERST_N is followed. -/
def Obligations.ToolRestAndPowerEvents : Prop :=
  (∀ s : State,
     let ends (i : Instr) (t : State) : Prop := exec i s = .next (after s t)
     (∀ k : Fin 8,
       let m : BitVec 8 := BitVec.ofNat 8 (2 ^ k.val)
       (k.val = 1 ∨ k.val = 2 →
         ends (.toolRestCondition k) { s with clk := { s.clk with cause := s.clk.cause ||| m } } ∧
         ends (.toolRestConditionClear k) { s with clk := { s.clk with cause := s.clk.cause &&& ~~~m } }) ∧
       (k.val ≠ 1 → k.val ≠ 2 → ends (.toolRestCondition k) s ∧ ends (.toolRestConditionClear k) s)) ∧
     (s.clk.forcing = false ∨ s.clk.cause ≠ 0 → ends .toolRestRelease s) ∧
     (s.clk.forcing = true → s.clk.cause = 0 → ∃ t, ends .toolRestRelease t ∧ t.clk = { s.clk with forcing := false } ∧
       reg t .clk 0 0xB4 = min ((elapsedNs s - s.clk.forceFrom) / 1000) 0xFFFFFFFF ∧ t.aon = s.aon ∧ t.dec = s.dec) ∧
     (causeNow s ≠ 0 → (settleTool s).clk.forcing = true) ∧
     (causeNow s = 0 → (settleTool s).clk.forcing = s.clk.forcing) ∧
     (settleTool s).clk.cause = BitVec.ofNat 8 (causeNow s)) ∧
  (∀ s : State,
     let ends (i : Instr) (t : State) : Prop := exec i s = .next (after s t)
     (s.aon.pwr = 2 → fld s .aon 0x48 0 22 ≠ 0 →
       ends .wakeTimer { s with aon := { s.aon with
         sec := max s.aon.sec (s.aon.secIn + fld s .aon 0x48 0 22), pwr := 0, starting := some 5 } }) ∧
     (s.aon.pwr ≠ 2 ∨ fld s .aon 0x48 0 22 = 0 → ends .wakeTimer s) ∧
     (s.aon.pf = true ∨ s.aon.por = true → ends .powerFailWarning s) ∧
     (s.aon.pf = false → s.aon.por = false →
       let t : State := { s with aon := { s.aon with pf := true, pfWithdrew := s.aon.pfWithdrew || flag s .aon 0x40 0 } }
       let u := evt (irq (cnt t .aon 0 0xB0) .aon 1) 0x0112 2 0 0 0
       let v : State := { u with nrg := { u.nrg with saveReq := if nrgOn u = true then some 1 else u.nrg.saveReq } }
       ends .powerFailWarning
         (spnFlushSoon (if (v.chk.upd.any fun c => decide (1 ≤ c.phase)) = true then commitStep (commitStep v) else v))) ∧
     (s.aon.pf = false → ends .powerFailClear s) ∧
     (s.aon.pf = true →
       let t := evt (irq { s with aon := { s.aon with pf := false } } .aon 2) 0x01FF 1 0 0 0
       ends .powerFailClear (match t.chk.upd with
         | some c => if c.phase = 0 ∧ c.result = none then
             { t with chk := { t.chk with upd := some { c with result := some rInterrupted } } } else t
         | none => t)) ∧
     ends .withdrawRestore (if s.aon.pf = true then s else { s with aon := { s.aon with pfWithdrew := false } }) ∧
     ∀ level : Bool, ends (.pciePerst level) { s with aon := { s.aon with perst := !level } })

/-- Resets (R384 to R391): power-on reset, its release and the start it makes due; an island reset and its release; RESET_N low and
high, and stuck for 8 s; the module watchdog; the reset that a command announced. A module reset holds every island but AON and
Time, and makes a start of its kind due; a start that is not ready waits. -/
def Obligations.ResetEvents : Prop :=
  ∀ s : State,
    let ends (i : Instr) (t : State) : Prop := exec i s = .next (after s t)
    ends .powerOnReset (powerOnReset s) ∧
    (powerOnReset s).aon.por = true ∧ (powerOnReset s).nv = s.nv ∧ (powerOnReset s).fuse = s.fuse ∧ (powerOnReset s).regs = [] ∧
    (∀ i : Island, i ≠ .aon → held (powerOnReset s) i = true) ∧
    ends .powerOnRelease (if s.aon.por = true then { s with aon := { s.aon with por := false, starting := some 1 } } else s) ∧
    ends .start (startNow s) ∧ (startReady s = false → startNow s = s) ∧
    (∀ i : Island,
      ends (.islandReset i) (enterReset s i) ∧ (i ≠ .aon → held (enterReset s i) i = true) ∧ held (enterReset s .aon) i = held s i ∧
      ends (.islandRelease i) (if islandFree s i = true then leaveReset s i false else s)) ∧
    (s.aon.pinLow = true ∨ s.aon.pinArmed = false → ends .pinResetAssert s) ∧
    (s.aon.pinLow = false → s.aon.pinArmed = true →
      let t : State := { s with aon := { s.aon with pinLow := true } }
      ends .pinResetAssert (if resettable s = true then moduleReset t 2 else t)) ∧
    (let t : State := { s with aon := { s.aon with
        pinArmed := true, stuck := s.aon.stuck && s.aon.pinArmed, pinLow := false } }
     ends .pinResetRelease (if s.aon.pinLow = true ∧ s.aon.pwr = 2 then wake t else t)) ∧
    (s.aon.pinLow = false → ends .resetNStuck s) ∧
    (s.aon.pinLow = true →
      let t := irq (cnt s .aon 0 0xB8) .aon 3
      let u : State := { t with aon := { s.aon with stuck := true, stuckDue := true, pinArmed := false, pinLow := false } }
      ends .resetNStuck (if s.aon.pwr = 2 then wake u else u)) ∧
    ends .moduleWatchdog (if resettable s = true then moduleReset (cnt s .aon 0 0xB4) 3 else s) ∧
    ends .softwareReset (if s.aon.rstDue = true ∧ resettable s = true then moduleReset s 4 else s) ∧
    (s.aon.starting = none → ∀ k, (moduleReset s k).aon.starting = some k ∧ (moduleReset s k).aon.rstDue = false ∧ (moduleReset s k).aon.pwr = 0 ∧
      ∀ i, i ≠ .aon → i ≠ .time → held (moduleReset s k) i = true)
end

