-- ==== Sys2Proof/Laws/Memory.lean ====
section
/-!
SUPPORT. Laws of stored memory: the canonical form is kept by every write, a read after a write, and what a batch of writes
leaves.
-/

namespace Sys2Proof.Machine

/-- The canonical form below a first address: what a tail keeps. -/
theorem memory_wf_cons (a : Nat) (b : Byte) (m : List Host.Cell) :
    Memory.wf ((a, b) :: m) = true ↔ b ≠ 0 ∧ (∀ c ∈ m.head?, a < c.1) ∧ Memory.wf m = true := by
  cases m with
  | nil => simp [Memory.wf]
  | cons d m => obtain ⟨x, y⟩ := d; simp [Memory.wf, and_assoc]

/-- The first address of a memory after a write. -/
theorem memWrite_head (m : List Host.Cell) (k : Nat) (v : Byte) (lo : Nat) (hk : lo < k)
    (hm : ∀ c ∈ m.head?, lo < c.1) (hw : Memory.wf m = true) : ∀ c ∈ (memWrite m k v).head?, lo < c.1 := by
  cases m with
  | nil =>
    intro c hc
    unfold memWrite at hc
    split at hc
    · simp at hc
    · simp at hc; subst hc; exact hk
  | cons d m =>
    obtain ⟨a, b⟩ := d
    have ha : lo < a := hm (a, b) (by simp)
    rw [memory_wf_cons] at hw
    intro c hc
    unfold memWrite at hc
    split at hc
    · split at hc
      · exact Nat.lt_trans ha (hw.2.1 c hc)
      · simp at hc; subst hc; exact hk
    · split at hc
      · split at hc
        · simp at hc; subst hc; exact ha
        · simp at hc; subst hc; exact hk
      · simp at hc; subst hc; exact ha

/-- A write keeps the canonical form. -/
theorem memWrite_wf (m : List Host.Cell) (k : Nat) (v : Byte) (h : Memory.wf m = true) :
    Memory.wf (memWrite m k v) = true := by
  induction m with
  | nil => unfold memWrite; split <;> simp_all [Memory.wf]
  | cons d m ih =>
    obtain ⟨a, b⟩ := d
    have h' := h
    rw [memory_wf_cons] at h'
    obtain ⟨hb, hm, hw⟩ := h'
    unfold memWrite
    split
    · rename_i e
      subst e
      split
      · exact hw
      · rw [memory_wf_cons]; exact ⟨‹_›, hm, hw⟩
    · split
      · split
        · exact h
        · rw [memory_wf_cons]; exact ⟨‹_›, by simpa using ‹k < a›, h⟩
      · rw [memory_wf_cons]
        refine ⟨hb, memWrite_head m k v a (by omega) hm hw, ih hw⟩

/-- A batch of writes keeps the canonical form. -/
theorem memWriteAll_wf (m w : List Host.Cell) (h : Memory.wf m = true) : Memory.wf (memWriteAll m w) = true := by
  induction w with
  | nil => exact h
  | cons c w ih => exact memWrite_wf _ _ _ ih

/-- Below the first listed address nothing is listed. -/
theorem findK_below (m : List Host.Cell) (k : Nat) (hm : ∀ c ∈ m.head?, k < c.1) (hw : Memory.wf m = true) :
    findK m k = none := by
  induction m with
  | nil => rfl
  | cons d m ih =>
    obtain ⟨a, b⟩ := d
    have ha : k < a := hm (a, b) (by simp)
    rw [memory_wf_cons] at hw
    unfold findK
    rw [if_neg (by omega)]
    exact ih (fun c hc => Nat.lt_trans ha (hw.2.1 c hc)) hw.2.2

/-- With nothing written in the step, a byte is that of stored memory. -/
@[simp] theorem rdByte_nil (s : State) (a : Nat) (h : s.wr = []) : rdByte s a = memRead s.mem a := by
  simp [rdByte, h, findK]

@[simp] theorem memWriteAll_nil (m : List Host.Cell) : memWriteAll m [] = m := rfl

@[simp] theorem memWriteAll_cons (m : List Host.Cell) (c : Host.Cell) (w : List Host.Cell) :
    memWriteAll m (c :: w) = memWrite (memWriteAll m w) c.1 c.2 := rfl

/-! ### Bytes written in a step -/

theorem findK_pushBytes (w : List Host.Cell) (a : Nat) (bs : List Byte) (k : Nat) :
    findK (pushBytes w a bs) k = if a ≤ k ∧ k < a + bs.length then bs[k - a]? else findK w k := by
  induction bs generalizing w a with
  | nil =>
    have : ¬ (a ≤ k ∧ k < a + ([] : List Byte).length) := by simp
    rw [if_neg this]; rfl
  | cons b bs ih =>
    unfold pushBytes
    rw [ih]
    by_cases h : a + 1 ≤ k ∧ k < a + 1 + bs.length
    · have h' : a ≤ k ∧ k < a + (b :: bs).length := by simp only [List.length_cons]; omega
      rw [if_pos h, if_pos h']
      have : k - a = (k - (a + 1)) + 1 := by omega
      rw [this, List.getElem?_cons_succ]
    · rw [if_neg h]
      by_cases hk : a = k
      · subst hk; simp [findK]
      · have h' : ¬ (a ≤ k ∧ k < a + (b :: bs).length) := by simp only [List.length_cons]; omega
        rw [if_neg h', findK, if_neg hk]

/-- A byte after bytes were written. -/
theorem rdByte_wrBytes (s : State) (a : Nat) (bs : List Byte) (k : Nat) :
    rdByte (wrBytes s a bs) k = if a ≤ k ∧ k < a + bs.length then bs.getD (k - a) 0 else rdByte s k := by
  unfold rdByte wrBytes
  dsimp only
  rw [findK_pushBytes]
  split
  · rename_i h
    have : k - a < bs.length := by omega
    simp [this]
  · rfl

/-- Bytes read where they were written. -/
theorem rdBytes_wrBytes (s : State) (a : Nat) (bs : List Byte) : rdBytes (wrBytes s a bs) a bs.length = bs := by
  apply List.ext_getElem
  · simp [rdBytes]
  · intro n h1 h2
    simp [rdBytes, rdByte_wrBytes, h2]

end Sys2Proof.Machine
end

