-- ==== Sys2Proof/Laws/Run.lean ====
section
/-!
SUPPORT. Laws of the step's frame: what `runOn` answers, and what the end of a step keeps whatever its effect was.
-/

namespace Sys2Proof.Machine

/-- A meaning answers the end of its effect, and nothing else. -/
theorem runOn_eq (f : State → State) (s : State) : runOn f s = .next (stepEnd s (f s)) := rfl

theorem topRun_eq (f : State → State) (s : State) : topRun f s = .next (stepEnd s (settled f s)) := by
  simp only [topRun, runOn]

/-- What follows from an effect depends on the effect alone. -/
theorem settled_const (f : State → State) (s : State) : settled f s = settled (fun _ => f s) s := by
  simp only [settled, gated]

theorem runOn_next {f : State → State} {s t : State} (h : runOn f s = .next t) : t = stepEnd s (f s) := by
  simpa [runOn] using h.symm

@[simp] theorem stepEnd_pending (s t : State) : (stepEnd s t).pending = s.pending := rfl
@[simp] theorem stepEnd_mem (s t : State) : (stepEnd s t).mem = memWriteAll s.mem t.wr := rfl
@[simp] theorem stepEnd_wr (s t : State) : (stepEnd s t).wr = [] := rfl
@[simp] theorem stepEnd_fuse (s t : State) : (stepEnd s t).fuse = Fuses.burn s.fuse t.fuse := rfl
@[simp] theorem stepEnd_nv (s t : State) : (stepEnd s t).nv = t.nv := rfl
@[simp] theorem stepEnd_regs (s t : State) : (stepEnd s t).regs = t.regs := rfl
@[simp] theorem stepEnd_cmd (s t : State) : (stepEnd s t).cmd = t.cmd := rfl
@[simp] theorem stepEnd_tim (s t : State) : (stepEnd s t).tim = t.tim := rfl
@[simp] theorem stepEnd_ports (s t : State) : (stepEnd s t).ports = t.ports := rfl
@[simp] theorem stepEnd_swc (s t : State) : (stepEnd s t).swc = t.swc := rfl
@[simp] theorem stepEnd_svs (s t : State) : (stepEnd s t).svs = t.svs := rfl
@[simp] theorem stepEnd_acq (s t : State) : (stepEnd s t).acq = t.acq := rfl
@[simp] theorem stepEnd_phx (s t : State) : (stepEnd s t).phx = t.phx := rfl
@[simp] theorem stepEnd_nrg (s t : State) : (stepEnd s t).nrg = t.nrg := rfl
@[simp] theorem stepEnd_twv (s t : State) : (stepEnd s t).twv = t.twv := rfl
@[simp] theorem stepEnd_gge (s t : State) : (stepEnd s t).gge = t.gge := rfl
@[simp] theorem stepEnd_dec (s t : State) : (stepEnd s t).dec = t.dec := rfl
@[simp] theorem stepEnd_slc (s t : State) : (stepEnd s t).slc = t.slc := rfl
@[simp] theorem stepEnd_spn (s t : State) : (stepEnd s t).spn = t.spn := rfl
@[simp] theorem stepEnd_sfi (s t : State) : (stepEnd s t).sfi = t.sfi := rfl
@[simp] theorem stepEnd_rdn (s t : State) : (stepEnd s t).rdn = t.rdn := rfl
@[simp] theorem stepEnd_chk (s t : State) : (stepEnd s t).chk = t.chk := rfl
@[simp] theorem stepEnd_evr (s t : State) : (stepEnd s t).evr = t.evr := rfl
@[simp] theorem stepEnd_clk (s t : State) : (stepEnd s t).clk = t.clk := rfl
@[simp] theorem stepEnd_aon (s t : State) : (stepEnd s t).aon = t.aon := rfl
@[simp] theorem stepEnd_out (s t : State) : (stepEnd s t).out = t.out := rfl

/-- The end of a step keeps the canonical form of memory, whatever was written. -/
theorem stepEnd_wf (s t : State) (h : Memory.wf s.mem = true) : Memory.wf (stepEnd s t).mem = true :=
  memWriteAll_wf _ _ h

/-- The identity stays, and the seal once set stays. -/
@[simp] theorem burn_variant (a b : Fuses) : (Fuses.burn a b).variant = a.variant := rfl
@[simp] theorem burn_lot (a b : Fuses) : (Fuses.burn a b).lot = a.lot := rfl
@[simp] theorem burn_sealed (a b : Fuses) : (Fuses.burn a b).sealed = (a.sealed || b.sealed) := rfl

end Sys2Proof.Machine
end

