-- ==== Sys2Proof/Laws/Commands.lean ====
section
/-!
SUPPORT. Laws of the command processor: the bytes of arguments, and what a command does that finds the processor ready.
-/

namespace Sys2Proof.Machine

/-! ### Arguments -/

@[simp] theorem le_length (n v : Nat) : (le n v).length = n := by
  induction n generalizing v with
  | zero => rfl
  | succ n ih => simp [le, ih]

theorem ofLe_append (a b : List Byte) : ofLe (a ++ b) = ofLe a + 256 ^ a.length * ofLe b := by
  induction a with
  | nil => simp [ofLe]
  | cons x a ih => simp only [List.cons_append, ofLe, ih, List.length_cons, pow_succ]; ring

/-- The number of its own bytes. -/
theorem ofLe_le (n v : Nat) : ofLe (le n v) = v % 256 ^ n := by
  induction n generalizing v with
  | zero => simp [le, ofLe, Nat.mod_one]
  | succ n ih =>
    simp only [le, ofLe, ih, BitVec.toNat_ofNat]
    rw [pow_succ 256 n, Nat.mul_comm (256 ^ n) 256, Nat.mod_mul]

/-- A number that stands at its own place among the arguments. -/
theorem numAt_le (a b : List Byte) (n v : Nat) : numAt (a ++ (le n v ++ b)) a.length n = v % 256 ^ n := by
  simp [numAt, slice, ofLe_le]

theorem numAt_le_first (b : List Byte) (n v : Nat) : numAt (le n v ++ b) 0 n = v % 256 ^ n := by
  simpa using numAt_le [] b n v

theorem numAt_le_only (n v : Nat) : numAt (le n v) 0 n = v % 256 ^ n := by
  simpa using numAt_le_first [] n v

/-- A number after a number. -/
theorem numAt_skip (b : List Byte) (n v k m : Nat) : numAt (le n v ++ b) (n + k) m = numAt b k m := by
  simp [numAt, slice, List.drop_append, List.drop_of_length_le]

/-! ### A command at a ready processor -/

theorem ready_cmdUp {s : State} {c : CmdCtx} {op : Nat} {args : List Byte} (h : ready s c op args = true) :
    cmdUp s = true := by
  simp only [ready, Bool.and_eq_true] at h; exact h.1.1.1.1.1.1

theorem ready_link {s : State} {c : CmdCtx} {op : Nat} {args : List Byte} (h : ready s c op args = true) :
    (c.port == .host && !hostUp s) = false := by
  simp only [ready, Bool.and_eq_true] at h
  have := h.1.1.1.1.1.2
  cases hp : c.port == .host <;> cases hh : hostUp s <;> simp_all

/-- The processor takes the next message. -/
theorem commandTake_of {x : State} {m : CmdMsg} (hu : cmdUp x = true) (he : x.cmd.exec.isSome = false)
    (hn : nextMsg x = some m) :
    commandTake x =
      take { x with cmd := { x.cmd with queue := dropFirst x.cmd.queue m, rr := portNum m.ctx.port } } m := by
  unfold commandTake
  rw [hu, he, hn]
  rfl

/-- The command is taken at once. -/
theorem direct_ready {s : State} {c : CmdCtx} {op : Nat} {args : List Byte} (h : ready s c op args = true) :
    direct s c op args =
      take { s with cmd := { s.cmd with queue := [], rr := portNum c.port } } (msgOf s c op args) := by
  have hl := ready_link h
  simp only [ready, Bool.and_eq_true, Option.isNone_iff_eq_none, List.isEmpty_iff] at h
  obtain ⟨⟨⟨⟨⟨⟨hu, _⟩, ho⟩, hm⟩, hs⟩, he⟩, hq⟩ := h
  have hs' : ∀ x : State, x.cmd.hostHeld = s.cmd.hostHeld → x.cmd.sliceHeld = s.cmd.sliceHeld →
      servable x (msgOf s c op args) = true := by
    intro x h1 h2; rw [← hs]; unfold servable; rw [h1, h2]
  have ht : ∀ m : RawMsg, m = RawMsg.mk (BitVec.ofNat 16 op) 0 args.length c.tag args → arrive s c true m = { s with cmd := { s.cmd with queue := [msgOf s c op args] } } := by
    intro m hm'; subst hm'
    simp only [arrive, hu, ho, hm, hq, hl]
    rfl
  unfold direct
  simp only [ht _ rfl]
  have hrr : (List.range 6).map (fun k => (s.cmd.rr + 1 + k) % 6) =
    [(s.cmd.rr + 1) % 6, (s.cmd.rr + 2) % 6, (s.cmd.rr + 3) % 6, (s.cmd.rr + 4) % 6, (s.cmd.rr + 5) % 6,
      (s.cmd.rr + 6) % 6] := rfl
  have hp : ∃ k, k < 6 ∧ portNum c.port = k := by cases c.port <;> exact ⟨_, by decide, rfl⟩
  have hn : nextMsg { s with cmd := { s.cmd with queue := [msgOf s c op args] } } = some (msgOf s c op args) := by
    unfold nextMsg
    dsimp only
    rw [hrr]
    have hv := hs' { s with cmd := { s.cmd with queue := [msgOf s c op args] } } rfl rfl
    obtain ⟨k, hk, hk'⟩ := hp
    have hc : (msgOf s c op args).ctx.port = c.port := rfl
    simp only [List.findSome?_cons, List.find?_cons, List.find?_nil, hv, hc, hk', Bool.and_true, List.findSome?_nil]
    generalize s.cmd.rr = r
    have : k = (r + 1) % 6 ∨ k = (r + 2) % 6 ∨ k = (r + 3) % 6 ∨ k = (r + 4) % 6 ∨ k = (r + 5) % 6 ∨ k = (r + 6) % 6 := by
      omega
    cases h1 : (k == (r + 1) % 6) <;> cases h2 : (k == (r + 2) % 6) <;> cases h3 : (k == (r + 3) % 6) <;>
      cases h4 : (k == (r + 4) % 6) <;> cases h5 : (k == (r + 5) % 6) <;> cases h6 : (k == (r + 6) % 6) <;>
      first
      | rfl
      | (exfalso
         simp only [beq_eq_false_iff_ne] at h1 h2 h3 h4 h5 h6
         omega)
  have hu' : cmdUp { s with cmd := { s.cmd with queue := [msgOf s c op args] } } = true := hu
  have hd : dropFirst [msgOf s c op args] (msgOf s c op args) = [] := by simp [dropFirst]
  have hx : ({ s with cmd := { s.cmd with queue := [msgOf s c op args] } } : State).cmd.exec.isSome = false := by
    show s.cmd.exec.isSome = false
    rw [he]; rfl
  have hb : (s.cmd.queue.isEmpty && s.cmd.exec.isNone &&
      !({ s with cmd := { s.cmd with queue := [msgOf s c op args] } } : State).cmd.queue.isEmpty) = true := by
    rw [hq, he]; rfl
  rw [if_pos hb, commandTake_of hu' hx hn]
  exact congrArg (fun q => take { s with cmd := { s.cmd with queue := q, rr := portNum c.port } } (msgOf s c op args)) hd

/-- Taking a command in its three kinds. -/
theorem take_eq (s : State) (m : CmdMsg) :
    take s m = match execute (jnlOpen s m).1 m with
      | .done t r d => afterEnd (finish t m (jnlOpen s m).2 r d) m r
      | .waits t w => { t with cmd := { t.cmd with exec := some { msg := m, seq := (jnlOpen s m).2, wait := w } } }
      | .bg t i k => { t with cmd := { t.cmd with
          bg := t.cmd.bg ++ [{ slice := i, msg := m, seq := (jnlOpen s m).2, kind := k, live := true, failed := false }] } } := rfl

theorem jnlOpen_seq (s : State) (m : CmdMsg) : (jnlOpen s m).2 = nextSeq s.nv.jnlNewest := rfl

/-- A command that ends at once: the journal entry, the effect and the response, and what follows. -/
theorem topRun_done {s t : State} {c : CmdCtx} {op r : Nat} {args d : List Byte} (h : ready s c op args = true)
    (hx : execute (opened s c op args) (msgOf s c op args) = .done t r d) :
    topRun (fun s => direct s c op args) s = .next (after s (afterEnd (ended s c op args t r d) (msgOf s c op args) r)) := by
  rw [topRun_eq, settled_const, direct_ready h]
  have : take { s with cmd := { s.cmd with queue := [], rr := portNum c.port } } (msgOf s c op args) =
      afterEnd (ended s c op args t r d) (msgOf s c op args) r := by
    rw [take_eq, jnlOpen_seq]
    unfold opened at hx
    rw [hx]
    rfl
  rw [this]; rfl

/-- A command that waits. -/
theorem topRun_waits {s t : State} {c : CmdCtx} {op : Nat} {args : List Byte} {w : Wait} (h : ready s c op args = true)
    (hx : execute (opened s c op args) (msgOf s c op args) = .waits t w) :
    topRun (fun s => direct s c op args) s = .next (after s (waiting s c op args t w)) := by
  rw [topRun_eq, settled_const, direct_ready h]
  have : take { s with cmd := { s.cmd with queue := [], rr := portNum c.port } } (msgOf s c op args) =
      waiting s c op args t w := by
    rw [take_eq, jnlOpen_seq]
    unfold opened at hx
    rw [hx]
    rfl
  rw [this]; rfl

/-- A command that goes on in the background. -/
theorem topRun_bg {s t : State} {c : CmdCtx} {op i : Nat} {args : List Byte} {k : BgKind} (h : ready s c op args = true)
    (hx : execute (opened s c op args) (msgOf s c op args) = .bg t i k) :
    topRun (fun s => direct s c op args) s = .next (after s (started s c op args t i k)) := by
  rw [topRun_eq, settled_const, direct_ready h]
  have : take { s with cmd := { s.cmd with queue := [], rr := portNum c.port } } (msgOf s c op args) =
      started s c op args t i k := by
    rw [take_eq, jnlOpen_seq]
    unfold opened at hx
    rw [hx]
    rfl
  rw [this]; rfl

/-- Only PWR_DEEP has an effect after its response. -/
theorem afterEnd_ne {s u : State} {c : CmdCtx} {op r : Nat} {args : List Byte} (h : BitVec.ofNat 16 op ≠ 0x2084) :
    afterEnd u (msgOf s c op args) r = u := by
  unfold afterEnd
  rw [if_neg]
  exact fun e => h e.1

/-- A command that does what `execute` makes of it. -/
theorem answers_of {i : Instr} {s : State} {c : CmdCtx} {op : Nat} {args : List Byte} {act : State → Act}
    (hi : exec i s = topRun (fun s => direct s c op args) s) (hp : BitVec.ofNat 16 op ≠ 0x2084)
    (hx : unitReady s op = true → execute (opened s c op args) (msgOf s c op args) = act (opened s c op args)) :
    answers i s c op args act := by
  intro h hu
  have e := hx hu
  rw [hi, ← e]
  cases ha : execute (opened s c op args) (msgOf s c op args) with
  | done t r d => rw [topRun_done h ha, afterEnd_ne hp]; rfl
  | waits t w => rw [topRun_waits h ha]; rfl
  | bg t k b => rw [topRun_bg h ha]; rfl

end Sys2Proof.Machine
end

