-- ==== Sys2Proof/Laws/Execute.lean ====
section
/-!
SUPPORT. What each opcode executes on a ready processor, one lemma per opcode: the chain of the opcodes before it is passed here
once and for all.
-/

namespace Sys2Proof.Machine

theorem msgOf_op (s : State) (c : CmdCtx) (op : Nat) (args : List Byte) (h : op < 0x10000) : (msgOf s c op args).opcode.toNat = op := by
  simp [msgOf, Nat.mod_eq_of_lt h]

/-- A command whose unit is ready goes to the function of its group. -/
theorem execute_ready {s : State} {c : CmdCtx} {op : Nat} {args : List Byte} (h : unitReady s op = true) (h16 : op < 0x10000)
    (hp : op ≠ 0x4006 ∨ pairPart s = true) :
    execute (opened s c op args) (msgOf s c op args) =
      (if (0x1001 ≤ op ∧ op ≤ 0x1004) ∨ op / 4096 = 3 ∨ op = 0x5010 ∨ op = 0x5001 ∨ op = 0x6004 then
        execCore (opened s c op args) (msgOf s c op args) op (numAt args)
      else if op = 0x2010 ∨ op = 0x2011 ∨ op = 0x2020 ∨ op = 0x2021 ∨ op = 0x2030 ∨ op = 0x2040 ∨ op / 4096 = 8 ∨
          (0x1020 ≤ op ∧ op ≤ 0x1022) ∨ op = 0x1050 ∨ op = 0x1051 then
        execData (opened s c op args) (msgOf s c op args) op (numAt args)
      else if op / 4096 = 4 then execSlice (opened s c op args) op (numAt args)
      else if op = 0x1030 ∨ (0x2050 ≤ op ∧ op ≤ 0x2062) ∨ op = 0x5011 ∨ op / 4096 = 7 then
        execControl (opened s c op args) op (numAt args)
      else execRoot (opened s c op args) (msgOf s c op args) op (numAt args)) := by
  unfold execute
  rw [msgOf_op _ _ _ _ h16]
  simp only [unitReady, Bool.and_eq_true, Bool.not_eq_true'] at h
  obtain ⟨h1, h2⟩ := h
  have n1 : ¬ ((msgOf s c op args).late = true ∧
      (op / 4096 = 3 ∨ op / 4096 = 4 ∨ op / 4096 = 5 ∨ op / 4096 = 6 ∨ op / 4096 = 8)) := by
    have : (msgOf s c op args).late = s.aon.pf := rfl
    rw [this]
    rintro ⟨a1, a2⟩
    rw [a1] at h1
    rcases a2 with e | e | e | e | e <;> rw [e] at h1 <;> simp at h1
  have n2 : (op == 0x4006 && !pairPart (opened s c op args)) = false := by
    rcases hp with hp | hp
    · rw [show (op == 0x4006) = false by simp [hp]]; rfl
    · rw [show pairPart (opened s c op args) = true from hp]; simp
  dsimp only
  rw [if_neg n1, n2]
  cases hu : unitOf op with
  | none => simp only [Bool.or_false, Bool.false_eq_true, if_false]; rfl
  | some b =>
    rw [hu] at h2
    simp only [Bool.and_eq_true, Bool.not_eq_true', isUp] at h2
    have e1 : fusedOff (opened s c op args) b 0 = false := h2.1
    have e2 : isDown (opened s c op args) (b.island 0) = false := h2.2
    simp only [e1, e2, Bool.or_false, Bool.false_eq_true, if_false]; rfl

theorem execute_1001 {s : State} {c : CmdCtx} {args : List Byte} (h : unitReady s 0x1001 = true) :
    let x := opened s c 0x1001 args
    execute x (msgOf s c 0x1001 args) =
      .done x rOk (le 4 x.nv.jnlNewest ++ le 4 x.nv.jnlCount ++ le 4 x.nv.startCount.toNat ++ le 4 x.nv.restartCount.toNat) := by
  intro x
  show execute (opened s c 0x1001 args) (msgOf s c 0x1001 args) = _
  rw [execute_ready h (by decide) (.inl (by decide)), if_pos (by decide)]
  unfold execCore
  rw [if_pos (by decide)]
  try rfl

theorem execute_1002 {s : State} {c : CmdCtx} {args : List Byte} (h : unitReady s 0x1002 = true) :
    let x := opened s c 0x1002 args
    execute x (msgOf s c 0x1002 args) =
      .ofRes (jnlRead x (numAt args 0 4) (numAt args 4 2)) := by
  intro x
  show execute (opened s c 0x1002 args) (msgOf s c 0x1002 args) = _
  rw [execute_ready h (by decide) (.inl (by decide)), if_pos (by decide)]
  unfold execCore
  rw [if_neg (by decide), if_pos (by decide)]
  try rfl

theorem execute_1003 {s : State} {c : CmdCtx} {args : List Byte} (h : unitReady s 0x1003 = true) :
    let x := opened s c 0x1003 args
    let m := msgOf s c 0x1003 args
    execute x (msgOf s c 0x1003 args) =
      regRead x m := by
  intro x m
  show execute (opened s c 0x1003 args) (msgOf s c 0x1003 args) = _
  rw [execute_ready h (by decide) (.inl (by decide)), if_pos (by decide)]
  unfold execCore
  rw [if_neg (by decide), if_neg (by decide), if_pos (by decide)]
  try rfl

theorem execute_1004 {s : State} {c : CmdCtx} {args : List Byte} (h : unitReady s 0x1004 = true) :
    let x := opened s c 0x1004 args
    execute x (msgOf s c 0x1004 args) =
      .ofRes (reportRead x (numAt args 0 4) (numAt args 4 2)) := by
  intro x
  show execute (opened s c 0x1004 args) (msgOf s c 0x1004 args) = _
  rw [execute_ready h (by decide) (.inl (by decide)), if_pos (by decide)]
  unfold execCore
  rw [if_neg (by decide), if_neg (by decide), if_neg (by decide), if_pos (by decide)]
  try rfl

theorem execute_3001 {s : State} {c : CmdCtx} {args : List Byte} (h : unitReady s 0x3001 = true) :
    let x := opened s c 0x3001 args
    let m := msgOf s c 0x3001 args
    execute x (msgOf s c 0x3001 args) =
      regWrite x m := by
  intro x m
  show execute (opened s c 0x3001 args) (msgOf s c 0x3001 args) = _
  rw [execute_ready h (by decide) (.inl (by decide)), if_pos (by decide)]
  unfold execCore
  rw [if_neg (by decide), if_neg (by decide), if_neg (by decide), if_neg (by decide), if_pos (by decide)]
  try rfl

theorem execute_3002 {s : State} {c : CmdCtx} {args : List Byte} (h : unitReady s 0x3002 = true) :
    let x := opened s c 0x3002 args
    execute x (msgOf s c 0x3002 args) =
      .ofRes (stageWrite x (numAt args 0 4) (args.drop 4)) := by
  intro x
  show execute (opened s c 0x3002 args) (msgOf s c 0x3002 args) = _
  rw [execute_ready h (by decide) (.inl (by decide)), if_pos (by decide)]
  unfold execCore
  rw [if_neg (by decide), if_neg (by decide), if_neg (by decide), if_neg (by decide), if_neg (by decide), if_pos (by decide)]
  try rfl

theorem execute_3003 {s : State} {c : CmdCtx} {args : List Byte} (h : unitReady s 0x3003 = true) :
    let x := opened s c 0x3003 args
    let m := msgOf s c 0x3003 args
    execute x (msgOf s c 0x3003 args) =
      match objOf x m with
      | none => .done x rState []
      | some o => .ofRes (cfgApply x (cmdReq c) o.1 o.2) := by
  intro x m
  show execute (opened s c 0x3003 args) (msgOf s c 0x3003 args) = _
  rw [execute_ready h (by decide) (.inl (by decide)), if_pos (by decide)]
  unfold execCore
  rw [if_neg (by decide), if_neg (by decide), if_neg (by decide), if_neg (by decide), if_neg (by decide), if_neg (by decide)]
  cases h0 : objOf (opened s c 0x3003 args) (msgOf s c 0x3003 args) <;> rfl

theorem execute_2010 {s : State} {c : CmdCtx} {args : List Byte} (h : unitReady s 0x2010 = true) :
    let x := opened s c 0x2010 args
    execute x (msgOf s c 0x2010 args) =
      .ofOption x (timSet x (numAt args 0 8) (numAt args 8 4)) := by
  intro x
  show execute (opened s c 0x2010 args) (msgOf s c 0x2010 args) = _
  rw [execute_ready h (by decide) (.inl (by decide)), if_neg (by decide), if_pos (by decide)]
  unfold execData
  rw [if_pos (by decide)]
  try rfl

theorem execute_2011 {s : State} {c : CmdCtx} {args : List Byte} (h : unitReady s 0x2011 = true) :
    let x := opened s c 0x2011 args
    execute x (msgOf s c 0x2011 args) =
      .ofOption x (reroughen x) := by
  intro x
  show execute (opened s c 0x2011 args) (msgOf s c 0x2011 args) = _
  rw [execute_ready h (by decide) (.inl (by decide)), if_neg (by decide), if_pos (by decide)]
  unfold execData
  rw [if_neg (by decide), if_pos (by decide)]
  try rfl

theorem execute_2020 {s : State} {c : CmdCtx} {args : List Byte} (h : unitReady s 0x2020 = true) :
    let x := opened s c 0x2020 args
    execute x (msgOf s c 0x2020 args) =
      (if numAt args 0 4 < 0x1000000 then .ofBool x (acqCal x (numAt args 0 4)) else .done x rState []) := by
  intro x
  show execute (opened s c 0x2020 args) (msgOf s c 0x2020 args) = _
  rw [execute_ready h (by decide) (.inl (by decide)), if_neg (by decide), if_pos (by decide)]
  unfold execData
  rw [if_neg (by decide), if_neg (by decide), if_pos (by decide)]
  try rfl

theorem execute_2021 {s : State} {c : CmdCtx} {args : List Byte} (h : unitReady s 0x2021 = true) :
    let x := opened s c 0x2021 args
    execute x (msgOf s c 0x2021 args) =
      (if numAt args 0 4 < 0x1000000 then .ofBool x (skewApply x (numAt args 0 4)) else .done x rState []) := by
  intro x
  show execute (opened s c 0x2021 args) (msgOf s c 0x2021 args) = _
  rw [execute_ready h (by decide) (.inl (by decide)), if_neg (by decide), if_pos (by decide)]
  unfold execData
  rw [if_neg (by decide), if_neg (by decide), if_neg (by decide), if_pos (by decide)]
  try rfl

theorem execute_2030 {s : State} {c : CmdCtx} {args : List Byte} (h : unitReady s 0x2030 = true) :
    let x := opened s c 0x2030 args
    execute x (msgOf s c 0x2030 args) =
      (if nrgOn x then .done (energySave x 2) rOk [] else .done x rState []) := by
  intro x
  show execute (opened s c 0x2030 args) (msgOf s c 0x2030 args) = _
  rw [execute_ready h (by decide) (.inl (by decide)), if_neg (by decide), if_pos (by decide)]
  unfold execData
  rw [if_neg (by decide), if_neg (by decide), if_neg (by decide), if_neg (by decide), if_pos (by decide)]
  try rfl

theorem execute_8010 {s : State} {c : CmdCtx} {args : List Byte} (h : unitReady s 0x8010 = true) :
    let x := opened s c 0x8010 args
    execute x (msgOf s c 0x8010 args) =
      let mask := numAt args 0 12
      if mask = 0 ∨ 2 ^ 67 ≤ mask ∨ nrgOn x = false then .done x rState []
      else .waits { x with nrg := { x.nrg with clearReq := some (BitVec.ofNat 96 mask) } } (.clearMeters (BitVec.ofNat 96 mask)) := by
  intro x
  show execute (opened s c 0x8010 args) (msgOf s c 0x8010 args) = _
  rw [execute_ready h (by decide) (.inl (by decide)), if_neg (by decide), if_pos (by decide)]
  unfold execData
  rw [if_neg (by decide), if_neg (by decide), if_neg (by decide), if_neg (by decide), if_neg (by decide), if_pos (by decide)]
  try rfl

theorem execute_1020 {s : State} {c : CmdCtx} {args : List Byte} (h : unitReady s 0x1020 = true) :
    let x := opened s c 0x1020 args
    execute x (msgOf s c 0x1020 args) =
      .ofRes (ggeIndexOp x (numAt args 0 4) (numAt args 4 2)) := by
  intro x
  show execute (opened s c 0x1020 args) (msgOf s c 0x1020 args) = _
  rw [execute_ready h (by decide) (.inl (by decide)), if_neg (by decide), if_pos (by decide)]
  unfold execData
  rw [if_neg (by decide), if_neg (by decide), if_neg (by decide), if_neg (by decide), if_neg (by decide), if_neg (by decide), if_pos (by decide)]
  try rfl

theorem execute_1021 {s : State} {c : CmdCtx} {args : List Byte} (h : unitReady s 0x1021 = true) :
    let x := opened s c 0x1021 args
    execute x (msgOf s c 0x1021 args) =
      .ofRes (ggeReadOp x (numAt args 0 4) (numAt args 4 8) (numAt args 12 2)) := by
  intro x
  show execute (opened s c 0x1021 args) (msgOf s c 0x1021 args) = _
  rw [execute_ready h (by decide) (.inl (by decide)), if_neg (by decide), if_pos (by decide)]
  unfold execData
  rw [if_neg (by decide), if_neg (by decide), if_neg (by decide), if_neg (by decide), if_neg (by decide), if_neg (by decide), if_neg (by decide), if_pos (by decide)]
  try rfl

theorem execute_1022 {s : State} {c : CmdCtx} {args : List Byte} (h : unitReady s 0x1022 = true) :
    let x := opened s c 0x1022 args
    execute x (msgOf s c 0x1022 args) =
      .ofRes (ggeExportOp x (numAt args 0 4) (numAt args 4 1) (numAt args 5 1) (numAt args 6 8) (numAt args 14 2)) := by
  intro x
  show execute (opened s c 0x1022 args) (msgOf s c 0x1022 args) = _
  rw [execute_ready h (by decide) (.inl (by decide)), if_neg (by decide), if_pos (by decide)]
  unfold execData
  rw [if_neg (by decide), if_neg (by decide), if_neg (by decide), if_neg (by decide), if_neg (by decide), if_neg (by decide), if_neg (by decide), if_neg (by decide), if_pos (by decide)]
  try rfl

theorem execute_2040 {s : State} {c : CmdCtx} {args : List Byte} (h : unitReady s 0x2040 = true) :
    let x := opened s c 0x2040 args
    execute x (msgOf s c 0x2040 args) =
      .ofRes (ggeManualOp x) := by
  intro x
  show execute (opened s c 0x2040 args) (msgOf s c 0x2040 args) = _
  rw [execute_ready h (by decide) (.inl (by decide)), if_neg (by decide), if_pos (by decide)]
  unfold execData
  rw [if_neg (by decide), if_neg (by decide), if_neg (by decide), if_neg (by decide), if_neg (by decide), if_neg (by decide), if_neg (by decide), if_neg (by decide), if_neg (by decide), if_pos (by decide)]
  try rfl

theorem execute_8020 {s : State} {c : CmdCtx} {args : List Byte} (h : unitReady s 0x8020 = true) :
    let x := opened s c 0x8020 args
    execute x (msgOf s c 0x8020 args) =
      .ofRes (ggeDeleteOp x (numAt args 0 4)) := by
  intro x
  show execute (opened s c 0x8020 args) (msgOf s c 0x8020 args) = _
  rw [execute_ready h (by decide) (.inl (by decide)), if_neg (by decide), if_pos (by decide)]
  unfold execData
  rw [if_neg (by decide), if_neg (by decide), if_neg (by decide), if_neg (by decide), if_neg (by decide), if_neg (by decide), if_neg (by decide), if_neg (by decide), if_neg (by decide), if_neg (by decide), if_pos (by decide)]
  try rfl

theorem execute_4001 {s : State} {c : CmdCtx} {args : List Byte} (h : unitReady s 0x4001 = true) :
    let x := opened s c 0x4001 args
    execute x (msgOf s c 0x4001 args) =
      slcPart x (numAt args 0 1) (numAt args 1 1) (numAt args 2 2) := by
  intro x
  show execute (opened s c 0x4001 args) (msgOf s c 0x4001 args) = _
  rw [execute_ready h (by decide) (.inl (by decide)), if_neg (by decide), if_neg (by decide), if_pos (by decide)]
  unfold execSlice
  rw [if_pos (by decide)]
  try rfl

theorem execute_4002 {s : State} {c : CmdCtx} {args : List Byte} (h : unitReady s 0x4002 = true) :
    let x := opened s c 0x4002 args
    execute x (msgOf s c 0x4002 args) =
      match sliceCmd x (numAt args 0 1) 3 with
      | some t => .waits t (.freeze (numAt args 0 1))
      | none => .done x rState [] := by
  intro x
  show execute (opened s c 0x4002 args) (msgOf s c 0x4002 args) = _
  rw [execute_ready h (by decide) (.inl (by decide)), if_neg (by decide), if_neg (by decide), if_pos (by decide)]
  unfold execSlice
  rw [if_neg (by decide), if_pos (by decide)]
  try rfl

theorem execute_4003 {s : State} {c : CmdCtx} {args : List Byte} (h : unitReady s 0x4003 = true) :
    let x := opened s c 0x4003 args
    execute x (msgOf s c 0x4003 args) =
      .ofOption x (sliceCmd x (numAt args 0 1) 4) := by
  intro x
  show execute (opened s c 0x4003 args) (msgOf s c 0x4003 args) = _
  rw [execute_ready h (by decide) (.inl (by decide)), if_neg (by decide), if_neg (by decide), if_pos (by decide)]
  unfold execSlice
  rw [if_neg (by decide), if_neg (by decide), if_pos (by decide)]
  try rfl

theorem execute_4004 {s : State} {c : CmdCtx} {args : List Byte} (h : unitReady s 0x4004 = true) :
    let x := opened s c 0x4004 args
    execute x (msgOf s c 0x4004 args) =
      match (if 2 < numAt args 1 1 then none else sliceCmd x (numAt args 0 1) (5 + numAt args 1 1)) with
      | some t => if numAt args 1 1 = 1 then .waits t (.logSwap (numAt args 0 1)) else .done t rOk []
      | none => .done x rState [] := by
  intro x
  show execute (opened s c 0x4004 args) (msgOf s c 0x4004 args) = _
  rw [execute_ready h (by decide) (.inl (by decide)), if_neg (by decide), if_neg (by decide), if_pos (by decide)]
  unfold execSlice
  rw [if_neg (by decide), if_neg (by decide), if_neg (by decide), if_pos (by decide)]
  try rfl

theorem execute_4005 {s : State} {c : CmdCtx} {args : List Byte} (h : unitReady s 0x4005 = true) :
    let x := opened s c 0x4005 args
    execute x (msgOf s c 0x4005 args) =
      .ofOption x (sliceCmd x (numAt args 0 1) 8) := by
  intro x
  show execute (opened s c 0x4005 args) (msgOf s c 0x4005 args) = _
  rw [execute_ready h (by decide) (.inl (by decide)), if_neg (by decide), if_neg (by decide), if_pos (by decide)]
  unfold execSlice
  rw [if_neg (by decide), if_neg (by decide), if_neg (by decide), if_neg (by decide), if_pos (by decide)]
  try rfl

theorem execute_4006 {s : State} {c : CmdCtx} {args : List Byte} (h : unitReady s 0x4006 = true) (hp : pairPart s = true) :
    let x := opened s c 0x4006 args
    execute x (msgOf s c 0x4006 args) =
      slcMigSend x (numAt args 0 1) (numAt args 1 1) (numAt args 2 2) (numAt args 4 8) (numAt args 12 4) := by
  intro x
  show execute (opened s c 0x4006 args) (msgOf s c 0x4006 args) = _
  rw [execute_ready h (by decide) (.inr hp), if_neg (by decide), if_neg (by decide), if_pos (by decide)]
  unfold execSlice
  rw [if_neg (by decide), if_neg (by decide), if_neg (by decide), if_neg (by decide), if_neg (by decide), if_pos (by decide)]
  try rfl

theorem execute_4007 {s : State} {c : CmdCtx} {args : List Byte} (h : unitReady s 0x4007 = true) :
    let x := opened s c 0x4007 args
    execute x (msgOf s c 0x4007 args) =
      (if 64 ≤ (numAt args 0 1) ∨ bgBusy x (numAt args 0 1) = true ∨ (slOf x (numAt args 0 1)).state ≠ .frozen then .done x rState [] else .bg x (numAt args 0 1) (.save (numAt args 1 8) (numAt args 9 4))) := by
  intro x
  show execute (opened s c 0x4007 args) (msgOf s c 0x4007 args) = _
  rw [execute_ready h (by decide) (.inl (by decide)), if_neg (by decide), if_neg (by decide), if_pos (by decide)]
  unfold execSlice
  rw [if_neg (by decide), if_neg (by decide), if_neg (by decide), if_neg (by decide), if_neg (by decide), if_neg (by decide), if_pos (by decide)]
  try rfl

theorem execute_4008 {s : State} {c : CmdCtx} {args : List Byte} (h : unitReady s 0x4008 = true) :
    let x := opened s c 0x4008 args
    execute x (msgOf s c 0x4008 args) =
      if 64 ≤ (numAt args 0 1) ∨ bgBusy x (numAt args 0 1) = true ∨ (slOf x (numAt args 0 1)).state ≠ .free ∨ inDram x (numAt args 1 8) (numAt args 9 4) = false then .done x rState []
      else .bg x (numAt args 0 1) (.restore (numAt args 1 8) (numAt args 9 4)) := by
  intro x
  show execute (opened s c 0x4008 args) (msgOf s c 0x4008 args) = _
  rw [execute_ready h (by decide) (.inl (by decide)), if_neg (by decide), if_neg (by decide), if_pos (by decide)]
  unfold execSlice
  rw [if_neg (by decide), if_neg (by decide), if_neg (by decide), if_neg (by decide), if_neg (by decide), if_neg (by decide), if_neg (by decide)]
  try rfl

theorem execute_1030 {s : State} {c : CmdCtx} {args : List Byte} (h : unitReady s 0x1030 = true) :
    let x := opened s c 0x1030 args
    execute x (msgOf s c 0x1030 args) =
      .ofRes (readVar x (numAt args 0 4)) := by
  intro x
  show execute (opened s c 0x1030 args) (msgOf s c 0x1030 args) = _
  rw [execute_ready h (by decide) (.inl (by decide)), if_neg (by decide), if_neg (by decide), if_neg (by decide), if_pos (by decide)]
  unfold execControl
  rw [if_pos (by decide)]
  try rfl

theorem execute_2050 {s : State} {c : CmdCtx} {args : List Byte} (h : unitReady s 0x2050 = true) :
    let x := opened s c 0x2050 args
    execute x (msgOf s c 0x2050 args) =
      if !switchLegal x then .done x rState []
      else if spnWaits x then .waits x .switch
      else let (t, d) := doSwitch x; .done t rOk d := by
  intro x
  show execute (opened s c 0x2050 args) (msgOf s c 0x2050 args) = _
  rw [execute_ready h (by decide) (.inl (by decide)), if_neg (by decide), if_neg (by decide), if_neg (by decide), if_pos (by decide)]
  unfold execControl
  rw [if_neg (by decide), if_pos (by decide)]
  try rfl

theorem execute_2051 {s : State} {c : CmdCtx} {args : List Byte} (h : unitReady s 0x2051 = true) :
    let x := opened s c 0x2051 args
    execute x (msgOf s c 0x2051 args) =
      (if 1 < numAt args 0 1 then .done x rState [] else .ofOption x (spnRun x (numAt args 0 1 == 1))) := by
  intro x
  show execute (opened s c 0x2051 args) (msgOf s c 0x2051 args) = _
  rw [execute_ready h (by decide) (.inl (by decide)), if_neg (by decide), if_neg (by decide), if_neg (by decide), if_pos (by decide)]
  unfold execControl
  rw [if_neg (by decide), if_neg (by decide), if_pos (by decide)]
  try rfl

theorem execute_2052 {s : State} {c : CmdCtx} {args : List Byte} (h : unitReady s 0x2052 = true) :
    let x := opened s c 0x2052 args
    execute x (msgOf s c 0x2052 args) =
      spnStop x := by
  intro x
  show execute (opened s c 0x2052 args) (msgOf s c 0x2052 args) = _
  rw [execute_ready h (by decide) (.inl (by decide)), if_neg (by decide), if_neg (by decide), if_neg (by decide), if_pos (by decide)]
  unfold execControl
  rw [if_neg (by decide), if_neg (by decide), if_neg (by decide), if_pos (by decide)]
  try rfl

theorem execute_2053 {s : State} {c : CmdCtx} {args : List Byte} (h : unitReady s 0x2053 = true) :
    let x := opened s c 0x2053 args
    execute x (msgOf s c 0x2053 args) =
      spnForce x (numAt args 0 4) (BitVec.ofNat 64 (numAt args 4 8)) (BitVec.ofNat 64 (numAt args 12 8)) := by
  intro x
  show execute (opened s c 0x2053 args) (msgOf s c 0x2053 args) = _
  rw [execute_ready h (by decide) (.inl (by decide)), if_neg (by decide), if_neg (by decide), if_neg (by decide), if_pos (by decide)]
  unfold execControl
  rw [if_neg (by decide), if_neg (by decide), if_neg (by decide), if_neg (by decide), if_pos (by decide)]
  try rfl

theorem execute_2054 {s : State} {c : CmdCtx} {args : List Byte} (h : unitReady s 0x2054 = true) :
    let x := opened s c 0x2054 args
    execute x (msgOf s c 0x2054 args) =
      (if spnWaits x then .waits x (.unforce (BitVec.ofNat 32 (numAt args 0 4))) else .ofOption x (forceDel x (numAt args 0 4))) := by
  intro x
  show execute (opened s c 0x2054 args) (msgOf s c 0x2054 args) = _
  rw [execute_ready h (by decide) (.inl (by decide)), if_neg (by decide), if_neg (by decide), if_neg (by decide), if_pos (by decide)]
  unfold execControl
  rw [if_neg (by decide), if_neg (by decide), if_neg (by decide), if_neg (by decide), if_neg (by decide), if_pos (by decide)]
  try rfl

theorem execute_2055 {s : State} {c : CmdCtx} {args : List Byte} (h : unitReady s 0x2055 = true) :
    let x := opened s c 0x2055 args
    execute x (msgOf s c 0x2055 args) =
      (if spnWaits x then .waits x .unforceAll else .done (forceClear x) rOk []) := by
  intro x
  show execute (opened s c 0x2055 args) (msgOf s c 0x2055 args) = _
  rw [execute_ready h (by decide) (.inl (by decide)), if_neg (by decide), if_neg (by decide), if_neg (by decide), if_pos (by decide)]
  unfold execControl
  rw [if_neg (by decide), if_neg (by decide), if_neg (by decide), if_neg (by decide), if_neg (by decide), if_neg (by decide), if_pos (by decide)]
  try rfl

theorem execute_5010 {s : State} {c : CmdCtx} {args : List Byte} (h : unitReady s 0x5010 = true) :
    let x := opened s c 0x5010 args
    let m := msgOf s c 0x5010 args
    execute x (msgOf s c 0x5010 args) =
      match objOf x m with
      | none => .done x rState []
      | some o => .ofRes (spnLoad x o.1 o.2) := by
  intro x m
  show execute (opened s c 0x5010 args) (msgOf s c 0x5010 args) = _
  rw [execute_ready h (by decide) (.inl (by decide)), if_pos (by decide)]
  unfold execCore
  rw [if_neg (by decide), if_neg (by decide), if_neg (by decide), if_neg (by decide), if_neg (by decide), if_neg (by decide)]
  cases h0 : objOf (opened s c 0x5010 args) (msgOf s c 0x5010 args) <;> rfl

theorem execute_5011 {s : State} {c : CmdCtx} {args : List Byte} (h : unitReady s 0x5011 = true) :
    let x := opened s c 0x5011 args
    execute x (msgOf s c 0x5011 args) =
      .ofRes (spnDiscard x) := by
  intro x
  show execute (opened s c 0x5011 args) (msgOf s c 0x5011 args) = _
  rw [execute_ready h (by decide) (.inl (by decide)), if_neg (by decide), if_neg (by decide), if_neg (by decide), if_pos (by decide)]
  unfold execControl
  rw [if_neg (by decide), if_neg (by decide), if_neg (by decide), if_neg (by decide), if_neg (by decide), if_neg (by decide), if_neg (by decide), if_pos (by decide)]
  try rfl

theorem execute_2060 {s : State} {c : CmdCtx} {args : List Byte} (h : unitReady s 0x2060 = true) :
    let x := opened s c 0x2060 args
    execute x (msgOf s c 0x2060 args) =
      if 3 < numAt args 0 1 ∨ 1 < numAt args 1 1 then .done x rState []
      else
        match sfiProof x (numAt args 0 1) (numAt args 1 1 == 1) with
        | (t, true) => .waits t (.proof (numAt args 0 1))
        | (t, false) => .done t rState [] := by
  intro x
  show execute (opened s c 0x2060 args) (msgOf s c 0x2060 args) = _
  rw [execute_ready h (by decide) (.inl (by decide)), if_neg (by decide), if_neg (by decide), if_neg (by decide), if_pos (by decide)]
  unfold execControl
  rw [if_neg (by decide), if_neg (by decide), if_neg (by decide), if_neg (by decide), if_neg (by decide), if_neg (by decide), if_neg (by decide), if_neg (by decide), if_pos (by decide)]
  try rfl

theorem execute_2061 {s : State} {c : CmdCtx} {args : List Byte} (h : unitReady s 0x2061 = true) :
    let x := opened s c 0x2061 args
    execute x (msgOf s c 0x2061 args) =
      .ofBool x (sfiAck x) := by
  intro x
  show execute (opened s c 0x2061 args) (msgOf s c 0x2061 args) = _
  rw [execute_ready h (by decide) (.inl (by decide)), if_neg (by decide), if_neg (by decide), if_neg (by decide), if_pos (by decide)]
  unfold execControl
  rw [if_neg (by decide), if_neg (by decide), if_neg (by decide), if_neg (by decide), if_neg (by decide), if_neg (by decide), if_neg (by decide), if_neg (by decide), if_neg (by decide), if_pos (by decide)]
  try rfl

theorem execute_2062 {s : State} {c : CmdCtx} {args : List Byte} (h : unitReady s 0x2062 = true) :
    let x := opened s c 0x2062 args
    execute x (msgOf s c 0x2062 args) =
      (if 3 < numAt args 0 1 then .done x rState [] else .ofBool x (sfiStop x (numAt args 0 1))) := by
  intro x
  show execute (opened s c 0x2062 args) (msgOf s c 0x2062 args) = _
  rw [execute_ready h (by decide) (.inl (by decide)), if_neg (by decide), if_neg (by decide), if_neg (by decide), if_pos (by decide)]
  unfold execControl
  rw [if_neg (by decide), if_neg (by decide), if_neg (by decide), if_neg (by decide), if_neg (by decide), if_neg (by decide), if_neg (by decide), if_neg (by decide), if_neg (by decide), if_neg (by decide), if_pos (by decide)]
  try rfl

theorem execute_7001 {s : State} {c : CmdCtx} {args : List Byte} (h : unitReady s 0x7001 = true) :
    let x := opened s c 0x7001 args
    execute x (msgOf s c 0x7001 args) =
      (if handoverLegal x then .done (offerToken x) rOk [] else .done x rState []) := by
  intro x
  show execute (opened s c 0x7001 args) (msgOf s c 0x7001 args) = _
  rw [execute_ready h (by decide) (.inl (by decide)), if_neg (by decide), if_neg (by decide), if_neg (by decide), if_pos (by decide)]
  unfold execControl
  rw [if_neg (by decide), if_neg (by decide), if_neg (by decide), if_neg (by decide), if_neg (by decide), if_neg (by decide), if_neg (by decide), if_neg (by decide), if_neg (by decide), if_neg (by decide), if_neg (by decide), if_pos (by decide)]
  try rfl

theorem execute_7002 {s : State} {c : CmdCtx} {args : List Byte} (h : unitReady s 0x7002 = true) :
    let x := opened s c 0x7002 args
    execute x (msgOf s c 0x7002 args) =
      .ofOption x (takeback x) := by
  intro x
  show execute (opened s c 0x7002 args) (msgOf s c 0x7002 args) = _
  rw [execute_ready h (by decide) (.inl (by decide)), if_neg (by decide), if_neg (by decide), if_neg (by decide), if_pos (by decide)]
  unfold execControl
  rw [if_neg (by decide), if_neg (by decide), if_neg (by decide), if_neg (by decide), if_neg (by decide), if_neg (by decide), if_neg (by decide), if_neg (by decide), if_neg (by decide), if_neg (by decide), if_neg (by decide), if_neg (by decide), if_pos (by decide)]
  try rfl

theorem execute_7003 {s : State} {c : CmdCtx} {args : List Byte} (h : unitReady s 0x7003 = true) :
    let x := opened s c 0x7003 args
    execute x (msgOf s c 0x7003 args) =
      .ofOption x (rdnWithdraw x (numAt args 0 1)) := by
  intro x
  show execute (opened s c 0x7003 args) (msgOf s c 0x7003 args) = _
  rw [execute_ready h (by decide) (.inl (by decide)), if_neg (by decide), if_neg (by decide), if_neg (by decide), if_pos (by decide)]
  unfold execControl
  rw [if_neg (by decide), if_neg (by decide), if_neg (by decide), if_neg (by decide), if_neg (by decide), if_neg (by decide), if_neg (by decide), if_neg (by decide), if_neg (by decide), if_neg (by decide), if_neg (by decide), if_neg (by decide), if_neg (by decide), if_pos (by decide)]
  try rfl

theorem execute_7004 {s : State} {c : CmdCtx} {args : List Byte} (h : unitReady s 0x7004 = true) :
    let x := opened s c 0x7004 args
    execute x (msgOf s c 0x7004 args) =
      .done (rdnRestore x) rOk [] := by
  intro x
  show execute (opened s c 0x7004 args) (msgOf s c 0x7004 args) = _
  rw [execute_ready h (by decide) (.inl (by decide)), if_neg (by decide), if_neg (by decide), if_neg (by decide), if_pos (by decide)]
  unfold execControl
  rw [if_neg (by decide), if_neg (by decide), if_neg (by decide), if_neg (by decide), if_neg (by decide), if_neg (by decide), if_neg (by decide), if_neg (by decide), if_neg (by decide), if_neg (by decide), if_neg (by decide), if_neg (by decide), if_neg (by decide), if_neg (by decide)]
  try rfl

theorem execute_1040 {s : State} {c : CmdCtx} {args : List Byte} (h : unitReady s 0x1040 = true) :
    let x := opened s c 0x1040 args
    execute x (msgOf s c 0x1040 args) =
      .ofRes (attest x args) := by
  intro x
  show execute (opened s c 0x1040 args) (msgOf s c 0x1040 args) = _
  rw [execute_ready h (by decide) (.inl (by decide)), if_neg (by decide), if_neg (by decide), if_neg (by decide), if_neg (by decide)]
  unfold execRoot
  rw [if_pos (by decide)]
  try rfl

theorem execute_1041 {s : State} {c : CmdCtx} {args : List Byte} (h : unitReady s 0x1041 = true) :
    let x := opened s c 0x1041 args
    execute x (msgOf s c 0x1041 args) =
      .ofRes (pubkey x) := by
  intro x
  show execute (opened s c 0x1041 args) (msgOf s c 0x1041 args) = _
  rw [execute_ready h (by decide) (.inl (by decide)), if_neg (by decide), if_neg (by decide), if_neg (by decide), if_neg (by decide)]
  unfold execRoot
  rw [if_neg (by decide), if_pos (by decide)]
  try rfl

theorem execute_1042 {s : State} {c : CmdCtx} {args : List Byte} (h : unitReady s 0x1042 = true) :
    let x := opened s c 0x1042 args
    execute x (msgOf s c 0x1042 args) =
      .ofRes (slotInfo x (numAt args 0 1) (numAt args 1 1)) := by
  intro x
  show execute (opened s c 0x1042 args) (msgOf s c 0x1042 args) = _
  rw [execute_ready h (by decide) (.inl (by decide)), if_neg (by decide), if_neg (by decide), if_neg (by decide), if_neg (by decide)]
  unfold execRoot
  rw [if_neg (by decide), if_neg (by decide), if_pos (by decide)]
  try rfl

theorem execute_5001 {s : State} {c : CmdCtx} {args : List Byte} (h : unitReady s 0x5001 = true) :
    let x := opened s c 0x5001 args
    let m := msgOf s c 0x5001 args
    execute x (msgOf s c 0x5001 args) =
      match objOf x m with
      | none => .done x rState []
      | some o => .ofRes (fwLoad x (rdBytes x o.1 (min o.2 0x400001))) := by
  intro x m
  show execute (opened s c 0x5001 args) (msgOf s c 0x5001 args) = _
  rw [execute_ready h (by decide) (.inl (by decide)), if_pos (by decide)]
  unfold execCore
  rw [if_neg (by decide), if_neg (by decide), if_neg (by decide), if_neg (by decide), if_neg (by decide), if_neg (by decide)]
  cases h0 : objOf (opened s c 0x5001 args) (msgOf s c 0x5001 args) <;> rfl

theorem execute_5002 {s : State} {c : CmdCtx} {args : List Byte} (h : unitReady s 0x5002 = true) :
    let x := opened s c 0x5002 args
    execute x (msgOf s c 0x5002 args) =
      .ofUpd (fwConfirm x) := by
  intro x
  show execute (opened s c 0x5002 args) (msgOf s c 0x5002 args) = _
  rw [execute_ready h (by decide) (.inl (by decide)), if_neg (by decide), if_neg (by decide), if_neg (by decide), if_neg (by decide)]
  unfold execRoot
  rw [if_neg (by decide), if_neg (by decide), if_neg (by decide), if_pos (by decide)]
  try rfl

theorem execute_6001 {s : State} {c : CmdCtx} {args : List Byte} (h : unitReady s 0x6001 = true) :
    let x := opened s c 0x6001 args
    execute x (msgOf s c 0x6001 args) =
      .ofUpd (keyWrite x (numAt args 0 1) (numAt args 1 1) (numAt args 2 4) (numAt args 6 2) (numAt args 8 2) (args.drop 10)) := by
  intro x
  show execute (opened s c 0x6001 args) (msgOf s c 0x6001 args) = _
  rw [execute_ready h (by decide) (.inl (by decide)), if_neg (by decide), if_neg (by decide), if_neg (by decide), if_neg (by decide)]
  unfold execRoot
  rw [if_neg (by decide), if_neg (by decide), if_neg (by decide), if_neg (by decide), if_pos (by decide)]
  try rfl

theorem execute_6002 {s : State} {c : CmdCtx} {args : List Byte} (h : unitReady s 0x6002 = true) :
    let x := opened s c 0x6002 args
    execute x (msgOf s c 0x6002 args) =
      .ofUpd (keyErase x (numAt args 0 1) (numAt args 1 1)) := by
  intro x
  show execute (opened s c 0x6002 args) (msgOf s c 0x6002 args) = _
  rw [execute_ready h (by decide) (.inl (by decide)), if_neg (by decide), if_neg (by decide), if_neg (by decide), if_neg (by decide)]
  unfold execRoot
  rw [if_neg (by decide), if_neg (by decide), if_neg (by decide), if_neg (by decide), if_neg (by decide), if_pos (by decide)]
  try rfl

theorem execute_6003 {s : State} {c : CmdCtx} {args : List Byte} (h : unitReady s 0x6003 = true) :
    let x := opened s c 0x6003 args
    execute x (msgOf s c 0x6003 args) =
      .ofUpd (keyUpdate x args) := by
  intro x
  show execute (opened s c 0x6003 args) (msgOf s c 0x6003 args) = _
  rw [execute_ready h (by decide) (.inl (by decide)), if_neg (by decide), if_neg (by decide), if_neg (by decide), if_neg (by decide)]
  unfold execRoot
  rw [if_neg (by decide), if_neg (by decide), if_neg (by decide), if_neg (by decide), if_neg (by decide), if_neg (by decide), if_pos (by decide)]
  try rfl

theorem execute_6004 {s : State} {c : CmdCtx} {args : List Byte} (h : unitReady s 0x6004 = true) :
    let x := opened s c 0x6004 args
    let m := msgOf s c 0x6004 args
    execute x (msgOf s c 0x6004 args) =
      match objOf x m with
      | none => .done x rState []
      | some o => .ofUpd (keyUpdate x (rdBytes x o.1 (min o.2 0x10000))) := by
  intro x m
  show execute (opened s c 0x6004 args) (msgOf s c 0x6004 args) = _
  rw [execute_ready h (by decide) (.inl (by decide)), if_pos (by decide)]
  unfold execCore
  rw [if_neg (by decide), if_neg (by decide), if_neg (by decide), if_neg (by decide), if_neg (by decide), if_neg (by decide)]
  cases h0 : objOf (opened s c 0x6004 args) (msgOf s c 0x6004 args) <;> rfl

theorem execute_6005 {s : State} {c : CmdCtx} {args : List Byte} (h : unitReady s 0x6005 = true) :
    let x := opened s c 0x6005 args
    execute x (msgOf s c 0x6005 args) =
      .ofRes (chkSeal x args) := by
  intro x
  show execute (opened s c 0x6005 args) (msgOf s c 0x6005 args) = _
  rw [execute_ready h (by decide) (.inl (by decide)), if_neg (by decide), if_neg (by decide), if_neg (by decide), if_neg (by decide)]
  unfold execRoot
  rw [if_neg (by decide), if_neg (by decide), if_neg (by decide), if_neg (by decide), if_neg (by decide), if_neg (by decide), if_neg (by decide), if_pos (by decide)]
  try rfl

theorem execute_6006 {s : State} {c : CmdCtx} {args : List Byte} (h : unitReady s 0x6006 = true) :
    let x := opened s c 0x6006 args
    execute x (msgOf s c 0x6006 args) =
      .ofRes (chkDebug x (numAt args 0 1)) := by
  intro x
  show execute (opened s c 0x6006 args) (msgOf s c 0x6006 args) = _
  rw [execute_ready h (by decide) (.inl (by decide)), if_neg (by decide), if_neg (by decide), if_neg (by decide), if_neg (by decide)]
  unfold execRoot
  rw [if_neg (by decide), if_neg (by decide), if_neg (by decide), if_neg (by decide), if_neg (by decide), if_neg (by decide), if_neg (by decide), if_neg (by decide), if_pos (by decide)]
  try rfl

theorem execute_1050 {s : State} {c : CmdCtx} {args : List Byte} (h : unitReady s 0x1050 = true) :
    let x := opened s c 0x1050 args
    execute x (msgOf s c 0x1050 args) =
      .done x rOk (le 4 x.evr.count ++ le 2 x.evr.gen ++ le 2 x.evr.buf.length ++ le 4 x.evr.lost) := by
  intro x
  show execute (opened s c 0x1050 args) (msgOf s c 0x1050 args) = _
  rw [execute_ready h (by decide) (.inl (by decide)), if_neg (by decide), if_pos (by decide)]
  unfold execData
  rw [if_neg (by decide), if_neg (by decide), if_neg (by decide), if_neg (by decide), if_neg (by decide), if_neg (by decide), if_neg (by decide), if_neg (by decide), if_neg (by decide), if_neg (by decide), if_neg (by decide), if_pos (by decide)]
  try rfl

theorem execute_1051 {s : State} {c : CmdCtx} {args : List Byte} (h : unitReady s 0x1051 = true) :
    let x := opened s c 0x1051 args
    execute x (msgOf s c 0x1051 args) =
      .ofRes (evrReadOp x (numAt args 0 4) (numAt args 4 2)) := by
  intro x
  show execute (opened s c 0x1051 args) (msgOf s c 0x1051 args) = _
  rw [execute_ready h (by decide) (.inl (by decide)), if_neg (by decide), if_pos (by decide)]
  unfold execData
  rw [if_neg (by decide), if_neg (by decide), if_neg (by decide), if_neg (by decide), if_neg (by decide), if_neg (by decide), if_neg (by decide), if_neg (by decide), if_neg (by decide), if_neg (by decide), if_neg (by decide), if_neg (by decide), if_pos (by decide)]
  try rfl

theorem execute_8030 {s : State} {c : CmdCtx} {args : List Byte} (h : unitReady s 0x8030 = true) :
    let x := opened s c 0x8030 args
    execute x (msgOf s c 0x8030 args) =
      .ofRes (evrClearOp x c (numAt args 0 4)) := by
  intro x
  show execute (opened s c 0x8030 args) (msgOf s c 0x8030 args) = _
  rw [execute_ready h (by decide) (.inl (by decide)), if_neg (by decide), if_pos (by decide)]
  unfold execData
  rw [if_neg (by decide), if_neg (by decide), if_neg (by decide), if_neg (by decide), if_neg (by decide), if_neg (by decide), if_neg (by decide), if_neg (by decide), if_neg (by decide), if_neg (by decide), if_neg (by decide), if_neg (by decide), if_neg (by decide)]
  try rfl

theorem execute_2070 {s : State} {c : CmdCtx} {args : List Byte} (h : unitReady s 0x2070 = true) :
    let x := opened s c 0x2070 args
    execute x (msgOf s c 0x2070 args) =
      .ofOption x (clkReturn x) := by
  intro x
  show execute (opened s c 0x2070 args) (msgOf s c 0x2070 args) = _
  rw [execute_ready h (by decide) (.inl (by decide)), if_neg (by decide), if_neg (by decide), if_neg (by decide), if_neg (by decide)]
  unfold execRoot
  rw [if_neg (by decide), if_neg (by decide), if_neg (by decide), if_neg (by decide), if_neg (by decide), if_neg (by decide), if_neg (by decide), if_neg (by decide), if_neg (by decide), if_pos (by decide)]
  try rfl

theorem execute_2080 {s : State} {c : CmdCtx} {args : List Byte} (h : unitReady s 0x2080 = true) :
    let x := opened s c 0x2080 args
    execute x (msgOf s c 0x2080 args) =
      .done { x with aon := { x.aon with rstDue := true } } rOk [] := by
  intro x
  show execute (opened s c 0x2080 args) (msgOf s c 0x2080 args) = _
  rw [execute_ready h (by decide) (.inl (by decide)), if_neg (by decide), if_neg (by decide), if_neg (by decide), if_neg (by decide)]
  unfold execRoot
  rw [if_neg (by decide), if_neg (by decide), if_neg (by decide), if_neg (by decide), if_neg (by decide), if_neg (by decide), if_neg (by decide), if_neg (by decide), if_neg (by decide), if_neg (by decide), if_pos (by decide)]
  try rfl

theorem execute_2081 {s : State} {c : CmdCtx} {args : List Byte} (h : unitReady s 0x2081 = true) :
    let x := opened s c 0x2081 args
    execute x (msgOf s c 0x2081 args) =
      .ofOption x (rstIsland x (numAt args 0 1)) := by
  intro x
  show execute (opened s c 0x2081 args) (msgOf s c 0x2081 args) = _
  rw [execute_ready h (by decide) (.inl (by decide)), if_neg (by decide), if_neg (by decide), if_neg (by decide), if_neg (by decide)]
  unfold execRoot
  rw [if_neg (by decide), if_neg (by decide), if_neg (by decide), if_neg (by decide), if_neg (by decide), if_neg (by decide), if_neg (by decide), if_neg (by decide), if_neg (by decide), if_neg (by decide), if_neg (by decide), if_pos (by decide)]
  try rfl

theorem execute_2082 {s : State} {c : CmdCtx} {args : List Byte} (h : unitReady s 0x2082 = true) :
    let x := opened s c 0x2082 args
    execute x (msgOf s c 0x2082 args) =
      .ofOption x (pwrSleep x) := by
  intro x
  show execute (opened s c 0x2082 args) (msgOf s c 0x2082 args) = _
  rw [execute_ready h (by decide) (.inl (by decide)), if_neg (by decide), if_neg (by decide), if_neg (by decide), if_neg (by decide)]
  unfold execRoot
  rw [if_neg (by decide), if_neg (by decide), if_neg (by decide), if_neg (by decide), if_neg (by decide), if_neg (by decide), if_neg (by decide), if_neg (by decide), if_neg (by decide), if_neg (by decide), if_neg (by decide), if_neg (by decide), if_pos (by decide)]
  try rfl

theorem execute_2083 {s : State} {c : CmdCtx} {args : List Byte} (h : unitReady s 0x2083 = true) :
    let x := opened s c 0x2083 args
    execute x (msgOf s c 0x2083 args) =
      .ofOption x (pwrRun x) := by
  intro x
  show execute (opened s c 0x2083 args) (msgOf s c 0x2083 args) = _
  rw [execute_ready h (by decide) (.inl (by decide)), if_neg (by decide), if_neg (by decide), if_neg (by decide), if_neg (by decide)]
  unfold execRoot
  rw [if_neg (by decide), if_neg (by decide), if_neg (by decide), if_neg (by decide), if_neg (by decide), if_neg (by decide), if_neg (by decide), if_neg (by decide), if_neg (by decide), if_neg (by decide), if_neg (by decide), if_neg (by decide), if_neg (by decide), if_pos (by decide)]
  try rfl

theorem execute_2084 {s : State} {c : CmdCtx} {args : List Byte} (h : unitReady s 0x2084 = true) :
    let x := opened s c 0x2084 args
    execute x (msgOf s c 0x2084 args) =
      (if deepLegal x then .done x rOk [] else .done x rState []) := by
  intro x
  show execute (opened s c 0x2084 args) (msgOf s c 0x2084 args) = _
  rw [execute_ready h (by decide) (.inl (by decide)), if_neg (by decide), if_neg (by decide), if_neg (by decide), if_neg (by decide)]
  unfold execRoot
  rw [if_neg (by decide), if_neg (by decide), if_neg (by decide), if_neg (by decide), if_neg (by decide), if_neg (by decide), if_neg (by decide), if_neg (by decide), if_neg (by decide), if_neg (by decide), if_neg (by decide), if_neg (by decide), if_neg (by decide), if_neg (by decide)]
  try rfl

end Sys2Proof.Machine
end

