-- ==== Sys2Proof/Laws/Registers.lean ====
section
/-!
SUPPORT. Laws of the register file and of an access to it: what a read finds after a write, and what an accessible word's
write comes to.
-/

namespace Sys2Proof.Machine

/-! ### Sparse maps -/

theorem findK_putK_same {α : Type} (m : List (Nat × α)) (k : Nat) (v : α) : findK (putK m k v) k = some v := by
  induction m with
  | nil => simp [putK, findK]
  | cons c m ih =>
    obtain ⟨a, b⟩ := c
    unfold putK
    split
    · simp [findK]
    · split
      · simp [findK]
      · simp_all [findK]

theorem findK_putK_ne {α : Type} (m : List (Nat × α)) {k j : Nat} (v : α) (h : j ≠ k) :
    findK (putK m k v) j = findK m j := by
  induction m with
  | nil => simp [putK, findK, Ne.symm h]
  | cons c m ih =>
    obtain ⟨a, b⟩ := c
    unfold putK
    split
    · simp_all [findK, Ne.symm h]
    · split
      · simp [findK, Ne.symm h]
      · simp only [findK, ih]

/-! ### Words -/

/-- A word that is not banked reads as it was written. -/
theorem reg_setReg_same (s : State) (b : Blk) (i o v : Nat) (h : bankSel b o = none) :
    reg (setReg s b i o v) b i o = v % 2 ^ 32 := by
  have hk : ∀ x : State, regKey x b i o = b.base i + o := by intro x; simp [regKey, h]
  simp only [reg, hk, setReg, findK_putK_same, BitVec.toNat_ofNat]

/-- A write leaves every word with another key. -/
theorem reg_setReg_ne (s : State) (b c : Blk) (i j o p v : Nat) (h : regKey s b i o ≠ regKey s c j p)
    (hs : regKey (setReg s b i o v) c j p = regKey s c j p) : reg (setReg s b i o v) c j p = reg s c j p := by
  simp only [reg, hs]
  simp only [setReg, findK_putK_ne _ _ (Ne.symm h)]

/-- Bits of a word after a field of it was set. -/
theorem getBits_setBits_same (v l w a : Nat) : getBits (setBits v l w a) l w = a % 2 ^ w := by
  have hp : 0 < 2 ^ l := by positivity
  have hw : 0 < 2 ^ w := by positivity
  unfold setBits getBits
  have h1 : v / 2 ^ l % 2 ^ w * 2 ^ l ≤ v := by
    calc v / 2 ^ l % 2 ^ w * 2 ^ l ≤ v / 2 ^ l * 2 ^ l := Nat.mul_le_mul_right _ (Nat.mod_le _ _)
      _ ≤ v := Nat.div_mul_le_self _ _
  have h2 : v - v / 2 ^ l % 2 ^ w * 2 ^ l = v % 2 ^ l + (v / 2 ^ l / 2 ^ w) * 2 ^ w * 2 ^ l := by
    have e1 := Nat.mod_add_div v (2 ^ l)
    have e2 := Nat.mod_add_div (v / 2 ^ l) (2 ^ w)
    have : v = v % 2 ^ l + (v / 2 ^ l % 2 ^ w + 2 ^ w * (v / 2 ^ l / 2 ^ w)) * 2 ^ l := by
      rw [e2]; rw [Nat.mul_comm (v / 2 ^ l)]; omega
    have e3 : (v / 2 ^ l % 2 ^ w + 2 ^ w * (v / 2 ^ l / 2 ^ w)) * 2 ^ l =
        v / 2 ^ l % 2 ^ w * 2 ^ l + (v / 2 ^ l / 2 ^ w) * 2 ^ w * 2 ^ l := by ring
    omega
  rw [h2]
  have h3 : v % 2 ^ l + v / 2 ^ l / 2 ^ w * 2 ^ w * 2 ^ l + a % 2 ^ w * 2 ^ l =
      v % 2 ^ l + 2 ^ l * (v / 2 ^ l / 2 ^ w * 2 ^ w + a % 2 ^ w) := by ring
  rw [h3, Nat.add_mul_div_left _ _ hp, Nat.div_eq_of_lt (Nat.mod_lt _ hp), Nat.zero_add, Nat.add_comm,
    Nat.add_mul_mod_self_right, Nat.mod_mod]

/-- Bits of a word below or above a field that was set. -/
theorem testBit_setBits (v l w a n : Nat) :
    (setBits v l w a).testBit n = if l ≤ n ∧ n < l + w then a.testBit (n - l) else v.testBit n := by
  have hp : 0 < 2 ^ l := by positivity
  have hw : 0 < 2 ^ w := by positivity
  have key : setBits v l w a = v % 2 ^ l + 2 ^ l * (a % 2 ^ w + 2 ^ w * (v / 2 ^ l / 2 ^ w)) := by
    unfold setBits getBits
    have e1 := Nat.mod_add_div v (2 ^ l)
    have e2 := Nat.mod_add_div (v / 2 ^ l) (2 ^ w)
    have e : v = v % 2 ^ l + (v / 2 ^ l % 2 ^ w + 2 ^ w * (v / 2 ^ l / 2 ^ w)) * 2 ^ l := by
      rw [e2]; rw [Nat.mul_comm (v / 2 ^ l)]; omega
    have e3 : (v / 2 ^ l % 2 ^ w + 2 ^ w * (v / 2 ^ l / 2 ^ w)) * 2 ^ l =
        v / 2 ^ l % 2 ^ w * 2 ^ l + 2 ^ w * (v / 2 ^ l / 2 ^ w) * 2 ^ l := by ring
    have e4 : 2 ^ l * (a % 2 ^ w + 2 ^ w * (v / 2 ^ l / 2 ^ w)) =
        a % 2 ^ w * 2 ^ l + 2 ^ w * (v / 2 ^ l / 2 ^ w) * 2 ^ l := by ring
    omega
  rw [key, Nat.add_comm, Nat.testBit_two_pow_mul_add _ (Nat.mod_lt _ hp)]
  by_cases h1 : n < l
  · have : ¬ (l ≤ n ∧ n < l + w) := by omega
    simp [h1, this, Nat.testBit_mod_two_pow]
  · rw [if_neg h1, Nat.add_comm, Nat.testBit_two_pow_mul_add _ (Nat.mod_lt _ hw)]
    by_cases h2 : n - l < w
    · have : l ≤ n ∧ n < l + w := by omega
      simp [h2, this, Nat.testBit_mod_two_pow]
    · have : ¬ (l ≤ n ∧ n < l + w) := by omega
      rw [if_neg h2, if_neg this, Nat.testBit_div_two_pow, Nat.testBit_div_two_pow]
      congr 1; omega

/-! ### Accesses -/

theorem accessible_reaches {s : State} {q : Requester} {b : Blk} {i o : Nat} (h : accessible s q b i o = true) :
    reaches q b i o = true := by
  simp only [accessible, Bool.and_eq_true] at h; exact h.1.1.1.2

theorem accessible_arrives {s : State} {q : Requester} {b : Blk} {i o : Nat} (h : accessible s q b i o = true) :
    arrives s q = true := by
  simp only [accessible, Bool.and_eq_true] at h; exact h.1.1.1.1

/-- A write to an accessible word: its fields, PG_OWNER, and what the write sets off. -/
theorem busWrite_eq {s : State} {q : Requester} {b : Blk} {i o : Nat} (m v : Nat) (h : accessible s q b i o = true)
    (hb : b ≠ .acq) (ha : (wordStep s b i o m v).any = true) (hw : (wordStep s b i o m v).wrote = true)
    (hc : (wordStep s b i o m v).clamps = []) (ho : ((fieldsOf b o).any fun f => f.acc == .wo) = false) :
    (busWrite s q b i o m v).st =
        (afterWrite (wordPut s q b i o (wordStep s b i o m v).new) b i o ((statusWord s b i o).getD (reg s b i o)) m
          (Nat.land v m)).1 ∧
      (busWrite s q b i o m v).err = false := by
  simp only [accessible, Bool.and_eq_true, Bool.not_eq_true'] at h
  obtain ⟨⟨⟨_, h2⟩, h3⟩, h4⟩ := h
  have h4' : ¬(b = .sw ∧ windowFault s i o = true) := by
    rintro ⟨rfl, hf⟩
    simp [hf] at h4
  have hn : ¬(b = .acq ∧ (wordStep s b i o m v).refused = true ∧ bankBlocked s o = true) := fun e => hb e.1
  unfold busWrite
  rw [if_neg (by simp [h2]), if_neg (by simp [h3]), if_neg h4']
  simp only [ha, hw, hc, ho, if_neg hn, Bool.not_true, Bool.false_eq_true, if_false, if_true, forEach, List.foldl_nil]
  exact ⟨rfl, trivial⟩

/-- The row's write to an accessible word is the bus write. -/
theorem pageWrite_eq {s : State} {q : Requester} {b : Blk} {i o : Nat} (m v : Nat) (ha : arrives s q = true)
    (h : reaches q b i o = true)
    (he : (busWrite s q b i o m v).err = false) : pageWrite s q b i o m v = (busWrite s q b i o m v).st := by
  simp [pageWrite, ha, h, he]

end Sys2Proof.Machine
end

