-- ==== Sys2Proof/Laws/State.lean ====
section
/-!
SUPPORT. What the named updates of the state leave: one lemma for each field, so that no proof unfolds a record.
-/

namespace Sys2Proof.Machine

@[simp] theorem emit_fuse (s : State) (o : Out) : (emit s o).fuse = s.fuse := rfl
@[simp] theorem emit_nv (s : State) (o : Out) : (emit s o).nv = s.nv := rfl
@[simp] theorem emit_mem (s : State) (o : Out) : (emit s o).mem = s.mem := rfl
@[simp] theorem emit_latch (s : State) (o : Out) : (emit s o).latch = s.latch := rfl
@[simp] theorem emit_drops (s : State) (o : Out) : (emit s o).drops = s.drops := rfl
@[simp] theorem emit_wr (s : State) (o : Out) : (emit s o).wr = s.wr := rfl
@[simp] theorem emit_regs (s : State) (o : Out) : (emit s o).regs = s.regs := rfl
@[simp] theorem emit_cmd (s : State) (o : Out) : (emit s o).cmd = s.cmd := rfl
@[simp] theorem emit_tim (s : State) (o : Out) : (emit s o).tim = s.tim := rfl
@[simp] theorem emit_ports (s : State) (o : Out) : (emit s o).ports = s.ports := rfl
@[simp] theorem emit_swc (s : State) (o : Out) : (emit s o).swc = s.swc := rfl
@[simp] theorem emit_svs (s : State) (o : Out) : (emit s o).svs = s.svs := rfl
@[simp] theorem emit_acq (s : State) (o : Out) : (emit s o).acq = s.acq := rfl
@[simp] theorem emit_phx (s : State) (o : Out) : (emit s o).phx = s.phx := rfl
@[simp] theorem emit_nrg (s : State) (o : Out) : (emit s o).nrg = s.nrg := rfl
@[simp] theorem emit_twv (s : State) (o : Out) : (emit s o).twv = s.twv := rfl
@[simp] theorem emit_gge (s : State) (o : Out) : (emit s o).gge = s.gge := rfl
@[simp] theorem emit_dec (s : State) (o : Out) : (emit s o).dec = s.dec := rfl
@[simp] theorem emit_slc (s : State) (o : Out) : (emit s o).slc = s.slc := rfl
@[simp] theorem emit_spn (s : State) (o : Out) : (emit s o).spn = s.spn := rfl
@[simp] theorem emit_sfi (s : State) (o : Out) : (emit s o).sfi = s.sfi := rfl
@[simp] theorem emit_rdn (s : State) (o : Out) : (emit s o).rdn = s.rdn := rfl
@[simp] theorem emit_chk (s : State) (o : Out) : (emit s o).chk = s.chk := rfl
@[simp] theorem emit_evr (s : State) (o : Out) : (emit s o).evr = s.evr := rfl
@[simp] theorem emit_clk (s : State) (o : Out) : (emit s o).clk = s.clk := rfl
@[simp] theorem emit_aon (s : State) (o : Out) : (emit s o).aon = s.aon := rfl
@[simp] theorem emit_out (s : State) (o : Out) : (emit s o).out = s.out ++ [o] := rfl
@[simp] theorem emit_pending (s : State) (o : Out) : (emit s o).pending = s.pending := rfl

@[simp] theorem setReg_fuse (s : State) (b : Blk) (i o v : Nat) : (setReg s b i o v).fuse = s.fuse := rfl
@[simp] theorem setReg_nv (s : State) (b : Blk) (i o v : Nat) : (setReg s b i o v).nv = s.nv := rfl
@[simp] theorem setReg_mem (s : State) (b : Blk) (i o v : Nat) : (setReg s b i o v).mem = s.mem := rfl
@[simp] theorem setReg_latch (s : State) (b : Blk) (i o v : Nat) : (setReg s b i o v).latch = s.latch := rfl
@[simp] theorem setReg_drops (s : State) (b : Blk) (i o v : Nat) : (setReg s b i o v).drops = s.drops := rfl
@[simp] theorem setReg_wr (s : State) (b : Blk) (i o v : Nat) : (setReg s b i o v).wr = s.wr := rfl
@[simp] theorem setReg_regs (s : State) (b : Blk) (i o v : Nat) : (setReg s b i o v).regs = putK s.regs (regKey s b i o) (BitVec.ofNat 32 v) := rfl
@[simp] theorem setReg_cmd (s : State) (b : Blk) (i o v : Nat) : (setReg s b i o v).cmd = s.cmd := rfl
@[simp] theorem setReg_tim (s : State) (b : Blk) (i o v : Nat) : (setReg s b i o v).tim = s.tim := rfl
@[simp] theorem setReg_ports (s : State) (b : Blk) (i o v : Nat) : (setReg s b i o v).ports = s.ports := rfl
@[simp] theorem setReg_swc (s : State) (b : Blk) (i o v : Nat) : (setReg s b i o v).swc = s.swc := rfl
@[simp] theorem setReg_svs (s : State) (b : Blk) (i o v : Nat) : (setReg s b i o v).svs = s.svs := rfl
@[simp] theorem setReg_acq (s : State) (b : Blk) (i o v : Nat) : (setReg s b i o v).acq = s.acq := rfl
@[simp] theorem setReg_phx (s : State) (b : Blk) (i o v : Nat) : (setReg s b i o v).phx = s.phx := rfl
@[simp] theorem setReg_nrg (s : State) (b : Blk) (i o v : Nat) : (setReg s b i o v).nrg = s.nrg := rfl
@[simp] theorem setReg_twv (s : State) (b : Blk) (i o v : Nat) : (setReg s b i o v).twv = s.twv := rfl
@[simp] theorem setReg_gge (s : State) (b : Blk) (i o v : Nat) : (setReg s b i o v).gge = s.gge := rfl
@[simp] theorem setReg_dec (s : State) (b : Blk) (i o v : Nat) : (setReg s b i o v).dec = s.dec := rfl
@[simp] theorem setReg_slc (s : State) (b : Blk) (i o v : Nat) : (setReg s b i o v).slc = s.slc := rfl
@[simp] theorem setReg_spn (s : State) (b : Blk) (i o v : Nat) : (setReg s b i o v).spn = s.spn := rfl
@[simp] theorem setReg_sfi (s : State) (b : Blk) (i o v : Nat) : (setReg s b i o v).sfi = s.sfi := rfl
@[simp] theorem setReg_rdn (s : State) (b : Blk) (i o v : Nat) : (setReg s b i o v).rdn = s.rdn := rfl
@[simp] theorem setReg_chk (s : State) (b : Blk) (i o v : Nat) : (setReg s b i o v).chk = s.chk := rfl
@[simp] theorem setReg_evr (s : State) (b : Blk) (i o v : Nat) : (setReg s b i o v).evr = s.evr := rfl
@[simp] theorem setReg_clk (s : State) (b : Blk) (i o v : Nat) : (setReg s b i o v).clk = s.clk := rfl
@[simp] theorem setReg_aon (s : State) (b : Blk) (i o v : Nat) : (setReg s b i o v).aon = s.aon := rfl
@[simp] theorem setReg_out (s : State) (b : Blk) (i o v : Nat) : (setReg s b i o v).out = s.out := rfl
@[simp] theorem setReg_pending (s : State) (b : Blk) (i o v : Nat) : (setReg s b i o v).pending = s.pending := rfl

@[simp] theorem setRegB_fuse (s : State) (b : Blk) (i o k v : Nat) : (setRegB s b i o k v).fuse = s.fuse := rfl
@[simp] theorem setRegB_nv (s : State) (b : Blk) (i o k v : Nat) : (setRegB s b i o k v).nv = s.nv := rfl
@[simp] theorem setRegB_mem (s : State) (b : Blk) (i o k v : Nat) : (setRegB s b i o k v).mem = s.mem := rfl
@[simp] theorem setRegB_latch (s : State) (b : Blk) (i o k v : Nat) : (setRegB s b i o k v).latch = s.latch := rfl
@[simp] theorem setRegB_drops (s : State) (b : Blk) (i o k v : Nat) : (setRegB s b i o k v).drops = s.drops := rfl
@[simp] theorem setRegB_wr (s : State) (b : Blk) (i o k v : Nat) : (setRegB s b i o k v).wr = s.wr := rfl
@[simp] theorem setRegB_regs (s : State) (b : Blk) (i o k v : Nat) : (setRegB s b i o k v).regs = putK s.regs (bankKey b i o k) (BitVec.ofNat 32 v) := rfl
@[simp] theorem setRegB_cmd (s : State) (b : Blk) (i o k v : Nat) : (setRegB s b i o k v).cmd = s.cmd := rfl
@[simp] theorem setRegB_tim (s : State) (b : Blk) (i o k v : Nat) : (setRegB s b i o k v).tim = s.tim := rfl
@[simp] theorem setRegB_ports (s : State) (b : Blk) (i o k v : Nat) : (setRegB s b i o k v).ports = s.ports := rfl
@[simp] theorem setRegB_swc (s : State) (b : Blk) (i o k v : Nat) : (setRegB s b i o k v).swc = s.swc := rfl
@[simp] theorem setRegB_svs (s : State) (b : Blk) (i o k v : Nat) : (setRegB s b i o k v).svs = s.svs := rfl
@[simp] theorem setRegB_acq (s : State) (b : Blk) (i o k v : Nat) : (setRegB s b i o k v).acq = s.acq := rfl
@[simp] theorem setRegB_phx (s : State) (b : Blk) (i o k v : Nat) : (setRegB s b i o k v).phx = s.phx := rfl
@[simp] theorem setRegB_nrg (s : State) (b : Blk) (i o k v : Nat) : (setRegB s b i o k v).nrg = s.nrg := rfl
@[simp] theorem setRegB_twv (s : State) (b : Blk) (i o k v : Nat) : (setRegB s b i o k v).twv = s.twv := rfl
@[simp] theorem setRegB_gge (s : State) (b : Blk) (i o k v : Nat) : (setRegB s b i o k v).gge = s.gge := rfl
@[simp] theorem setRegB_dec (s : State) (b : Blk) (i o k v : Nat) : (setRegB s b i o k v).dec = s.dec := rfl
@[simp] theorem setRegB_slc (s : State) (b : Blk) (i o k v : Nat) : (setRegB s b i o k v).slc = s.slc := rfl
@[simp] theorem setRegB_spn (s : State) (b : Blk) (i o k v : Nat) : (setRegB s b i o k v).spn = s.spn := rfl
@[simp] theorem setRegB_sfi (s : State) (b : Blk) (i o k v : Nat) : (setRegB s b i o k v).sfi = s.sfi := rfl
@[simp] theorem setRegB_rdn (s : State) (b : Blk) (i o k v : Nat) : (setRegB s b i o k v).rdn = s.rdn := rfl
@[simp] theorem setRegB_chk (s : State) (b : Blk) (i o k v : Nat) : (setRegB s b i o k v).chk = s.chk := rfl
@[simp] theorem setRegB_evr (s : State) (b : Blk) (i o k v : Nat) : (setRegB s b i o k v).evr = s.evr := rfl
@[simp] theorem setRegB_clk (s : State) (b : Blk) (i o k v : Nat) : (setRegB s b i o k v).clk = s.clk := rfl
@[simp] theorem setRegB_aon (s : State) (b : Blk) (i o k v : Nat) : (setRegB s b i o k v).aon = s.aon := rfl
@[simp] theorem setRegB_out (s : State) (b : Blk) (i o k v : Nat) : (setRegB s b i o k v).out = s.out := rfl
@[simp] theorem setRegB_pending (s : State) (b : Blk) (i o k v : Nat) : (setRegB s b i o k v).pending = s.pending := rfl

@[simp] theorem wrBytes_fuse (s : State) (a : Nat) (bs : List Byte) : (wrBytes s a bs).fuse = s.fuse := rfl
@[simp] theorem wrBytes_nv (s : State) (a : Nat) (bs : List Byte) : (wrBytes s a bs).nv = s.nv := rfl
@[simp] theorem wrBytes_mem (s : State) (a : Nat) (bs : List Byte) : (wrBytes s a bs).mem = s.mem := rfl
@[simp] theorem wrBytes_latch (s : State) (a : Nat) (bs : List Byte) : (wrBytes s a bs).latch = s.latch := rfl
@[simp] theorem wrBytes_drops (s : State) (a : Nat) (bs : List Byte) : (wrBytes s a bs).drops = s.drops := rfl
@[simp] theorem wrBytes_wr (s : State) (a : Nat) (bs : List Byte) : (wrBytes s a bs).wr = pushBytes s.wr a bs := rfl
@[simp] theorem wrBytes_regs (s : State) (a : Nat) (bs : List Byte) : (wrBytes s a bs).regs = s.regs := rfl
@[simp] theorem wrBytes_cmd (s : State) (a : Nat) (bs : List Byte) : (wrBytes s a bs).cmd = s.cmd := rfl
@[simp] theorem wrBytes_tim (s : State) (a : Nat) (bs : List Byte) : (wrBytes s a bs).tim = s.tim := rfl
@[simp] theorem wrBytes_ports (s : State) (a : Nat) (bs : List Byte) : (wrBytes s a bs).ports = s.ports := rfl
@[simp] theorem wrBytes_swc (s : State) (a : Nat) (bs : List Byte) : (wrBytes s a bs).swc = s.swc := rfl
@[simp] theorem wrBytes_svs (s : State) (a : Nat) (bs : List Byte) : (wrBytes s a bs).svs = s.svs := rfl
@[simp] theorem wrBytes_acq (s : State) (a : Nat) (bs : List Byte) : (wrBytes s a bs).acq = s.acq := rfl
@[simp] theorem wrBytes_phx (s : State) (a : Nat) (bs : List Byte) : (wrBytes s a bs).phx = s.phx := rfl
@[simp] theorem wrBytes_nrg (s : State) (a : Nat) (bs : List Byte) : (wrBytes s a bs).nrg = s.nrg := rfl
@[simp] theorem wrBytes_twv (s : State) (a : Nat) (bs : List Byte) : (wrBytes s a bs).twv = s.twv := rfl
@[simp] theorem wrBytes_gge (s : State) (a : Nat) (bs : List Byte) : (wrBytes s a bs).gge = s.gge := rfl
@[simp] theorem wrBytes_dec (s : State) (a : Nat) (bs : List Byte) : (wrBytes s a bs).dec = s.dec := rfl
@[simp] theorem wrBytes_slc (s : State) (a : Nat) (bs : List Byte) : (wrBytes s a bs).slc = s.slc := rfl
@[simp] theorem wrBytes_spn (s : State) (a : Nat) (bs : List Byte) : (wrBytes s a bs).spn = s.spn := rfl
@[simp] theorem wrBytes_sfi (s : State) (a : Nat) (bs : List Byte) : (wrBytes s a bs).sfi = s.sfi := rfl
@[simp] theorem wrBytes_rdn (s : State) (a : Nat) (bs : List Byte) : (wrBytes s a bs).rdn = s.rdn := rfl
@[simp] theorem wrBytes_chk (s : State) (a : Nat) (bs : List Byte) : (wrBytes s a bs).chk = s.chk := rfl
@[simp] theorem wrBytes_evr (s : State) (a : Nat) (bs : List Byte) : (wrBytes s a bs).evr = s.evr := rfl
@[simp] theorem wrBytes_clk (s : State) (a : Nat) (bs : List Byte) : (wrBytes s a bs).clk = s.clk := rfl
@[simp] theorem wrBytes_aon (s : State) (a : Nat) (bs : List Byte) : (wrBytes s a bs).aon = s.aon := rfl
@[simp] theorem wrBytes_out (s : State) (a : Nat) (bs : List Byte) : (wrBytes s a bs).out = s.out := rfl
@[simp] theorem wrBytes_pending (s : State) (a : Nat) (bs : List Byte) : (wrBytes s a bs).pending = s.pending := rfl

@[simp] theorem setSl_fuse (s : State) (i : Nat) (x : Slice) : (setSl s i x).fuse = s.fuse := rfl
@[simp] theorem setSl_nv (s : State) (i : Nat) (x : Slice) : (setSl s i x).nv = s.nv := rfl
@[simp] theorem setSl_mem (s : State) (i : Nat) (x : Slice) : (setSl s i x).mem = s.mem := rfl
@[simp] theorem setSl_latch (s : State) (i : Nat) (x : Slice) : (setSl s i x).latch = s.latch := rfl
@[simp] theorem setSl_drops (s : State) (i : Nat) (x : Slice) : (setSl s i x).drops = s.drops := rfl
@[simp] theorem setSl_wr (s : State) (i : Nat) (x : Slice) : (setSl s i x).wr = s.wr := rfl
@[simp] theorem setSl_regs (s : State) (i : Nat) (x : Slice) : (setSl s i x).regs = s.regs := rfl
@[simp] theorem setSl_cmd (s : State) (i : Nat) (x : Slice) : (setSl s i x).cmd = s.cmd := rfl
@[simp] theorem setSl_tim (s : State) (i : Nat) (x : Slice) : (setSl s i x).tim = s.tim := rfl
@[simp] theorem setSl_ports (s : State) (i : Nat) (x : Slice) : (setSl s i x).ports = s.ports := rfl
@[simp] theorem setSl_swc (s : State) (i : Nat) (x : Slice) : (setSl s i x).swc = s.swc := rfl
@[simp] theorem setSl_svs (s : State) (i : Nat) (x : Slice) : (setSl s i x).svs = s.svs := rfl
@[simp] theorem setSl_acq (s : State) (i : Nat) (x : Slice) : (setSl s i x).acq = s.acq := rfl
@[simp] theorem setSl_phx (s : State) (i : Nat) (x : Slice) : (setSl s i x).phx = s.phx := rfl
@[simp] theorem setSl_nrg (s : State) (i : Nat) (x : Slice) : (setSl s i x).nrg = s.nrg := rfl
@[simp] theorem setSl_twv (s : State) (i : Nat) (x : Slice) : (setSl s i x).twv = s.twv := rfl
@[simp] theorem setSl_gge (s : State) (i : Nat) (x : Slice) : (setSl s i x).gge = s.gge := rfl
@[simp] theorem setSl_dec (s : State) (i : Nat) (x : Slice) : (setSl s i x).dec = s.dec := rfl
@[simp] theorem setSl_spn (s : State) (i : Nat) (x : Slice) : (setSl s i x).spn = s.spn := rfl
@[simp] theorem setSl_sfi (s : State) (i : Nat) (x : Slice) : (setSl s i x).sfi = s.sfi := rfl
@[simp] theorem setSl_rdn (s : State) (i : Nat) (x : Slice) : (setSl s i x).rdn = s.rdn := rfl
@[simp] theorem setSl_chk (s : State) (i : Nat) (x : Slice) : (setSl s i x).chk = s.chk := rfl
@[simp] theorem setSl_evr (s : State) (i : Nat) (x : Slice) : (setSl s i x).evr = s.evr := rfl
@[simp] theorem setSl_clk (s : State) (i : Nat) (x : Slice) : (setSl s i x).clk = s.clk := rfl
@[simp] theorem setSl_aon (s : State) (i : Nat) (x : Slice) : (setSl s i x).aon = s.aon := rfl
@[simp] theorem setSl_out (s : State) (i : Nat) (x : Slice) : (setSl s i x).out = s.out := rfl
@[simp] theorem setSl_pending (s : State) (i : Nat) (x : Slice) : (setSl s i x).pending = s.pending := rfl

@[simp] theorem setDr_fuse (s : State) (d : Nat) (x : Drive) : (setDr s d x).fuse = s.fuse := rfl
@[simp] theorem setDr_nv (s : State) (d : Nat) (x : Drive) : (setDr s d x).nv = s.nv := rfl
@[simp] theorem setDr_mem (s : State) (d : Nat) (x : Drive) : (setDr s d x).mem = s.mem := rfl
@[simp] theorem setDr_latch (s : State) (d : Nat) (x : Drive) : (setDr s d x).latch = s.latch := rfl
@[simp] theorem setDr_drops (s : State) (d : Nat) (x : Drive) : (setDr s d x).drops = s.drops := rfl
@[simp] theorem setDr_wr (s : State) (d : Nat) (x : Drive) : (setDr s d x).wr = s.wr := rfl
@[simp] theorem setDr_regs (s : State) (d : Nat) (x : Drive) : (setDr s d x).regs = s.regs := rfl
@[simp] theorem setDr_cmd (s : State) (d : Nat) (x : Drive) : (setDr s d x).cmd = s.cmd := rfl
@[simp] theorem setDr_tim (s : State) (d : Nat) (x : Drive) : (setDr s d x).tim = s.tim := rfl
@[simp] theorem setDr_ports (s : State) (d : Nat) (x : Drive) : (setDr s d x).ports = s.ports := rfl
@[simp] theorem setDr_swc (s : State) (d : Nat) (x : Drive) : (setDr s d x).swc = s.swc := rfl
@[simp] theorem setDr_svs (s : State) (d : Nat) (x : Drive) : (setDr s d x).svs = s.svs := rfl
@[simp] theorem setDr_acq (s : State) (d : Nat) (x : Drive) : (setDr s d x).acq = s.acq := rfl
@[simp] theorem setDr_phx (s : State) (d : Nat) (x : Drive) : (setDr s d x).phx = s.phx := rfl
@[simp] theorem setDr_nrg (s : State) (d : Nat) (x : Drive) : (setDr s d x).nrg = s.nrg := rfl
@[simp] theorem setDr_twv (s : State) (d : Nat) (x : Drive) : (setDr s d x).twv = s.twv := rfl
@[simp] theorem setDr_gge (s : State) (d : Nat) (x : Drive) : (setDr s d x).gge = s.gge := rfl
@[simp] theorem setDr_dec (s : State) (d : Nat) (x : Drive) : (setDr s d x).dec = s.dec := rfl
@[simp] theorem setDr_slc (s : State) (d : Nat) (x : Drive) : (setDr s d x).slc = s.slc := rfl
@[simp] theorem setDr_spn (s : State) (d : Nat) (x : Drive) : (setDr s d x).spn = s.spn := rfl
@[simp] theorem setDr_rdn (s : State) (d : Nat) (x : Drive) : (setDr s d x).rdn = s.rdn := rfl
@[simp] theorem setDr_chk (s : State) (d : Nat) (x : Drive) : (setDr s d x).chk = s.chk := rfl
@[simp] theorem setDr_evr (s : State) (d : Nat) (x : Drive) : (setDr s d x).evr = s.evr := rfl
@[simp] theorem setDr_clk (s : State) (d : Nat) (x : Drive) : (setDr s d x).clk = s.clk := rfl
@[simp] theorem setDr_aon (s : State) (d : Nat) (x : Drive) : (setDr s d x).aon = s.aon := rfl
@[simp] theorem setDr_out (s : State) (d : Nat) (x : Drive) : (setDr s d x).out = s.out := rfl
@[simp] theorem setDr_pending (s : State) (d : Nat) (x : Drive) : (setDr s d x).pending = s.pending := rfl

@[simp] theorem setData_fuse (s : State) (d : List Byte) : (setData s d).fuse = s.fuse := rfl
@[simp] theorem setData_nv (s : State) (d : List Byte) : (setData s d).nv = s.nv := rfl
@[simp] theorem setData_mem (s : State) (d : List Byte) : (setData s d).mem = s.mem := rfl
@[simp] theorem setData_latch (s : State) (d : List Byte) : (setData s d).latch = s.latch := rfl
@[simp] theorem setData_drops (s : State) (d : List Byte) : (setData s d).drops = s.drops := rfl
@[simp] theorem setData_wr (s : State) (d : List Byte) : (setData s d).wr = s.wr := rfl
@[simp] theorem setData_regs (s : State) (d : List Byte) : (setData s d).regs = s.regs := rfl
@[simp] theorem setData_cmd (s : State) (d : List Byte) : (setData s d).cmd = s.cmd := rfl
@[simp] theorem setData_tim (s : State) (d : List Byte) : (setData s d).tim = s.tim := rfl
@[simp] theorem setData_ports (s : State) (d : List Byte) : (setData s d).ports = s.ports := rfl
@[simp] theorem setData_swc (s : State) (d : List Byte) : (setData s d).swc = s.swc := rfl
@[simp] theorem setData_svs (s : State) (d : List Byte) : (setData s d).svs = s.svs := rfl
@[simp] theorem setData_acq (s : State) (d : List Byte) : (setData s d).acq = s.acq := rfl
@[simp] theorem setData_phx (s : State) (d : List Byte) : (setData s d).phx = s.phx := rfl
@[simp] theorem setData_nrg (s : State) (d : List Byte) : (setData s d).nrg = s.nrg := rfl
@[simp] theorem setData_twv (s : State) (d : List Byte) : (setData s d).twv = s.twv := rfl
@[simp] theorem setData_gge (s : State) (d : List Byte) : (setData s d).gge = s.gge := rfl
@[simp] theorem setData_dec (s : State) (d : List Byte) : (setData s d).dec = s.dec := rfl
@[simp] theorem setData_slc (s : State) (d : List Byte) : (setData s d).slc = s.slc := rfl
@[simp] theorem setData_spn (s : State) (d : List Byte) : (setData s d).spn = { s.spn with data := d } := rfl
@[simp] theorem setData_sfi (s : State) (d : List Byte) : (setData s d).sfi = s.sfi := rfl
@[simp] theorem setData_rdn (s : State) (d : List Byte) : (setData s d).rdn = s.rdn := rfl
@[simp] theorem setData_chk (s : State) (d : List Byte) : (setData s d).chk = s.chk := rfl
@[simp] theorem setData_evr (s : State) (d : List Byte) : (setData s d).evr = s.evr := rfl
@[simp] theorem setData_clk (s : State) (d : List Byte) : (setData s d).clk = s.clk := rfl
@[simp] theorem setData_aon (s : State) (d : List Byte) : (setData s d).aon = s.aon := rfl
@[simp] theorem setData_out (s : State) (d : List Byte) : (setData s d).out = s.out := rfl
@[simp] theorem setData_pending (s : State) (d : List Byte) : (setData s d).pending = s.pending := rfl

/-! Counters and interrupt bits stand in the register file alone. -/

@[simp] theorem cntBy_fuse (s : State) (b : Blk) (i o n : Nat) : (cntBy s b i o n).fuse = s.fuse := rfl
@[simp] theorem cntBy_nv (s : State) (b : Blk) (i o n : Nat) : (cntBy s b i o n).nv = s.nv := rfl
@[simp] theorem cntBy_mem (s : State) (b : Blk) (i o n : Nat) : (cntBy s b i o n).mem = s.mem := rfl
@[simp] theorem cntBy_latch (s : State) (b : Blk) (i o n : Nat) : (cntBy s b i o n).latch = s.latch := rfl
@[simp] theorem cntBy_drops (s : State) (b : Blk) (i o n : Nat) : (cntBy s b i o n).drops = s.drops := rfl
@[simp] theorem cntBy_wr (s : State) (b : Blk) (i o n : Nat) : (cntBy s b i o n).wr = s.wr := rfl
@[simp] theorem cntBy_cmd (s : State) (b : Blk) (i o n : Nat) : (cntBy s b i o n).cmd = s.cmd := rfl
@[simp] theorem cntBy_tim (s : State) (b : Blk) (i o n : Nat) : (cntBy s b i o n).tim = s.tim := rfl
@[simp] theorem cntBy_ports (s : State) (b : Blk) (i o n : Nat) : (cntBy s b i o n).ports = s.ports := rfl
@[simp] theorem cntBy_swc (s : State) (b : Blk) (i o n : Nat) : (cntBy s b i o n).swc = s.swc := rfl
@[simp] theorem cntBy_svs (s : State) (b : Blk) (i o n : Nat) : (cntBy s b i o n).svs = s.svs := rfl
@[simp] theorem cntBy_acq (s : State) (b : Blk) (i o n : Nat) : (cntBy s b i o n).acq = s.acq := rfl
@[simp] theorem cntBy_phx (s : State) (b : Blk) (i o n : Nat) : (cntBy s b i o n).phx = s.phx := rfl
@[simp] theorem cntBy_nrg (s : State) (b : Blk) (i o n : Nat) : (cntBy s b i o n).nrg = s.nrg := rfl
@[simp] theorem cntBy_twv (s : State) (b : Blk) (i o n : Nat) : (cntBy s b i o n).twv = s.twv := rfl
@[simp] theorem cntBy_gge (s : State) (b : Blk) (i o n : Nat) : (cntBy s b i o n).gge = s.gge := rfl
@[simp] theorem cntBy_dec (s : State) (b : Blk) (i o n : Nat) : (cntBy s b i o n).dec = s.dec := rfl
@[simp] theorem cntBy_slc (s : State) (b : Blk) (i o n : Nat) : (cntBy s b i o n).slc = s.slc := rfl
@[simp] theorem cntBy_spn (s : State) (b : Blk) (i o n : Nat) : (cntBy s b i o n).spn = s.spn := rfl
@[simp] theorem cntBy_sfi (s : State) (b : Blk) (i o n : Nat) : (cntBy s b i o n).sfi = s.sfi := rfl
@[simp] theorem cntBy_rdn (s : State) (b : Blk) (i o n : Nat) : (cntBy s b i o n).rdn = s.rdn := rfl
@[simp] theorem cntBy_chk (s : State) (b : Blk) (i o n : Nat) : (cntBy s b i o n).chk = s.chk := rfl
@[simp] theorem cntBy_evr (s : State) (b : Blk) (i o n : Nat) : (cntBy s b i o n).evr = s.evr := rfl
@[simp] theorem cntBy_clk (s : State) (b : Blk) (i o n : Nat) : (cntBy s b i o n).clk = s.clk := rfl
@[simp] theorem cntBy_aon (s : State) (b : Blk) (i o n : Nat) : (cntBy s b i o n).aon = s.aon := rfl
@[simp] theorem cntBy_out (s : State) (b : Blk) (i o n : Nat) : (cntBy s b i o n).out = s.out := rfl
@[simp] theorem cntBy_pending (s : State) (b : Blk) (i o n : Nat) : (cntBy s b i o n).pending = s.pending := rfl
@[simp] theorem cnt_fuse (s : State) (b : Blk) (i o : Nat) : (cnt s b i o).fuse = s.fuse := rfl
@[simp] theorem cnt_nv (s : State) (b : Blk) (i o : Nat) : (cnt s b i o).nv = s.nv := rfl
@[simp] theorem cnt_mem (s : State) (b : Blk) (i o : Nat) : (cnt s b i o).mem = s.mem := rfl
@[simp] theorem cnt_latch (s : State) (b : Blk) (i o : Nat) : (cnt s b i o).latch = s.latch := rfl
@[simp] theorem cnt_drops (s : State) (b : Blk) (i o : Nat) : (cnt s b i o).drops = s.drops := rfl
@[simp] theorem cnt_wr (s : State) (b : Blk) (i o : Nat) : (cnt s b i o).wr = s.wr := rfl
@[simp] theorem cnt_cmd (s : State) (b : Blk) (i o : Nat) : (cnt s b i o).cmd = s.cmd := rfl
@[simp] theorem cnt_tim (s : State) (b : Blk) (i o : Nat) : (cnt s b i o).tim = s.tim := rfl
@[simp] theorem cnt_ports (s : State) (b : Blk) (i o : Nat) : (cnt s b i o).ports = s.ports := rfl
@[simp] theorem cnt_swc (s : State) (b : Blk) (i o : Nat) : (cnt s b i o).swc = s.swc := rfl
@[simp] theorem cnt_svs (s : State) (b : Blk) (i o : Nat) : (cnt s b i o).svs = s.svs := rfl
@[simp] theorem cnt_acq (s : State) (b : Blk) (i o : Nat) : (cnt s b i o).acq = s.acq := rfl
@[simp] theorem cnt_phx (s : State) (b : Blk) (i o : Nat) : (cnt s b i o).phx = s.phx := rfl
@[simp] theorem cnt_nrg (s : State) (b : Blk) (i o : Nat) : (cnt s b i o).nrg = s.nrg := rfl
@[simp] theorem cnt_twv (s : State) (b : Blk) (i o : Nat) : (cnt s b i o).twv = s.twv := rfl
@[simp] theorem cnt_gge (s : State) (b : Blk) (i o : Nat) : (cnt s b i o).gge = s.gge := rfl
@[simp] theorem cnt_dec (s : State) (b : Blk) (i o : Nat) : (cnt s b i o).dec = s.dec := rfl
@[simp] theorem cnt_slc (s : State) (b : Blk) (i o : Nat) : (cnt s b i o).slc = s.slc := rfl
@[simp] theorem cnt_spn (s : State) (b : Blk) (i o : Nat) : (cnt s b i o).spn = s.spn := rfl
@[simp] theorem cnt_sfi (s : State) (b : Blk) (i o : Nat) : (cnt s b i o).sfi = s.sfi := rfl
@[simp] theorem cnt_rdn (s : State) (b : Blk) (i o : Nat) : (cnt s b i o).rdn = s.rdn := rfl
@[simp] theorem cnt_chk (s : State) (b : Blk) (i o : Nat) : (cnt s b i o).chk = s.chk := rfl
@[simp] theorem cnt_evr (s : State) (b : Blk) (i o : Nat) : (cnt s b i o).evr = s.evr := rfl
@[simp] theorem cnt_clk (s : State) (b : Blk) (i o : Nat) : (cnt s b i o).clk = s.clk := rfl
@[simp] theorem cnt_aon (s : State) (b : Blk) (i o : Nat) : (cnt s b i o).aon = s.aon := rfl
@[simp] theorem cnt_out (s : State) (b : Blk) (i o : Nat) : (cnt s b i o).out = s.out := rfl
@[simp] theorem cnt_pending (s : State) (b : Blk) (i o : Nat) : (cnt s b i o).pending = s.pending := rfl
@[simp] theorem irqI_fuse (s : State) (b : Blk) (i n : Nat) : (irqI s b i n).fuse = s.fuse := by
  unfold irqI; split <;> rfl
@[simp] theorem irqI_nv (s : State) (b : Blk) (i n : Nat) : (irqI s b i n).nv = s.nv := by
  unfold irqI; split <;> rfl
@[simp] theorem irqI_mem (s : State) (b : Blk) (i n : Nat) : (irqI s b i n).mem = s.mem := by
  unfold irqI; split <;> rfl
@[simp] theorem irqI_latch (s : State) (b : Blk) (i n : Nat) : (irqI s b i n).latch = s.latch := by
  unfold irqI; split <;> rfl
@[simp] theorem irqI_drops (s : State) (b : Blk) (i n : Nat) : (irqI s b i n).drops = s.drops := by
  unfold irqI; split <;> rfl
@[simp] theorem irqI_wr (s : State) (b : Blk) (i n : Nat) : (irqI s b i n).wr = s.wr := by
  unfold irqI; split <;> rfl
@[simp] theorem irqI_cmd (s : State) (b : Blk) (i n : Nat) : (irqI s b i n).cmd = s.cmd := by
  unfold irqI; split <;> rfl
@[simp] theorem irqI_tim (s : State) (b : Blk) (i n : Nat) : (irqI s b i n).tim = s.tim := by
  unfold irqI; split <;> rfl
@[simp] theorem irqI_ports (s : State) (b : Blk) (i n : Nat) : (irqI s b i n).ports = s.ports := by
  unfold irqI; split <;> rfl
@[simp] theorem irqI_swc (s : State) (b : Blk) (i n : Nat) : (irqI s b i n).swc = s.swc := by
  unfold irqI; split <;> rfl
@[simp] theorem irqI_svs (s : State) (b : Blk) (i n : Nat) : (irqI s b i n).svs = s.svs := by
  unfold irqI; split <;> rfl
@[simp] theorem irqI_acq (s : State) (b : Blk) (i n : Nat) : (irqI s b i n).acq = s.acq := by
  unfold irqI; split <;> rfl
@[simp] theorem irqI_phx (s : State) (b : Blk) (i n : Nat) : (irqI s b i n).phx = s.phx := by
  unfold irqI; split <;> rfl
@[simp] theorem irqI_nrg (s : State) (b : Blk) (i n : Nat) : (irqI s b i n).nrg = s.nrg := by
  unfold irqI; split <;> rfl
@[simp] theorem irqI_twv (s : State) (b : Blk) (i n : Nat) : (irqI s b i n).twv = s.twv := by
  unfold irqI; split <;> rfl
@[simp] theorem irqI_gge (s : State) (b : Blk) (i n : Nat) : (irqI s b i n).gge = s.gge := by
  unfold irqI; split <;> rfl
@[simp] theorem irqI_dec (s : State) (b : Blk) (i n : Nat) : (irqI s b i n).dec = s.dec := by
  unfold irqI; split <;> rfl
@[simp] theorem irqI_slc (s : State) (b : Blk) (i n : Nat) : (irqI s b i n).slc = s.slc := by
  unfold irqI; split <;> rfl
@[simp] theorem irqI_spn (s : State) (b : Blk) (i n : Nat) : (irqI s b i n).spn = s.spn := by
  unfold irqI; split <;> rfl
@[simp] theorem irqI_sfi (s : State) (b : Blk) (i n : Nat) : (irqI s b i n).sfi = s.sfi := by
  unfold irqI; split <;> rfl
@[simp] theorem irqI_rdn (s : State) (b : Blk) (i n : Nat) : (irqI s b i n).rdn = s.rdn := by
  unfold irqI; split <;> rfl
@[simp] theorem irqI_chk (s : State) (b : Blk) (i n : Nat) : (irqI s b i n).chk = s.chk := by
  unfold irqI; split <;> rfl
@[simp] theorem irqI_evr (s : State) (b : Blk) (i n : Nat) : (irqI s b i n).evr = s.evr := by
  unfold irqI; split <;> rfl
@[simp] theorem irqI_clk (s : State) (b : Blk) (i n : Nat) : (irqI s b i n).clk = s.clk := by
  unfold irqI; split <;> rfl
@[simp] theorem irqI_aon (s : State) (b : Blk) (i n : Nat) : (irqI s b i n).aon = s.aon := by
  unfold irqI; split <;> rfl
@[simp] theorem irqI_out (s : State) (b : Blk) (i n : Nat) : (irqI s b i n).out = s.out := by
  unfold irqI; split <;> rfl
@[simp] theorem irqI_pending (s : State) (b : Blk) (i n : Nat) : (irqI s b i n).pending = s.pending := by
  unfold irqI; split <;> rfl
@[simp] theorem irq_fuse (s : State) (b : Blk) (n : Nat) : (irq s b n).fuse = s.fuse := by
  unfold irq irqI; split <;> rfl
@[simp] theorem irq_nv (s : State) (b : Blk) (n : Nat) : (irq s b n).nv = s.nv := by
  unfold irq irqI; split <;> rfl
@[simp] theorem irq_mem (s : State) (b : Blk) (n : Nat) : (irq s b n).mem = s.mem := by
  unfold irq irqI; split <;> rfl
@[simp] theorem irq_latch (s : State) (b : Blk) (n : Nat) : (irq s b n).latch = s.latch := by
  unfold irq irqI; split <;> rfl
@[simp] theorem irq_drops (s : State) (b : Blk) (n : Nat) : (irq s b n).drops = s.drops := by
  unfold irq irqI; split <;> rfl
@[simp] theorem irq_wr (s : State) (b : Blk) (n : Nat) : (irq s b n).wr = s.wr := by
  unfold irq irqI; split <;> rfl
@[simp] theorem irq_cmd (s : State) (b : Blk) (n : Nat) : (irq s b n).cmd = s.cmd := by
  unfold irq irqI; split <;> rfl
@[simp] theorem irq_tim (s : State) (b : Blk) (n : Nat) : (irq s b n).tim = s.tim := by
  unfold irq irqI; split <;> rfl
@[simp] theorem irq_ports (s : State) (b : Blk) (n : Nat) : (irq s b n).ports = s.ports := by
  unfold irq irqI; split <;> rfl
@[simp] theorem irq_swc (s : State) (b : Blk) (n : Nat) : (irq s b n).swc = s.swc := by
  unfold irq irqI; split <;> rfl
@[simp] theorem irq_svs (s : State) (b : Blk) (n : Nat) : (irq s b n).svs = s.svs := by
  unfold irq irqI; split <;> rfl
@[simp] theorem irq_acq (s : State) (b : Blk) (n : Nat) : (irq s b n).acq = s.acq := by
  unfold irq irqI; split <;> rfl
@[simp] theorem irq_phx (s : State) (b : Blk) (n : Nat) : (irq s b n).phx = s.phx := by
  unfold irq irqI; split <;> rfl
@[simp] theorem irq_nrg (s : State) (b : Blk) (n : Nat) : (irq s b n).nrg = s.nrg := by
  unfold irq irqI; split <;> rfl
@[simp] theorem irq_twv (s : State) (b : Blk) (n : Nat) : (irq s b n).twv = s.twv := by
  unfold irq irqI; split <;> rfl
@[simp] theorem irq_gge (s : State) (b : Blk) (n : Nat) : (irq s b n).gge = s.gge := by
  unfold irq irqI; split <;> rfl
@[simp] theorem irq_dec (s : State) (b : Blk) (n : Nat) : (irq s b n).dec = s.dec := by
  unfold irq irqI; split <;> rfl
@[simp] theorem irq_slc (s : State) (b : Blk) (n : Nat) : (irq s b n).slc = s.slc := by
  unfold irq irqI; split <;> rfl
@[simp] theorem irq_spn (s : State) (b : Blk) (n : Nat) : (irq s b n).spn = s.spn := by
  unfold irq irqI; split <;> rfl
@[simp] theorem irq_sfi (s : State) (b : Blk) (n : Nat) : (irq s b n).sfi = s.sfi := by
  unfold irq irqI; split <;> rfl
@[simp] theorem irq_rdn (s : State) (b : Blk) (n : Nat) : (irq s b n).rdn = s.rdn := by
  unfold irq irqI; split <;> rfl
@[simp] theorem irq_chk (s : State) (b : Blk) (n : Nat) : (irq s b n).chk = s.chk := by
  unfold irq irqI; split <;> rfl
@[simp] theorem irq_evr (s : State) (b : Blk) (n : Nat) : (irq s b n).evr = s.evr := by
  unfold irq irqI; split <;> rfl
@[simp] theorem irq_clk (s : State) (b : Blk) (n : Nat) : (irq s b n).clk = s.clk := by
  unfold irq irqI; split <;> rfl
@[simp] theorem irq_aon (s : State) (b : Blk) (n : Nat) : (irq s b n).aon = s.aon := by
  unfold irq irqI; split <;> rfl
@[simp] theorem irq_out (s : State) (b : Blk) (n : Nat) : (irq s b n).out = s.out := by
  unfold irq irqI; split <;> rfl
@[simp] theorem irq_pending (s : State) (b : Blk) (n : Nat) : (irq s b n).pending = s.pending := by
  unfold irq irqI; split <;> rfl

end Sys2Proof.Machine
end

