-- ==== Sys2Proof/Laws/Rows.lean ====
section
/-!
SUPPORT. Laws of the rows that are events: what a row answers in the terms of the statements, and what a record in the event log
leaves as it was.
-/

namespace Sys2Proof.Machine

/-- A row with everything that can follow from it. -/
theorem topRun_after (f : State → State) (s : State) : topRun f s = .next (after s (f s)) := by
  rw [topRun_eq, settled_const]; rfl

/-- A row from which only the pair and the gates can follow. -/
theorem runOn_gated (f : State → State) (s : State) : runOn (fun s => gated f s) s = .next (afterPair s (f s)) := by
  simp only [runOn_eq, afterPair, gated]

theorem isDown_of_up {s : State} {i : Island} (h : isUp s i = true) : isDown s i = false := by simpa [isUp] using h

theorem isDown_of_not_up {s : State} {i : Island} (h : isUp s i = false) : isDown s i = true := by simpa [isUp] using h

/-- Two states that differ in the event recorder, the registers and the bytes written in this step alone. -/
def logOnly (s t : State) : Prop := ∃ e r w, t = { s with evr := e, regs := r, wr := w }

theorem logOnly.refl (s : State) : logOnly s s := ⟨s.evr, s.regs, s.wr, rfl⟩

theorem logOnly.trans {s t u : State} (h : logOnly s t) (g : logOnly t u) : logOnly s u := by
  obtain ⟨e, r, w, rfl⟩ := h
  obtain ⟨e', r', w', rfl⟩ := g
  exact ⟨e', r', w', rfl⟩

theorem logOnly_evr (s : State) (e : Evr) : logOnly s { s with evr := e } := ⟨e, s.regs, s.wr, rfl⟩

theorem logOnly_setReg (s : State) (b : Blk) (i o v : Nat) : logOnly s (setReg s b i o v) := ⟨s.evr, _, s.wr, rfl⟩

theorem logOnly_cntBy (s : State) (b : Blk) (i o n : Nat) : logOnly s (cntBy s b i o n) := logOnly_setReg ..

theorem logOnly_cnt (s : State) (b : Blk) (i o : Nat) : logOnly s (cnt s b i o) := logOnly_cntBy ..

theorem logOnly_irqI (s : State) (b : Blk) (i n : Nat) : logOnly s (irqI s b i n) := by
  unfold irqI
  split
  · exact logOnly_setReg ..
  · exact logOnly.refl s

theorem logOnly_irq (s : State) (b : Blk) (n : Nat) : logOnly s (irq s b n) := logOnly_irqI ..

theorem logOnly_wrBytes (s : State) (a : Nat) (bs : List Byte) : logOnly s (wrBytes s a bs) := ⟨s.evr, s.regs, _, rfl⟩

theorem logOnly_evrWriteOut (s : State) : logOnly s (evrWriteOut s) := (logOnly_wrBytes ..).trans (logOnly_evr ..)

theorem logOnly_evrFlush (s : State) : logOnly s (evrFlush s) := by
  unfold evrFlush
  split
  · exact logOnly.refl s
  · exact (logOnly_evrWriteOut s).trans (logOnly_cnt ..)

theorem logOnly_evrPush (s : State) (t : Stamp) (r : EvRec) : logOnly s (evrPush s t r) := by
  unfold evrPush
  dsimp only
  split
  · exact ((logOnly_evr ..).trans (logOnly_evr ..)).trans (logOnly_irq ..)
  · exact logOnly_evr ..

theorem logOnly_evrAccept (s : State) (t : Stamp) (r : EvRec) : logOnly s (evrAccept s t r) := by
  unfold evrAccept
  dsimp only
  have h1 : ∀ u : State, logOnly s u → logOnly s (if s.evr.dropped > 0 ∧ s.evr.buf.length + 1 < evrBufMax ∧
      s.evr.count + 1 < evrMax then u else s) := by
    intro u hu
    split
    · exact hu
    · exact logOnly.refl s
  refine (h1 _ ((logOnly_evr s { s.evr with dropped := 0 }).trans (logOnly_evrPush _ t
    { code := 0x1412, sev := 1, inst := 0, a := 0, b := BitVec.ofNat 64 s.evr.dropped }))).trans ((logOnly_evrPush _ t r).trans ?_)
  generalize evrPush _ t r = u
  have h2 := (logOnly_evr u { u.evr with high := true }).trans (logOnly_irq _ .evr 1)
  split
  · split
    · exact h2.trans (logOnly_evrPush _ t _)
    · exact h2
  · exact logOnly.refl u

/-- An event record changes the recorder, registers and written bytes alone. -/
theorem logOnly_evtRec (s : State) (r : EvRec) : logOnly s (evtRec s r) := by
  unfold evtRec
  dsimp only
  split
  · exact logOnly_evr ..
  · split
    · exact logOnly_evr ..
    · split
      · exact ((logOnly_evr ..).trans (logOnly_cnt ..)).trans (logOnly_irq ..)
      · refine (logOnly_evrAccept s (nowStamp s) r).trans ?_
        split
        · exact logOnly_evrWriteOut _
        · split
          · exact logOnly_evrFlush _
          · exact logOnly.refl _

theorem logOnly_evt (s : State) (code sev inst a b : Nat) : logOnly s (evt s code sev inst a b) := logOnly_evtRec ..

/-- What such a change leaves as it was. -/
theorem logOnly.keeps {s t : State} (h : logOnly s t) :
    t.tim = s.tim ∧ t.cmd = s.cmd ∧ t.ports = s.ports ∧ t.swc = s.swc ∧ t.svs = s.svs ∧ t.acq = s.acq ∧ t.phx = s.phx ∧
      t.nrg = s.nrg ∧ t.twv = s.twv ∧ t.gge = s.gge ∧ t.dec = s.dec ∧ t.slc = s.slc ∧ t.spn = s.spn ∧ t.sfi = s.sfi ∧
      t.rdn = s.rdn ∧ t.chk = s.chk ∧ t.clk = s.clk ∧ t.aon = s.aon ∧ t.nv = s.nv ∧ t.fuse = s.fuse ∧ t.mem = s.mem ∧
      t.out = s.out ∧ t.pending = s.pending := by
  obtain ⟨e, r, w, rfl⟩ := h
  exact ⟨rfl, rfl, rfl, rfl, rfl, rfl, rfl, rfl, rfl, rfl, rfl, rfl, rfl, rfl, rfl, rfl, rfl, rfl, rfl, rfl, rfl, rfl, rfl⟩

/-- The copy of a slot written at manufacture carries the tag of its own content. -/
theorem made_tag (kind n : Nat) (v : List Byte) : ∀ k, (Slot.made kind n v).key = some k → k.tag = keyTag kind n k := by
  rintro k h
  cases h
  rfl

end Sys2Proof.Machine
end

