-- ==== Sys2Proof/Laws/Tables.lean ====
section
/-!
SUPPORT. Laws of the command registers of the tables: GO runs the operation on a state that differs in the command word and
PG_OWNER alone.
-/

namespace Sys2Proof.Machine

theorem testBit_getBits (v l w n : Nat) : (getBits v l w).testBit n = (decide (n < w) && v.testBit (l + n)) := by
  simp [getBits, Nat.testBit_mod_two_pow, Nat.testBit_div_two_pow, Nat.add_comm]

/-- A field keeps its bits when another one is set. -/
theorem getBits_setBits_ne (v a : Nat) {l w l' w' : Nat} (h : l + w ≤ l' ∨ l' + w' ≤ l) :
    getBits (setBits v l' w' a) l w = getBits v l w := by
  apply Nat.eq_of_testBit_eq
  intro n
  rw [testBit_getBits, testBit_getBits, testBit_setBits]
  by_cases hn : n < w
  · have : ¬ (l' ≤ l + n ∧ l + n < l' + w') := by omega
    simp [hn, this]
  · simp [hn]

/-- A field of the low word. -/
theorem getBits_mod (v : Nat) {l w k : Nat} (h : l + w ≤ k) : getBits (v % 2 ^ k) l w = getBits v l w := by
  apply Nat.eq_of_testBit_eq
  intro n
  rw [testBit_getBits, testBit_getBits, Nat.testBit_mod_two_pow]
  by_cases hn : n < w
  · have : l + n < k := by omega
    simp [hn, this]
  · simp [hn]

theorem sameBut_put {s : State} {r : List (Nat × Word)} {k1 k2 k : Nat} (v : Word) (h : sameBut s r k1 k2)
    (hk : k = k1 ∨ k = k2) : sameBut s (putK r k v) k1 k2 := by
  intro j h1 h2
  rw [findK_putK_ne, h j h1 h2]
  rcases hk with rfl | rfl <;> assumption

theorem sameBut_refl (s : State) (k1 k2 : Nat) : sameBut s s.regs k1 k2 := fun _ _ _ => rfl

theorem sameBut_reg {s : State} {r : List (Nat × Word)} {k1 k2 : Nat} (b : Blk) (i o : Nat) (h : sameBut s r k1 k2)
    (hb : bankSel b o = none) (h1 : b.base i + o ≠ k1) (h2 : b.base i + o ≠ k2) :
    reg { s with regs := r } b i o = reg s b i o := by
  simp only [reg, regKey, hb]
  rw [h _ h1 h2]

/-- A write that puts a word, PG_OWNER, and clears GO. -/
theorem sameBut_go {s : State} {q : Requester} {b : Blk} {i o : Nat} (w v : Nat) (h : bankSel b o = none)
    (h2 : bankSel b 0x2C = none) :
    ∃ r, setReg (wordPut s q b i o w) b i o v = { s with regs := r } ∧ sameBut s r (b.base i + o) (b.base i + 0x2C) := by
  refine ⟨_, rfl, ?_⟩
  have hk : ∀ x : State, regKey x b i o = b.base i + o := by intro x; simp [regKey, h]
  have hk2 : ∀ x : State, regKey x b i 0x2C = b.base i + 0x2C := by intro x; simp [regKey, h2]
  rw [hk]
  refine sameBut_put _ ?_ (Or.inl rfl)
  unfold wordPut
  rw [setReg_regs', hk2]
  refine sameBut_put _ ?_ (Or.inr rfl)
  rw [setReg_regs', hk]
  exact sameBut_put _ (sameBut_refl _ _ _) (Or.inl rfl)
where
  setReg_regs' {s : State} {b : Blk} {i o v : Nat} :
      (setReg s b i o v).regs = putK s.regs (regKey s b i o) (BitVec.ofNat 32 v) := rfl

/-! ### Words written by whole fields -/

/-- A field that a mask leaves out, or a plain field that it covers with a legal value. -/
def plainField (m v : Nat) (f : Fld) : Bool :=
  getBits m f.lsb f.w == 0 ||
    (f.acc == .rw && f.rng != .dyn && getBits (Nat.xor m 0xFFFFFFFF) f.lsb f.w == 0 &&
      clampVal f.w f.rng (getBits (Nat.land v m) f.lsb f.w) == getBits (Nat.land v m) f.lsb f.w)

/-- The word with the fields covered by the mask replaced. -/
def putFields (m v : Nat) (fs : List Fld) (w : Nat) : Nat :=
  fs.foldl (fun w f => if getBits m f.lsb f.w = 0 then w else setBits w f.lsb f.w (getBits (Nat.land v m) f.lsb f.w)) w

theorem fieldStep_plain {s : State} {b : Blk} {i o old m v : Nat} {lk : Bool} {f : Fld} (x : WordW)
    (h : plainField m v f = true) (hr : ∀ l a c, fieldRefused s b o l a c = false) (hk : fieldKept s b o = false)
    (ho : o ≠ 0x28) :
    fieldStep s b i o old m v lk x f =
      if getBits m f.lsb f.w = 0 then x
      else { x with new := setBits x.new f.lsb f.w (getBits (Nat.land v m) f.lsb f.w), any := true, wrote := true } := by
  by_cases h0 : getBits m f.lsb f.w = 0
  · simp [fieldStep, h0]
  · simp only [plainField, h0, Bool.or_eq_true, beq_iff_eq, Bool.and_eq_true, bne_iff_ne, ne_eq, false_or] at h
    obtain ⟨⟨⟨ha, hd⟩, hx⟩, hc⟩ := h
    have hw : f.writable = true := by simp [Fld.writable, ha]
    have hg : Nat.lor (Nat.land (getBits old f.lsb f.w) (getBits (Nat.xor m 0xFFFFFFFF) f.lsb f.w))
        (getBits (Nat.land v m) f.lsb f.w) = getBits (Nat.land v m) f.lsb f.w := by
      rw [hx]
      show (getBits old f.lsb f.w &&& 0) ||| _ = _
      simp
    have hrg : ∀ a c, rangeOf s b i o f a c = f.rng := by
      intro a c
      unfold rangeOf
      cases hrn : f.rng <;> simp_all
    unfold fieldStep
    simp only [hw, h0, hg, hr, hk, ha, hrg, hc, ho, if_false, Bool.not_true, Bool.false_or, decide_false,
      Bool.false_eq_true, reduceCtorEq, false_and, ne_eq, not_true, false_and]

theorem foldl_plain {s : State} {b : Blk} {i o old m v : Nat} {lk : Bool} (fs : List Fld) (x : WordW)
    (h : fs.all (plainField m v) = true) (hr : ∀ l a c, fieldRefused s b o l a c = false) (hk : fieldKept s b o = false)
    (ho : o ≠ 0x28) :
    fs.foldl (fieldStep s b i o old m v lk) x =
      { x with
        new := putFields m v fs x.new, any := x.any || fs.any (fun f => getBits m f.lsb f.w != 0),
        wrote := x.wrote || fs.any (fun f => getBits m f.lsb f.w != 0) } := by
  induction fs generalizing x with
  | nil => simp [putFields]
  | cons f fs ih =>
    simp only [List.all_cons, Bool.and_eq_true] at h
    rw [List.foldl_cons, fieldStep_plain x h.1 hr hk ho, ih _ h.2]
    by_cases h0 : getBits m f.lsb f.w = 0
    · simp [putFields, h0]
    · simp [putFields, h0]

/-- Fields apart from each other. -/
def apart (f g : Fld) : Prop := f.lsb + f.w ≤ g.lsb ∨ g.lsb + g.w ≤ f.lsb

theorem getBits_lt (v l w : Nat) : getBits v l w % 2 ^ w = getBits v l w := by simp [getBits]

theorem getBits_putFields_apart (m v : Nat) (f : Fld) (fs : List Fld) (h : ∀ g ∈ fs, apart f g) (w : Nat) :
    getBits (putFields m v fs w) f.lsb f.w = getBits w f.lsb f.w := by
  induction fs generalizing w with
  | nil => simp [putFields]
  | cons g fs ih =>
    have hg := h g (by simp)
    have ih' := ih (fun x hx => h x (by simp [hx]))
    by_cases h0 : getBits m g.lsb g.w = 0
    · have : putFields m v (g :: fs) w = putFields m v fs w := by simp [putFields, h0]
      rw [this, ih']
    · have : putFields m v (g :: fs) w = putFields m v fs (setBits w g.lsb g.w (getBits (Nat.land v m) g.lsb g.w)) := by
        simp [putFields, h0]
      rw [this, ih', getBits_setBits_ne _ _ hg]

/-- Each field that the mask covers reads as it was written. -/
theorem getBits_putFields (m v : Nat) (f : Fld) (fs : List Fld) (hf : f ∈ fs) (hp : fs.Pairwise apart)
    (h : getBits m f.lsb f.w ≠ 0) (w : Nat) :
    getBits (putFields m v fs w) f.lsb f.w = getBits (Nat.land v m) f.lsb f.w := by
  induction fs generalizing w with
  | nil => simp at hf
  | cons g fs ih =>
    rw [List.pairwise_cons] at hp
    by_cases hg : f = g
    · subst hg
      have : putFields m v (f :: fs) w = putFields m v fs (setBits w f.lsb f.w (getBits (Nat.land v m) f.lsb f.w)) := by
        simp [putFields, h]
      rw [this, getBits_putFields_apart _ _ _ _ hp.1, getBits_setBits_same, getBits_lt]
    · have hf' : f ∈ fs := by simpa [hg] using hf
      by_cases h0 : getBits m g.lsb g.w = 0
      · have : putFields m v (g :: fs) w = putFields m v fs w := by simp [putFields, h0]
        rw [this, ih hf' hp.2]
      · have : putFields m v (g :: fs) w =
            putFields m v fs (setBits w g.lsb g.w (getBits (Nat.land v m) g.lsb g.w)) := by simp [putFields, h0]
        rw [this, ih hf' hp.2]

/-- The word in place after PG_OWNER was written. -/
theorem reg_wordPut (s : State) (q : Requester) (b : Blk) (i o w : Nat) (h : bankSel b o = none)
    (h2 : bankSel b 0x2C = none) (ho : o ≠ 0x2C) : reg (wordPut s q b i o w) b i o = w % 2 ^ 32 := by
  have hk : ∀ x : State, regKey x b i o = b.base i + o := by intro x; simp [regKey, h]
  have hk2 : ∀ x : State, regKey x b i 0x2C = b.base i + 0x2C := by intro x; simp [regKey, h2]
  unfold wordPut
  rw [reg_setReg_ne, reg_setReg_same _ _ _ _ _ h]
  · rw [hk, hk2]; omega
  · rw [hk, hk]

/-- GO of a table's command register, with the bits of the word that runs. -/
theorem tableGo_eq (s : State) (q : Requester) (b : Blk) (o w ones : Nat) (busy : Bool) (op : State → State)
    (h : bankSel b o = none) (h2 : bankSel b 0x2C = none) (hb : busy = false) (h1 : bit ones 31 = true) :
    ∃ r, tableGo (wordPut s q b 0 o w) b o ones busy op = op { s with regs := r } ∧
      sameBut s r (b.base 0 + o) (b.base 0 + 0x2C) := by
  obtain ⟨r, hr, hs⟩ := sameBut_go (s := s) (q := q) (i := 0) w (setBits (reg (wordPut s q b 0 o w) b 0 o) 31 1 0) h h2
  refine ⟨r, ?_, hs⟩
  simp only [tableGo, setFld, hr, h1, hb, Bool.not_false, Bool.and_self, if_true]

/-- A write whose mask covers whole plain fields with legal values: nothing is clamped, locked or refused. -/
theorem wordStep_plain {s : State} {b : Blk} {i o m v : Nat} {fs : List Fld} (hf : fieldsAt s b o = fs)
    (h : fs.all (plainField m v) = true) (ha : fs.any (fun f => getBits m f.lsb f.w != 0) = true)
    (hr : ∀ l a c, fieldRefused s b o l a c = false) (hk : fieldKept s b o = false) (ho : o ≠ 0x28) (hg : b ≠ .gge) :
    ∃ w, wordStep s b i o m v =
      { new := putFields m v fs w, clamps := [], locks := [], any := true, wrote := true, same := false, refused := false } := by
  have hc : ∀ x, condMask s b o m x = m := fun x => by simp [condMask, hg]
  unfold wordStep
  simp only [hf, hc, if_true]
  rw [foldl_plain fs _ h hr hk ho]
  simp only [ha, Bool.false_or, Bool.true_or]
  exact ⟨_, rfl⟩

/-- The same at the bus. -/
theorem busWrite_plain {s : State} {q : Requester} {b : Blk} {i o m v : Nat} {fs : List Fld}
    (hacc : accessible s q b i o = true) (hb : b ≠ .acq) (hf : fieldsAt s b o = fs)
    (h : fs.all (plainField m v) = true) (ha : fs.any (fun f => getBits m f.lsb f.w != 0) = true)
    (hr : ∀ l a c, fieldRefused s b o l a c = false) (hk : fieldKept s b o = false) (ho : o ≠ 0x28)
    (hwo : ((fieldsOf b o).any fun f => f.acc == .wo) = false) (hg : b ≠ .gge) :
    ∃ w, pageWrite s q b i o m v =
      (afterWrite (wordPut s q b i o (putFields m v fs w)) b i o ((statusWord s b i o).getD (reg s b i o)) m
          (Nat.land v m)).1 := by
  obtain ⟨w, hw⟩ := wordStep_plain (i := i) hf h ha hr hk ho hg
  refine ⟨w, ?_⟩
  have := busWrite_eq m v hacc hb (by rw [hw]) (by rw [hw]) (by rw [hw]) hwo
  rw [pageWrite_eq m v (accessible_arrives hacc) (accessible_reaches hacc) this.2, this.1, hw]

/-! ### The tables -/

theorem fdb_fields : fieldsOf .swc 0x10C =
    [f1 0x10C 0 3 .rw 0 (.en [1, 2, 3, 4, 5, 6] 3), f1 0x10C 8 7 .rw 0 (.u 0 0x43 1), f1 0x10C 31 1 .rw 0 .all] := by rfl

theorem fieldsAt_eq (s : State) (b : Blk) (o : Nat) (h : ¬ (b = .svs ∧ (o = 0x9C ∨ o = 0xA0))) :
    fieldsAt s b o = fieldsOf b o := by
  unfold fieldsAt
  have h1 : ¬ (b = .svs ∧ o = 0x9C ∧ fld s .svs 0x80 0 12 < 512) := fun e => h ⟨e.1, Or.inl e.2.1⟩
  have h2 : ¬ (b = .svs ∧ o = 0xA0 ∧ fld s .svs 0x80 0 12 < 512) := fun e => h ⟨e.1, Or.inr e.2.1⟩
  simp only [h1, h2, if_false, List.map_id']

theorem fdb_values : ∀ op, op ≤ 6 → ∀ arg, arg ≤ 0x43 → 1 ≤ op →
    (fieldsOf .swc 0x10C).all (plainField 0x80007F07 (0x80000000 + arg * 256 + op)) = true ∧
      getBits (Nat.land (0x80000000 + arg * 256 + op) 0x80007F07) 0 3 = op ∧
      getBits (Nat.land (0x80000000 + arg * 256 + op) 0x80007F07) 8 7 = arg ∧
      bit (Nat.land (0x80000000 + arg * 256 + op) 0x80007F07) 31 = true := by decide +kernel

theorem fdb_bits (v w : Nat) :
    getBits (putFields 0x80007F07 v (fieldsOf .swc 0x10C) w % 2 ^ 32) 0 3 = getBits (Nat.land v 0x80007F07) 0 3 ∧
      getBits (putFields 0x80007F07 v (fieldsOf .swc 0x10C) w % 2 ^ 32) 8 7 = getBits (Nat.land v 0x80007F07) 8 7 := by
  have hp : (fieldsOf .swc 0x10C).Pairwise apart := by
    rw [fdb_fields]; simp [apart, f1]
  rw [getBits_mod _ (by decide), getBits_mod _ (by decide)]
  exact ⟨getBits_putFields _ _ (f1 0x10C 0 3 .rw 0 (.en [1, 2, 3, 4, 5, 6] 3)) _ (by rw [fdb_fields]; simp) hp (by decide) _,
    getBits_putFields _ _ (f1 0x10C 8 7 .rw 0 (.u 0 0x43 1)) _ (by rw [fdb_fields]; simp) hp (by decide) _⟩

/-- SWC_FDB_CMD with GO runs its operation. -/
theorem fdbCmd_eq {s : State} {q : Requester} (op arg : Nat) (ho : 1 ≤ op ∧ op ≤ 6) (hg : arg ≤ 0x43)
    (h : accessible s q .swc 0 0x10C = true) (hb : s.swc.fdbBusy = false) :
    ∃ r, fdbCmd s q op arg = fdbOp { s with regs := r } op arg ∧
      sameBut s r (Blk.base .swc 0 + 0x10C) (Blk.base .swc 0 + 0x2C) := by
  obtain ⟨h1, h2, h3, h4⟩ := fdb_values op ho.2 arg hg ho.1
  have ha : (fieldsOf .swc 0x10C).any (fun f => getBits 0x80007F07 f.lsb f.w != 0) = true := by decide +kernel
  have hk : fieldKept s .swc 0x10C = false := by simp [fieldKept, hb]
  have hr : ∀ l a c, fieldRefused s .swc 0x10C l a c = false := fun _ _ _ => rfl
  unfold fdbCmd
  generalize 0x80000000 + arg * 256 + op = v at *
  obtain ⟨w, hw⟩ := busWrite_plain (q := q) (i := 0) h (by decide) (fieldsAt_eq s .swc 0x10C (by decide)) h1 ha hr hk
    (by decide) (by decide +kernel) (by decide)
  rw [hw]
  have hbits := fdb_bits v w
  generalize putFields 0x80007F07 v (fieldsOf .swc 0x10C) w = W at hbits
  rw [h2, h3] at hbits
  generalize Nat.land v 0x80007F07 = ones at *
  have hW := reg_wordPut s q .swc 0 0x10C W rfl rfl (by decide)
  obtain ⟨r, e1, e2⟩ := tableGo_eq s q .swc 0x10C W ones s.swc.fdbBusy (fun s => fdbOp s op arg) rfl rfl hb h4
  refine ⟨r, ?_, e2⟩
  rw [← e1]
  generalize (statusWord s .swc 0 0x10C).getD (reg s .swc 0 0x10C) = old
  show (swcWritten (wordPut s q .swc 0 0x10C W) 0x10C old ones) = _
  unfold swcWritten
  rw [hW]
  dsimp only
  rw [hbits.1, hbits.2, if_neg (by decide), if_pos rfl]
  rfl

/-- The word of a table command of two fields. -/
theorem table_write {s : State} {q : Requester} {b : Blk} {o op : Nat} {g : Rng} (hb : b ≠ .acq) (hgge : b ≠ .gge)
    (h : accessible s q b 0 o = true)
    (hf : fieldsOf b o = [f1 o 0 2 .rw 0 g, f1 o 31 1 .rw 0 .all]) (hsv : ¬ (b = .svs ∧ (o = 0x9C ∨ o = 0xA0)))
    (hr : ∀ l a c, fieldRefused s b o l a c = false) (hk : fieldKept s b o = false) (ho : o ≠ 0x28) (ho' : o ≠ 0x2C)
    (hbk : bankSel b o = none) (hbk2 : bankSel b 0x2C = none)
    (hv : [f1 o 0 2 .rw 0 g, f1 o 31 1 .rw 0 .all].all (plainField 0x80000003 (0x80000000 + op)) = true)
    (h2 : getBits (Nat.land (0x80000000 + op) 0x80000003) 0 2 = op) :
    ∃ W, tableCmd s q b o op =
        (afterWrite (wordPut s q b 0 o W) b 0 o ((statusWord s b 0 o).getD (reg s b 0 o)) 0x80000003
          (Nat.land (0x80000000 + op) 0x80000003)).1 ∧
      getBits (reg (wordPut s q b 0 o W) b 0 o) 0 2 = op := by
  have ha : (fieldsOf b o).any (fun f => getBits 0x80000003 f.lsb f.w != 0) = true := by
    rw [hf]
    have : getBits 0x80000003 31 1 ≠ 0 := by decide
    simp [f1, this]
  have h0 : getBits 0x80000003 (f1 o 0 2 .rw 0 g).lsb (f1 o 0 2 .rw 0 g).w ≠ 0 := by
    show getBits 0x80000003 0 2 ≠ 0
    decide
  have hp : (fieldsOf b o).Pairwise apart := by
    rw [hf]; simp [apart, f1]
  have hwo : ((fieldsOf b o).any fun f => f.acc == .wo) = false := by
    rw [hf]; simp [f1]
  rw [← hf] at hv
  unfold tableCmd
  generalize 0x80000000 + op = v at *
  obtain ⟨w, hw⟩ := busWrite_plain (q := q) (i := 0) h hb (fieldsAt_eq s b o hsv) hv ha hr hk ho hwo hgge
  refine ⟨_, hw, ?_⟩
  rw [reg_wordPut _ _ _ _ _ _ hbk hbk2 ho', getBits_mod _ (by decide), ← h2]
  exact getBits_putFields _ _ (f1 o 0 2 .rw 0 g) _ (by rw [hf]; simp) hp h0 _

/-- SWC_CLS_CMD with GO runs its operation. -/
theorem clsCmd_eq {s : State} {q : Requester} (op : Nat) (ho : 1 ≤ op ∧ op ≤ 3) (h : accessible s q .swc 0 0x160 = true)
    (hb : s.swc.clsBusy = false) :
    ∃ r, tableCmd s q .swc 0x160 op = clsOp { s with regs := r } op ∧
      sameBut s r (Blk.base .swc 0 + 0x160) (Blk.base .swc 0 + 0x2C) := by
  have hx : ∀ op, op ≤ 3 → 1 ≤ op → [f1 0x160 0 2 .rw 0 (.en [1, 2, 3] 2), f1 0x160 31 1 .rw 0 .all].all
      (plainField 0x80000003 (0x80000000 + op)) = true ∧ getBits (Nat.land (0x80000000 + op) 0x80000003) 0 2 = op ∧
        bit (Nat.land (0x80000000 + op) 0x80000003) 31 = true := by decide +kernel
  obtain ⟨h1, h2, h4⟩ := hx op ho.2 ho.1
  obtain ⟨W, e, hW⟩ := table_write (q := q) (g := .en [1, 2, 3] 2) (by decide) (by decide) h (by rfl) (by decide) (fun _ _ _ => rfl)
    (by simp [fieldKept]) (by decide) (by decide) rfl rfl h1 h2
  rw [e]
  generalize Nat.land (0x80000000 + op) 0x80000003 = ones at *
  obtain ⟨r, e1, e2⟩ := tableGo_eq s q .swc 0x160 W ones s.swc.clsBusy (fun s => clsOp s op) rfl rfl hb h4
  refine ⟨r, ?_, e2⟩
  rw [← e1]
  generalize (statusWord s .swc 0 0x160).getD (reg s .swc 0 0x160) = old
  show (swcWritten (wordPut s q .swc 0 0x160 W) 0x160 old ones) = _
  unfold swcWritten
  dsimp only
  rw [hW, if_neg (by decide), if_neg (by decide), if_pos rfl]
  rfl

/-- SWC_GRP_CMD with GO runs its operation. -/
theorem grpCmd_eq {s : State} {q : Requester} (op : Nat) (ho : 1 ≤ op ∧ op ≤ 2) (h : accessible s q .swc 0 0x190 = true)
    (hb : s.swc.grpBusy = false) :
    ∃ r, tableCmd s q .swc 0x190 op = grpOp { s with regs := r } op ∧
      sameBut s r (Blk.base .swc 0 + 0x190) (Blk.base .swc 0 + 0x2C) := by
  have hx : ∀ op, op ≤ 2 → 1 ≤ op → [f1 0x190 0 2 .rw 0 (.en [1, 2] 2), f1 0x190 31 1 .rw 0 .all].all
      (plainField 0x80000003 (0x80000000 + op)) = true ∧ getBits (Nat.land (0x80000000 + op) 0x80000003) 0 2 = op ∧
        bit (Nat.land (0x80000000 + op) 0x80000003) 31 = true := by decide +kernel
  obtain ⟨h1, h2, h4⟩ := hx op ho.2 ho.1
  obtain ⟨W, e, hW⟩ := table_write (q := q) (g := .en [1, 2] 2) (by decide) (by decide) h (by rfl) (by decide) (fun _ _ _ => rfl)
    (by simp [fieldKept]) (by decide) (by decide) rfl rfl h1 h2
  rw [e]
  generalize Nat.land (0x80000000 + op) 0x80000003 = ones at *
  obtain ⟨r, e1, e2⟩ := tableGo_eq s q .swc 0x190 W ones s.swc.grpBusy (fun s => grpOp s op) rfl rfl hb h4
  refine ⟨r, ?_, e2⟩
  rw [← e1]
  generalize (statusWord s .swc 0 0x190).getD (reg s .swc 0 0x190) = old
  show (swcWritten (wordPut s q .swc 0 0x190 W) 0x190 old ones) = _
  unfold swcWritten
  dsimp only
  rw [hW, if_neg (by decide), if_neg (by decide), if_neg (by decide), if_pos rfl]
  rfl

/-- SVS_SUB_CMD with GO runs its operation. -/
theorem subCmd_eq {s : State} {q : Requester} (op : Nat) (ho : 1 ≤ op ∧ op ≤ 3) (h : accessible s q .svs 0 0xA4 = true) :
    ∃ r, tableCmd s q .svs 0xA4 op = subOp { s with regs := r } op ∧
      sameBut s r (Blk.base .svs 0 + 0xA4) (Blk.base .svs 0 + 0x2C) := by
  have hx : ∀ op, op ≤ 3 → 1 ≤ op → [f1 0xA4 0 2 .rw 0 (.en [1, 2, 3] 2), f1 0xA4 31 1 .rw 0 .all].all
      (plainField 0x80000003 (0x80000000 + op)) = true ∧ getBits (Nat.land (0x80000000 + op) 0x80000003) 0 2 = op ∧
        bit (Nat.land (0x80000000 + op) 0x80000003) 31 = true := by decide +kernel
  obtain ⟨h1, h2, h4⟩ := hx op ho.2 ho.1
  obtain ⟨W, e, hW⟩ := table_write (q := q) (g := .en [1, 2, 3] 2) (by decide) (by decide) h (by rfl) (by decide) (fun _ _ _ => rfl)
    (by simp [fieldKept]) (by decide) (by decide) rfl rfl h1 h2
  rw [e]
  generalize Nat.land (0x80000000 + op) 0x80000003 = ones at *
  obtain ⟨r, e1, e2⟩ := tableGo_eq s q .svs 0xA4 W ones false (fun s => subOp s op) rfl rfl rfl h4
  refine ⟨r, ?_, e2⟩
  rw [← e1]
  generalize 0x80000003 = m
  show (svsWritten (wordPut s q .svs 0 0xA4 W) 0xA4 m ones) = _
  unfold svsWritten
  dsimp only
  rw [hW, if_pos rfl]

/-- PHX_GRP_CMD with GO runs its operation. -/
theorem phxCmd_eq {s : State} {q : Requester} (op : Nat) (ho : 1 ≤ op ∧ op ≤ 3) (h : accessible s q .phx 0 0x190 = true)
    (hb : s.phx.grpBusy = false) :
    ∃ r, tableCmd s q .phx 0x190 op = mtCheckAll (phxGrpOp { s with regs := r } op) ∧
      sameBut s r (Blk.base .phx 0 + 0x190) (Blk.base .phx 0 + 0x2C) := by
  have hx : ∀ op, op ≤ 3 → 1 ≤ op → [f1 0x190 0 2 .rw 0 (.en [1, 2, 3] 2), f1 0x190 31 1 .rw 0 .all].all
      (plainField 0x80000003 (0x80000000 + op)) = true ∧ getBits (Nat.land (0x80000000 + op) 0x80000003) 0 2 = op ∧
        bit (Nat.land (0x80000000 + op) 0x80000003) 31 = true := by decide +kernel
  obtain ⟨h1, h2, h4⟩ := hx op ho.2 ho.1
  obtain ⟨W, e, hW⟩ := table_write (q := q) (g := .en [1, 2, 3] 2) (by decide) (by decide) h (by rfl) (by decide) (fun _ _ _ => rfl)
    (by simp [fieldKept]) (by decide) (by decide) rfl rfl h1 h2
  rw [e]
  generalize Nat.land (0x80000000 + op) 0x80000003 = ones at *
  obtain ⟨r, e1, e2⟩ := tableGo_eq s q .phx 0x190 W ones s.phx.grpBusy (fun s => mtCheckAll (phxGrpOp s op)) rfl rfl hb h4
  refine ⟨r, ?_, e2⟩
  rw [← e1]
  generalize (statusWord s .phx 0 0x190).getD (reg s .phx 0 0x190) = old
  generalize 0x80000003 = m
  have hx : ∀ x : State, (afterWrite x .phx 0 0x190 old m ones).1 = tableGo x .phx 0x190 ones x.phx.grpBusy
      fun s => mtCheckAll (phxGrpOp s (getBits (reg x .phx 0 0x190) 0 2)) := by
    intro x
    simp [afterWrite]
  rw [hx, hW]
  rfl

end Sys2Proof.Machine
end

