-- ==== Sys2Proof/Laws/Updates.lean ====
section
/-!
SUPPORT. The tables of the units' channels, subscriptions, meters and lines: an entry reads as it was last written, every other
one as before, and no other field changes.
-/

namespace Sys2Proof.Machine

@[simp] theorem setAc_fuse (s : State) (c : Nat) (x : AcqCh) : (setAc s c x).fuse = s.fuse := rfl
@[simp] theorem setAc_nv (s : State) (c : Nat) (x : AcqCh) : (setAc s c x).nv = s.nv := rfl
@[simp] theorem setAc_mem (s : State) (c : Nat) (x : AcqCh) : (setAc s c x).mem = s.mem := rfl
@[simp] theorem setAc_wr (s : State) (c : Nat) (x : AcqCh) : (setAc s c x).wr = s.wr := rfl
@[simp] theorem setAc_regs (s : State) (c : Nat) (x : AcqCh) : (setAc s c x).regs = s.regs := rfl
@[simp] theorem setAc_latch (s : State) (c : Nat) (x : AcqCh) : (setAc s c x).latch = s.latch := rfl
@[simp] theorem setAc_drops (s : State) (c : Nat) (x : AcqCh) : (setAc s c x).drops = s.drops := rfl
@[simp] theorem setAc_cmd (s : State) (c : Nat) (x : AcqCh) : (setAc s c x).cmd = s.cmd := rfl
@[simp] theorem setAc_tim (s : State) (c : Nat) (x : AcqCh) : (setAc s c x).tim = s.tim := rfl
@[simp] theorem setAc_ports (s : State) (c : Nat) (x : AcqCh) : (setAc s c x).ports = s.ports := rfl
@[simp] theorem setAc_swc (s : State) (c : Nat) (x : AcqCh) : (setAc s c x).swc = s.swc := rfl
@[simp] theorem setAc_svs (s : State) (c : Nat) (x : AcqCh) : (setAc s c x).svs = s.svs := rfl
@[simp] theorem setAc_phx (s : State) (c : Nat) (x : AcqCh) : (setAc s c x).phx = s.phx := rfl
@[simp] theorem setAc_nrg (s : State) (c : Nat) (x : AcqCh) : (setAc s c x).nrg = s.nrg := rfl
@[simp] theorem setAc_twv (s : State) (c : Nat) (x : AcqCh) : (setAc s c x).twv = s.twv := rfl
@[simp] theorem setAc_gge (s : State) (c : Nat) (x : AcqCh) : (setAc s c x).gge = s.gge := rfl
@[simp] theorem setAc_dec (s : State) (c : Nat) (x : AcqCh) : (setAc s c x).dec = s.dec := rfl
@[simp] theorem setAc_slc (s : State) (c : Nat) (x : AcqCh) : (setAc s c x).slc = s.slc := rfl
@[simp] theorem setAc_spn (s : State) (c : Nat) (x : AcqCh) : (setAc s c x).spn = s.spn := rfl
@[simp] theorem setAc_sfi (s : State) (c : Nat) (x : AcqCh) : (setAc s c x).sfi = s.sfi := rfl
@[simp] theorem setAc_rdn (s : State) (c : Nat) (x : AcqCh) : (setAc s c x).rdn = s.rdn := rfl
@[simp] theorem setAc_chk (s : State) (c : Nat) (x : AcqCh) : (setAc s c x).chk = s.chk := rfl
@[simp] theorem setAc_evr (s : State) (c : Nat) (x : AcqCh) : (setAc s c x).evr = s.evr := rfl
@[simp] theorem setAc_clk (s : State) (c : Nat) (x : AcqCh) : (setAc s c x).clk = s.clk := rfl
@[simp] theorem setAc_aon (s : State) (c : Nat) (x : AcqCh) : (setAc s c x).aon = s.aon := rfl
@[simp] theorem setAc_out (s : State) (c : Nat) (x : AcqCh) : (setAc s c x).out = s.out := rfl
@[simp] theorem setAc_pending (s : State) (c : Nat) (x : AcqCh) : (setAc s c x).pending = s.pending := rfl
@[simp] theorem acOf_setAc (s : State) (c : Nat) (x : AcqCh) : acOf (setAc s c x) c = x := by
  simp only [acOf, setAc, findK_putK_same, Option.getD_some]
theorem acOf_setAc_ne (s : State) (c : Nat) (x : AcqCh) {j : Nat} (h : j ≠ c) : acOf (setAc s c x) j = acOf s j := by
  simp only [acOf, setAc, findK_putK_ne _ _ h]

@[simp] theorem setMt_fuse (s : State) (m : Nat) (x : Meter) : (setMt s m x).fuse = s.fuse := rfl
@[simp] theorem setMt_nv (s : State) (m : Nat) (x : Meter) : (setMt s m x).nv = s.nv := rfl
@[simp] theorem setMt_mem (s : State) (m : Nat) (x : Meter) : (setMt s m x).mem = s.mem := rfl
@[simp] theorem setMt_wr (s : State) (m : Nat) (x : Meter) : (setMt s m x).wr = s.wr := rfl
@[simp] theorem setMt_regs (s : State) (m : Nat) (x : Meter) : (setMt s m x).regs = s.regs := rfl
@[simp] theorem setMt_latch (s : State) (m : Nat) (x : Meter) : (setMt s m x).latch = s.latch := rfl
@[simp] theorem setMt_drops (s : State) (m : Nat) (x : Meter) : (setMt s m x).drops = s.drops := rfl
@[simp] theorem setMt_cmd (s : State) (m : Nat) (x : Meter) : (setMt s m x).cmd = s.cmd := rfl
@[simp] theorem setMt_tim (s : State) (m : Nat) (x : Meter) : (setMt s m x).tim = s.tim := rfl
@[simp] theorem setMt_ports (s : State) (m : Nat) (x : Meter) : (setMt s m x).ports = s.ports := rfl
@[simp] theorem setMt_swc (s : State) (m : Nat) (x : Meter) : (setMt s m x).swc = s.swc := rfl
@[simp] theorem setMt_svs (s : State) (m : Nat) (x : Meter) : (setMt s m x).svs = s.svs := rfl
@[simp] theorem setMt_acq (s : State) (m : Nat) (x : Meter) : (setMt s m x).acq = s.acq := rfl
@[simp] theorem setMt_phx (s : State) (m : Nat) (x : Meter) : (setMt s m x).phx = s.phx := rfl
@[simp] theorem setMt_twv (s : State) (m : Nat) (x : Meter) : (setMt s m x).twv = s.twv := rfl
@[simp] theorem setMt_gge (s : State) (m : Nat) (x : Meter) : (setMt s m x).gge = s.gge := rfl
@[simp] theorem setMt_dec (s : State) (m : Nat) (x : Meter) : (setMt s m x).dec = s.dec := rfl
@[simp] theorem setMt_slc (s : State) (m : Nat) (x : Meter) : (setMt s m x).slc = s.slc := rfl
@[simp] theorem setMt_spn (s : State) (m : Nat) (x : Meter) : (setMt s m x).spn = s.spn := rfl
@[simp] theorem setMt_sfi (s : State) (m : Nat) (x : Meter) : (setMt s m x).sfi = s.sfi := rfl
@[simp] theorem setMt_rdn (s : State) (m : Nat) (x : Meter) : (setMt s m x).rdn = s.rdn := rfl
@[simp] theorem setMt_chk (s : State) (m : Nat) (x : Meter) : (setMt s m x).chk = s.chk := rfl
@[simp] theorem setMt_evr (s : State) (m : Nat) (x : Meter) : (setMt s m x).evr = s.evr := rfl
@[simp] theorem setMt_clk (s : State) (m : Nat) (x : Meter) : (setMt s m x).clk = s.clk := rfl
@[simp] theorem setMt_aon (s : State) (m : Nat) (x : Meter) : (setMt s m x).aon = s.aon := rfl
@[simp] theorem setMt_out (s : State) (m : Nat) (x : Meter) : (setMt s m x).out = s.out := rfl
@[simp] theorem setMt_pending (s : State) (m : Nat) (x : Meter) : (setMt s m x).pending = s.pending := rfl
@[simp] theorem mtOf_setMt (s : State) (m : Nat) (x : Meter) : mtOf (setMt s m x) m = x := by
  simp only [mtOf, setMt, findK_putK_same, Option.getD_some]
theorem mtOf_setMt_ne (s : State) (m : Nat) (x : Meter) {j : Nat} (h : j ≠ m) : mtOf (setMt s m x) j = mtOf s j := by
  simp only [mtOf, setMt, findK_putK_ne _ _ h]

@[simp] theorem setTw_fuse (s : State) (c : Nat) (x : TwCh) : (setTw s c x).fuse = s.fuse := rfl
@[simp] theorem setTw_nv (s : State) (c : Nat) (x : TwCh) : (setTw s c x).nv = s.nv := rfl
@[simp] theorem setTw_mem (s : State) (c : Nat) (x : TwCh) : (setTw s c x).mem = s.mem := rfl
@[simp] theorem setTw_wr (s : State) (c : Nat) (x : TwCh) : (setTw s c x).wr = s.wr := rfl
@[simp] theorem setTw_regs (s : State) (c : Nat) (x : TwCh) : (setTw s c x).regs = s.regs := rfl
@[simp] theorem setTw_latch (s : State) (c : Nat) (x : TwCh) : (setTw s c x).latch = s.latch := rfl
@[simp] theorem setTw_drops (s : State) (c : Nat) (x : TwCh) : (setTw s c x).drops = s.drops := rfl
@[simp] theorem setTw_cmd (s : State) (c : Nat) (x : TwCh) : (setTw s c x).cmd = s.cmd := rfl
@[simp] theorem setTw_tim (s : State) (c : Nat) (x : TwCh) : (setTw s c x).tim = s.tim := rfl
@[simp] theorem setTw_ports (s : State) (c : Nat) (x : TwCh) : (setTw s c x).ports = s.ports := rfl
@[simp] theorem setTw_swc (s : State) (c : Nat) (x : TwCh) : (setTw s c x).swc = s.swc := rfl
@[simp] theorem setTw_svs (s : State) (c : Nat) (x : TwCh) : (setTw s c x).svs = s.svs := rfl
@[simp] theorem setTw_acq (s : State) (c : Nat) (x : TwCh) : (setTw s c x).acq = s.acq := rfl
@[simp] theorem setTw_phx (s : State) (c : Nat) (x : TwCh) : (setTw s c x).phx = s.phx := rfl
@[simp] theorem setTw_nrg (s : State) (c : Nat) (x : TwCh) : (setTw s c x).nrg = s.nrg := rfl
@[simp] theorem setTw_gge (s : State) (c : Nat) (x : TwCh) : (setTw s c x).gge = s.gge := rfl
@[simp] theorem setTw_dec (s : State) (c : Nat) (x : TwCh) : (setTw s c x).dec = s.dec := rfl
@[simp] theorem setTw_slc (s : State) (c : Nat) (x : TwCh) : (setTw s c x).slc = s.slc := rfl
@[simp] theorem setTw_spn (s : State) (c : Nat) (x : TwCh) : (setTw s c x).spn = s.spn := rfl
@[simp] theorem setTw_sfi (s : State) (c : Nat) (x : TwCh) : (setTw s c x).sfi = s.sfi := rfl
@[simp] theorem setTw_rdn (s : State) (c : Nat) (x : TwCh) : (setTw s c x).rdn = s.rdn := rfl
@[simp] theorem setTw_chk (s : State) (c : Nat) (x : TwCh) : (setTw s c x).chk = s.chk := rfl
@[simp] theorem setTw_evr (s : State) (c : Nat) (x : TwCh) : (setTw s c x).evr = s.evr := rfl
@[simp] theorem setTw_clk (s : State) (c : Nat) (x : TwCh) : (setTw s c x).clk = s.clk := rfl
@[simp] theorem setTw_aon (s : State) (c : Nat) (x : TwCh) : (setTw s c x).aon = s.aon := rfl
@[simp] theorem setTw_out (s : State) (c : Nat) (x : TwCh) : (setTw s c x).out = s.out := rfl
@[simp] theorem setTw_pending (s : State) (c : Nat) (x : TwCh) : (setTw s c x).pending = s.pending := rfl
@[simp] theorem twOf_setTw (s : State) (c : Nat) (x : TwCh) : twOf (setTw s c x) c = x := by
  simp only [twOf, setTw, findK_putK_same, Option.getD_some]
theorem twOf_setTw_ne (s : State) (c : Nat) (x : TwCh) {j : Nat} (h : j ≠ c) : twOf (setTw s c x) j = twOf s j := by
  simp only [twOf, setTw, findK_putK_ne _ _ h]

@[simp] theorem setLn_fuse (s : State) (n : Nat) (x : TwLine) : (setLn s n x).fuse = s.fuse := rfl
@[simp] theorem setLn_nv (s : State) (n : Nat) (x : TwLine) : (setLn s n x).nv = s.nv := rfl
@[simp] theorem setLn_mem (s : State) (n : Nat) (x : TwLine) : (setLn s n x).mem = s.mem := rfl
@[simp] theorem setLn_wr (s : State) (n : Nat) (x : TwLine) : (setLn s n x).wr = s.wr := rfl
@[simp] theorem setLn_regs (s : State) (n : Nat) (x : TwLine) : (setLn s n x).regs = s.regs := rfl
@[simp] theorem setLn_latch (s : State) (n : Nat) (x : TwLine) : (setLn s n x).latch = s.latch := rfl
@[simp] theorem setLn_drops (s : State) (n : Nat) (x : TwLine) : (setLn s n x).drops = s.drops := rfl
@[simp] theorem setLn_cmd (s : State) (n : Nat) (x : TwLine) : (setLn s n x).cmd = s.cmd := rfl
@[simp] theorem setLn_tim (s : State) (n : Nat) (x : TwLine) : (setLn s n x).tim = s.tim := rfl
@[simp] theorem setLn_ports (s : State) (n : Nat) (x : TwLine) : (setLn s n x).ports = s.ports := rfl
@[simp] theorem setLn_swc (s : State) (n : Nat) (x : TwLine) : (setLn s n x).swc = s.swc := rfl
@[simp] theorem setLn_svs (s : State) (n : Nat) (x : TwLine) : (setLn s n x).svs = s.svs := rfl
@[simp] theorem setLn_acq (s : State) (n : Nat) (x : TwLine) : (setLn s n x).acq = s.acq := rfl
@[simp] theorem setLn_phx (s : State) (n : Nat) (x : TwLine) : (setLn s n x).phx = s.phx := rfl
@[simp] theorem setLn_nrg (s : State) (n : Nat) (x : TwLine) : (setLn s n x).nrg = s.nrg := rfl
@[simp] theorem setLn_gge (s : State) (n : Nat) (x : TwLine) : (setLn s n x).gge = s.gge := rfl
@[simp] theorem setLn_dec (s : State) (n : Nat) (x : TwLine) : (setLn s n x).dec = s.dec := rfl
@[simp] theorem setLn_slc (s : State) (n : Nat) (x : TwLine) : (setLn s n x).slc = s.slc := rfl
@[simp] theorem setLn_spn (s : State) (n : Nat) (x : TwLine) : (setLn s n x).spn = s.spn := rfl
@[simp] theorem setLn_sfi (s : State) (n : Nat) (x : TwLine) : (setLn s n x).sfi = s.sfi := rfl
@[simp] theorem setLn_rdn (s : State) (n : Nat) (x : TwLine) : (setLn s n x).rdn = s.rdn := rfl
@[simp] theorem setLn_chk (s : State) (n : Nat) (x : TwLine) : (setLn s n x).chk = s.chk := rfl
@[simp] theorem setLn_evr (s : State) (n : Nat) (x : TwLine) : (setLn s n x).evr = s.evr := rfl
@[simp] theorem setLn_clk (s : State) (n : Nat) (x : TwLine) : (setLn s n x).clk = s.clk := rfl
@[simp] theorem setLn_aon (s : State) (n : Nat) (x : TwLine) : (setLn s n x).aon = s.aon := rfl
@[simp] theorem setLn_out (s : State) (n : Nat) (x : TwLine) : (setLn s n x).out = s.out := rfl
@[simp] theorem setLn_pending (s : State) (n : Nat) (x : TwLine) : (setLn s n x).pending = s.pending := rfl
@[simp] theorem lnOf_setLn (s : State) (n : Nat) (x : TwLine) : lnOf (setLn s n x) n = x := by
  simp only [lnOf, setLn, findK_putK_same, Option.getD_some]
theorem lnOf_setLn_ne (s : State) (n : Nat) (x : TwLine) {j : Nat} (h : j ≠ n) : lnOf (setLn s n x) j = lnOf s j := by
  simp only [lnOf, setLn, findK_putK_ne _ _ h]

@[simp] theorem setGp_fuse (s : State) (p : Nat) (x : GPub) : (setGp s p x).fuse = s.fuse := rfl
@[simp] theorem setGp_nv (s : State) (p : Nat) (x : GPub) : (setGp s p x).nv = s.nv := rfl
@[simp] theorem setGp_mem (s : State) (p : Nat) (x : GPub) : (setGp s p x).mem = s.mem := rfl
@[simp] theorem setGp_wr (s : State) (p : Nat) (x : GPub) : (setGp s p x).wr = s.wr := rfl
@[simp] theorem setGp_regs (s : State) (p : Nat) (x : GPub) : (setGp s p x).regs = s.regs := rfl
@[simp] theorem setGp_latch (s : State) (p : Nat) (x : GPub) : (setGp s p x).latch = s.latch := rfl
@[simp] theorem setGp_drops (s : State) (p : Nat) (x : GPub) : (setGp s p x).drops = s.drops := rfl
@[simp] theorem setGp_cmd (s : State) (p : Nat) (x : GPub) : (setGp s p x).cmd = s.cmd := rfl
@[simp] theorem setGp_tim (s : State) (p : Nat) (x : GPub) : (setGp s p x).tim = s.tim := rfl
@[simp] theorem setGp_ports (s : State) (p : Nat) (x : GPub) : (setGp s p x).ports = s.ports := rfl
@[simp] theorem setGp_swc (s : State) (p : Nat) (x : GPub) : (setGp s p x).swc = s.swc := rfl
@[simp] theorem setGp_svs (s : State) (p : Nat) (x : GPub) : (setGp s p x).svs = s.svs := rfl
@[simp] theorem setGp_acq (s : State) (p : Nat) (x : GPub) : (setGp s p x).acq = s.acq := rfl
@[simp] theorem setGp_phx (s : State) (p : Nat) (x : GPub) : (setGp s p x).phx = s.phx := rfl
@[simp] theorem setGp_nrg (s : State) (p : Nat) (x : GPub) : (setGp s p x).nrg = s.nrg := rfl
@[simp] theorem setGp_twv (s : State) (p : Nat) (x : GPub) : (setGp s p x).twv = s.twv := rfl
@[simp] theorem setGp_gge (s : State) (p : Nat) (x : GPub) : (setGp s p x).gge = s.gge := rfl
@[simp] theorem setGp_slc (s : State) (p : Nat) (x : GPub) : (setGp s p x).slc = s.slc := rfl
@[simp] theorem setGp_spn (s : State) (p : Nat) (x : GPub) : (setGp s p x).spn = s.spn := rfl
@[simp] theorem setGp_sfi (s : State) (p : Nat) (x : GPub) : (setGp s p x).sfi = s.sfi := rfl
@[simp] theorem setGp_rdn (s : State) (p : Nat) (x : GPub) : (setGp s p x).rdn = s.rdn := rfl
@[simp] theorem setGp_chk (s : State) (p : Nat) (x : GPub) : (setGp s p x).chk = s.chk := rfl
@[simp] theorem setGp_evr (s : State) (p : Nat) (x : GPub) : (setGp s p x).evr = s.evr := rfl
@[simp] theorem setGp_clk (s : State) (p : Nat) (x : GPub) : (setGp s p x).clk = s.clk := rfl
@[simp] theorem setGp_aon (s : State) (p : Nat) (x : GPub) : (setGp s p x).aon = s.aon := rfl
@[simp] theorem setGp_out (s : State) (p : Nat) (x : GPub) : (setGp s p x).out = s.out := rfl
@[simp] theorem setGp_pending (s : State) (p : Nat) (x : GPub) : (setGp s p x).pending = s.pending := rfl
@[simp] theorem gpOf_setGp (s : State) (p : Nat) (x : GPub) : gpOf (setGp s p x) p = x := by
  simp only [gpOf, setGp, findK_putK_same, Option.getD_some]
theorem gpOf_setGp_ne (s : State) (p : Nat) (x : GPub) {j : Nat} (h : j ≠ p) : gpOf (setGp s p x) j = gpOf s j := by
  simp only [gpOf, setGp, findK_putK_ne _ _ h]

@[simp] theorem setSv_fuse (s : State) (i : Nat) (x : SvSub) : (setSv s i x).fuse = s.fuse := rfl
@[simp] theorem setSv_nv (s : State) (i : Nat) (x : SvSub) : (setSv s i x).nv = s.nv := rfl
@[simp] theorem setSv_mem (s : State) (i : Nat) (x : SvSub) : (setSv s i x).mem = s.mem := rfl
@[simp] theorem setSv_wr (s : State) (i : Nat) (x : SvSub) : (setSv s i x).wr = s.wr := rfl
@[simp] theorem setSv_regs (s : State) (i : Nat) (x : SvSub) : (setSv s i x).regs = s.regs := rfl
@[simp] theorem setSv_latch (s : State) (i : Nat) (x : SvSub) : (setSv s i x).latch = s.latch := rfl
@[simp] theorem setSv_drops (s : State) (i : Nat) (x : SvSub) : (setSv s i x).drops = s.drops := rfl
@[simp] theorem setSv_cmd (s : State) (i : Nat) (x : SvSub) : (setSv s i x).cmd = s.cmd := rfl
@[simp] theorem setSv_tim (s : State) (i : Nat) (x : SvSub) : (setSv s i x).tim = s.tim := rfl
@[simp] theorem setSv_ports (s : State) (i : Nat) (x : SvSub) : (setSv s i x).ports = s.ports := rfl
@[simp] theorem setSv_swc (s : State) (i : Nat) (x : SvSub) : (setSv s i x).swc = s.swc := rfl
@[simp] theorem setSv_acq (s : State) (i : Nat) (x : SvSub) : (setSv s i x).acq = s.acq := rfl
@[simp] theorem setSv_phx (s : State) (i : Nat) (x : SvSub) : (setSv s i x).phx = s.phx := rfl
@[simp] theorem setSv_nrg (s : State) (i : Nat) (x : SvSub) : (setSv s i x).nrg = s.nrg := rfl
@[simp] theorem setSv_twv (s : State) (i : Nat) (x : SvSub) : (setSv s i x).twv = s.twv := rfl
@[simp] theorem setSv_gge (s : State) (i : Nat) (x : SvSub) : (setSv s i x).gge = s.gge := rfl
@[simp] theorem setSv_dec (s : State) (i : Nat) (x : SvSub) : (setSv s i x).dec = s.dec := rfl
@[simp] theorem setSv_slc (s : State) (i : Nat) (x : SvSub) : (setSv s i x).slc = s.slc := rfl
@[simp] theorem setSv_spn (s : State) (i : Nat) (x : SvSub) : (setSv s i x).spn = s.spn := rfl
@[simp] theorem setSv_sfi (s : State) (i : Nat) (x : SvSub) : (setSv s i x).sfi = s.sfi := rfl
@[simp] theorem setSv_rdn (s : State) (i : Nat) (x : SvSub) : (setSv s i x).rdn = s.rdn := rfl
@[simp] theorem setSv_chk (s : State) (i : Nat) (x : SvSub) : (setSv s i x).chk = s.chk := rfl
@[simp] theorem setSv_evr (s : State) (i : Nat) (x : SvSub) : (setSv s i x).evr = s.evr := rfl
@[simp] theorem setSv_clk (s : State) (i : Nat) (x : SvSub) : (setSv s i x).clk = s.clk := rfl
@[simp] theorem setSv_aon (s : State) (i : Nat) (x : SvSub) : (setSv s i x).aon = s.aon := rfl
@[simp] theorem setSv_out (s : State) (i : Nat) (x : SvSub) : (setSv s i x).out = s.out := rfl
@[simp] theorem setSv_pending (s : State) (i : Nat) (x : SvSub) : (setSv s i x).pending = s.pending := rfl
@[simp] theorem svOf_setSv (s : State) (i : Nat) (x : SvSub) : svOf (setSv s i x) i = x := by
  simp only [svOf, setSv, findK_putK_same, Option.getD_some]
theorem svOf_setSv_ne (s : State) (i : Nat) (x : SvSub) {j : Nat} (h : j ≠ i) : svOf (setSv s i x) j = svOf s j := by
  simp only [svOf, setSv, findK_putK_ne _ _ h]

@[simp] theorem setG_fuse (s : State) (g : Nat) (x : GSub) : (setG s g x).fuse = s.fuse := rfl
@[simp] theorem setG_nv (s : State) (g : Nat) (x : GSub) : (setG s g x).nv = s.nv := rfl
@[simp] theorem setG_mem (s : State) (g : Nat) (x : GSub) : (setG s g x).mem = s.mem := rfl
@[simp] theorem setG_wr (s : State) (g : Nat) (x : GSub) : (setG s g x).wr = s.wr := rfl
@[simp] theorem setG_regs (s : State) (g : Nat) (x : GSub) : (setG s g x).regs = s.regs := rfl
@[simp] theorem setG_latch (s : State) (g : Nat) (x : GSub) : (setG s g x).latch = s.latch := rfl
@[simp] theorem setG_drops (s : State) (g : Nat) (x : GSub) : (setG s g x).drops = s.drops := rfl
@[simp] theorem setG_cmd (s : State) (g : Nat) (x : GSub) : (setG s g x).cmd = s.cmd := rfl
@[simp] theorem setG_tim (s : State) (g : Nat) (x : GSub) : (setG s g x).tim = s.tim := rfl
@[simp] theorem setG_ports (s : State) (g : Nat) (x : GSub) : (setG s g x).ports = s.ports := rfl
@[simp] theorem setG_swc (s : State) (g : Nat) (x : GSub) : (setG s g x).swc = s.swc := rfl
@[simp] theorem setG_acq (s : State) (g : Nat) (x : GSub) : (setG s g x).acq = s.acq := rfl
@[simp] theorem setG_phx (s : State) (g : Nat) (x : GSub) : (setG s g x).phx = s.phx := rfl
@[simp] theorem setG_nrg (s : State) (g : Nat) (x : GSub) : (setG s g x).nrg = s.nrg := rfl
@[simp] theorem setG_twv (s : State) (g : Nat) (x : GSub) : (setG s g x).twv = s.twv := rfl
@[simp] theorem setG_gge (s : State) (g : Nat) (x : GSub) : (setG s g x).gge = s.gge := rfl
@[simp] theorem setG_dec (s : State) (g : Nat) (x : GSub) : (setG s g x).dec = s.dec := rfl
@[simp] theorem setG_slc (s : State) (g : Nat) (x : GSub) : (setG s g x).slc = s.slc := rfl
@[simp] theorem setG_spn (s : State) (g : Nat) (x : GSub) : (setG s g x).spn = s.spn := rfl
@[simp] theorem setG_sfi (s : State) (g : Nat) (x : GSub) : (setG s g x).sfi = s.sfi := rfl
@[simp] theorem setG_rdn (s : State) (g : Nat) (x : GSub) : (setG s g x).rdn = s.rdn := rfl
@[simp] theorem setG_chk (s : State) (g : Nat) (x : GSub) : (setG s g x).chk = s.chk := rfl
@[simp] theorem setG_evr (s : State) (g : Nat) (x : GSub) : (setG s g x).evr = s.evr := rfl
@[simp] theorem setG_clk (s : State) (g : Nat) (x : GSub) : (setG s g x).clk = s.clk := rfl
@[simp] theorem setG_aon (s : State) (g : Nat) (x : GSub) : (setG s g x).aon = s.aon := rfl
@[simp] theorem setG_out (s : State) (g : Nat) (x : GSub) : (setG s g x).out = s.out := rfl
@[simp] theorem setG_pending (s : State) (g : Nat) (x : GSub) : (setG s g x).pending = s.pending := rfl
@[simp] theorem gOf_setG (s : State) (g : Nat) (x : GSub) : gOf (setG s g x) g = x := by
  simp only [gOf, setG, findK_putK_same, Option.getD_some]
theorem gOf_setG_ne (s : State) (g : Nat) (x : GSub) {j : Nat} (h : j ≠ g) : gOf (setG s g x) j = gOf s j := by
  simp only [gOf, setG, findK_putK_ne _ _ h]

@[simp] theorem setTu_fuse (s : State) (u : Nat) (x : TrigUnit) : (setTu s u x).fuse = s.fuse := rfl
@[simp] theorem setTu_nv (s : State) (u : Nat) (x : TrigUnit) : (setTu s u x).nv = s.nv := rfl
@[simp] theorem setTu_mem (s : State) (u : Nat) (x : TrigUnit) : (setTu s u x).mem = s.mem := rfl
@[simp] theorem setTu_wr (s : State) (u : Nat) (x : TrigUnit) : (setTu s u x).wr = s.wr := rfl
@[simp] theorem setTu_regs (s : State) (u : Nat) (x : TrigUnit) : (setTu s u x).regs = s.regs := rfl
@[simp] theorem setTu_latch (s : State) (u : Nat) (x : TrigUnit) : (setTu s u x).latch = s.latch := rfl
@[simp] theorem setTu_drops (s : State) (u : Nat) (x : TrigUnit) : (setTu s u x).drops = s.drops := rfl
@[simp] theorem setTu_cmd (s : State) (u : Nat) (x : TrigUnit) : (setTu s u x).cmd = s.cmd := rfl
@[simp] theorem setTu_tim (s : State) (u : Nat) (x : TrigUnit) : (setTu s u x).tim = s.tim := rfl
@[simp] theorem setTu_ports (s : State) (u : Nat) (x : TrigUnit) : (setTu s u x).ports = s.ports := rfl
@[simp] theorem setTu_swc (s : State) (u : Nat) (x : TrigUnit) : (setTu s u x).swc = s.swc := rfl
@[simp] theorem setTu_svs (s : State) (u : Nat) (x : TrigUnit) : (setTu s u x).svs = s.svs := rfl
@[simp] theorem setTu_acq (s : State) (u : Nat) (x : TrigUnit) : (setTu s u x).acq = s.acq := rfl
@[simp] theorem setTu_phx (s : State) (u : Nat) (x : TrigUnit) : (setTu s u x).phx = s.phx := rfl
@[simp] theorem setTu_nrg (s : State) (u : Nat) (x : TrigUnit) : (setTu s u x).nrg = s.nrg := rfl
@[simp] theorem setTu_twv (s : State) (u : Nat) (x : TrigUnit) : (setTu s u x).twv = s.twv := rfl
@[simp] theorem setTu_dec (s : State) (u : Nat) (x : TrigUnit) : (setTu s u x).dec = s.dec := rfl
@[simp] theorem setTu_slc (s : State) (u : Nat) (x : TrigUnit) : (setTu s u x).slc = s.slc := rfl
@[simp] theorem setTu_spn (s : State) (u : Nat) (x : TrigUnit) : (setTu s u x).spn = s.spn := rfl
@[simp] theorem setTu_sfi (s : State) (u : Nat) (x : TrigUnit) : (setTu s u x).sfi = s.sfi := rfl
@[simp] theorem setTu_rdn (s : State) (u : Nat) (x : TrigUnit) : (setTu s u x).rdn = s.rdn := rfl
@[simp] theorem setTu_chk (s : State) (u : Nat) (x : TrigUnit) : (setTu s u x).chk = s.chk := rfl
@[simp] theorem setTu_evr (s : State) (u : Nat) (x : TrigUnit) : (setTu s u x).evr = s.evr := rfl
@[simp] theorem setTu_clk (s : State) (u : Nat) (x : TrigUnit) : (setTu s u x).clk = s.clk := rfl
@[simp] theorem setTu_aon (s : State) (u : Nat) (x : TrigUnit) : (setTu s u x).aon = s.aon := rfl
@[simp] theorem setTu_out (s : State) (u : Nat) (x : TrigUnit) : (setTu s u x).out = s.out := rfl
@[simp] theorem setTu_pending (s : State) (u : Nat) (x : TrigUnit) : (setTu s u x).pending = s.pending := rfl
@[simp] theorem tuOf_setTu (s : State) (u : Nat) (x : TrigUnit) : tuOf (setTu s u x) u = x := by
  simp only [tuOf, setTu, findK_putK_same, Option.getD_some]
theorem tuOf_setTu_ne (s : State) (u : Nat) (x : TrigUnit) {j : Nat} (h : j ≠ u) : tuOf (setTu s u x) j = tuOf s j := by
  simp only [tuOf, setTu, findK_putK_ne _ _ h]

@[simp] theorem setPub_fuse (s : State) (n : Nat) (x : Pub) : (setPub s n x).fuse = s.fuse := rfl
@[simp] theorem setPub_nv (s : State) (n : Nat) (x : Pub) : (setPub s n x).nv = s.nv := rfl
@[simp] theorem setPub_mem (s : State) (n : Nat) (x : Pub) : (setPub s n x).mem = s.mem := rfl
@[simp] theorem setPub_wr (s : State) (n : Nat) (x : Pub) : (setPub s n x).wr = s.wr := rfl
@[simp] theorem setPub_regs (s : State) (n : Nat) (x : Pub) : (setPub s n x).regs = s.regs := rfl
@[simp] theorem setPub_latch (s : State) (n : Nat) (x : Pub) : (setPub s n x).latch = s.latch := rfl
@[simp] theorem setPub_drops (s : State) (n : Nat) (x : Pub) : (setPub s n x).drops = s.drops := rfl
@[simp] theorem setPub_cmd (s : State) (n : Nat) (x : Pub) : (setPub s n x).cmd = s.cmd := rfl
@[simp] theorem setPub_tim (s : State) (n : Nat) (x : Pub) : (setPub s n x).tim = s.tim := rfl
@[simp] theorem setPub_ports (s : State) (n : Nat) (x : Pub) : (setPub s n x).ports = s.ports := rfl
@[simp] theorem setPub_swc (s : State) (n : Nat) (x : Pub) : (setPub s n x).swc = s.swc := rfl
@[simp] theorem setPub_svs (s : State) (n : Nat) (x : Pub) : (setPub s n x).svs = s.svs := rfl
@[simp] theorem setPub_acq (s : State) (n : Nat) (x : Pub) : (setPub s n x).acq = s.acq := rfl
@[simp] theorem setPub_nrg (s : State) (n : Nat) (x : Pub) : (setPub s n x).nrg = s.nrg := rfl
@[simp] theorem setPub_twv (s : State) (n : Nat) (x : Pub) : (setPub s n x).twv = s.twv := rfl
@[simp] theorem setPub_gge (s : State) (n : Nat) (x : Pub) : (setPub s n x).gge = s.gge := rfl
@[simp] theorem setPub_dec (s : State) (n : Nat) (x : Pub) : (setPub s n x).dec = s.dec := rfl
@[simp] theorem setPub_slc (s : State) (n : Nat) (x : Pub) : (setPub s n x).slc = s.slc := rfl
@[simp] theorem setPub_spn (s : State) (n : Nat) (x : Pub) : (setPub s n x).spn = s.spn := rfl
@[simp] theorem setPub_sfi (s : State) (n : Nat) (x : Pub) : (setPub s n x).sfi = s.sfi := rfl
@[simp] theorem setPub_rdn (s : State) (n : Nat) (x : Pub) : (setPub s n x).rdn = s.rdn := rfl
@[simp] theorem setPub_chk (s : State) (n : Nat) (x : Pub) : (setPub s n x).chk = s.chk := rfl
@[simp] theorem setPub_evr (s : State) (n : Nat) (x : Pub) : (setPub s n x).evr = s.evr := rfl
@[simp] theorem setPub_clk (s : State) (n : Nat) (x : Pub) : (setPub s n x).clk = s.clk := rfl
@[simp] theorem setPub_aon (s : State) (n : Nat) (x : Pub) : (setPub s n x).aon = s.aon := rfl
@[simp] theorem setPub_out (s : State) (n : Nat) (x : Pub) : (setPub s n x).out = s.out := rfl
@[simp] theorem setPub_pending (s : State) (n : Nat) (x : Pub) : (setPub s n x).pending = s.pending := rfl
@[simp] theorem pubOf_setPub (s : State) (n : Nat) (x : Pub) : pubOf (setPub s n x) n = x := by
  simp only [pubOf, setPub, findK_putK_same, Option.getD_some]
theorem pubOf_setPub_ne (s : State) (n : Nat) (x : Pub) {j : Nat} (h : j ≠ n) : pubOf (setPub s n x) j = pubOf s j := by
  simp only [pubOf, setPub, findK_putK_ne _ _ h]

@[simp] theorem slOf_setSl (s : State) (i : Nat) (x : Slice) : slOf (setSl s i x) i = x := by
  simp only [slOf, setSl, findK_putK_same, Option.getD_some]
theorem slOf_setSl_ne (s : State) (i : Nat) (x : Slice) {j : Nat} (h : j ≠ i) : slOf (setSl s i x) j = slOf s j := by
  simp only [slOf, setSl, findK_putK_ne _ _ h]

end Sys2Proof.Machine
end

