-- ==== Sys2Proof/Machine/Pins.lean ====
section
/-!
DEFINITION. The levels at the output pins that have no function of their own in a chapter (R408, R409): low while the Tool
rest forces and during power-on reset, which holds the Tool rest (R390). TRIP, BO, SO, PPS_OUT and REF10_OUT stand with their units.
-/

namespace Sys2Proof.Machine

/-- May the pins of R409 leave the levels that the Tool rest holds? -/
def padsFree (s : State) : Bool := !s.clk.forcing && !s.aon.por

/-- Does MCLK_OUT of a set run (R50, R378, R409)? -/
def mclkPin (s : State) (set : Nat) : Bool :=
  padsFree s && isUp s .acq && isUp s .time && !onFallback s && bit (reg s .acq 0 0x40) set

/-- RANGE_c, high for x16 (R155, R409). -/
def rangePin (s : State) (c : Nat) : Bool := padsFree s && isUp s .acq && (acOf s c).range16

/-- CAL_OUT (R161, R409). -/
def calPin (s : State) : Bool := padsFree s && isUp s .acq && s.acq.calOut

/-- HEALTHY (R322, R409). -/
def healthyPin (s : State) : Bool := padsFree s && s.rdn.healthy

/-- TOK_OUT (R320, R409). -/
def tokPin (s : State) : Bool := padsFree s && s.rdn.tokOut

/-- HB_OUT: low during power-on reset, else its last level (R321, R409). -/
def hbPin (s : State) : Bool := !s.aon.por && s.rdn.hbOut

/-- FORCED, high while an input or an output is forced (R296, R409). -/
def forcedPin (s : State) : Bool := padsFree s && isUp s .rt && !s.spn.force.isEmpty

/-- PF_WARN_N, low while the power-fail warning is asserted and during power-on reset (R398, R409). -/
def pfWarnPin (s : State) : Bool := !s.aon.por && !s.aon.pf

end Sys2Proof.Machine
end

