-- ==== Sys2Proof/Tests/Slice0.lean ====
section
/-!
SUPPORT. Tests: what the check of a command refuses, values of the spec's own examples, and for every statement with hypotheses
states and operands that meet them, clause by clause (`wit_<statement>`).
-/

namespace Sys2Proof.Tests
open Sys2Proof Sys2Proof.Machine

set_option Elab.async false

/-! ### Small states -/

def withRegs (s : State) (l : List (Blk × Nat × Nat × Nat)) : State :=
  l.foldl (fun s e => setReg s e.1 e.2.1 e.2.2.1 e.2.2.2) s

def good : ClkSrc := { ClkSrc.reset with stable := true }

/-- A module that runs: every island up, every block enabled, the token held. -/
def live : State :=
  let s : State :=
    { State.reset with
      aon := { Aon.reset with por := false, inReset := 0, blankLeft := true, dramUp := true }
      clk := { Clk.reset with
        refclk := good, serdes := good, rc := good, lock := 0x1FFF, cause := 0, seenCause := 0, forcing := false, everReleased := true }
      chk := { Chk.reset with booted := true }
      tim := { Tim.reset with time := 100 * secU, servo := .finishing, quality := 0 }
      swc := { Swc.reset with ipLink := 0xF }
      rdn := { Rdn.reset with mstate := .headstock, healthy := true, cmdOk := true, tokOut := true, hbIn := true } }
  withRegs s [(.prt, 0, 8, 1), (.swc, 0, 8, 1), (.svs, 0, 8, 1), (.acq, 0, 8, 1), (.phx, 0, 8, 1), (.nrg, 0, 8, 1), (.twv, 0, 8, 1),
    (.gge, 0, 8, 1), (.dec, 0, 8, 1), (.spn, 0, 8, 1), (.rdn, 0, 8, 1), (.rdn, 0, 0x40, 0)]

def con : CmdCtx := { port := .console, index := 0, tag := 5 }
def hst : CmdCtx := { port := .host, index := 0, tag := 5 }
def host : Requester := { cls := .host, index := 0 }
def core : Requester := { cls := .internal, index := 3 }

/-- The module with an island in reset. -/
def without (i : Island) : State := { live with aon := { live.aon with inReset := BitVec.ofNat 13 (2 ^ islNum i) } }

/-- A frame of 64 bytes. -/
def frame (p : Pdu) : Frame :=
  { dst := 0x010CCD040001, src := 0x020000000001, vlan := none, etype := 0x88B5, red := .plain, len := 64, pdu := p }

/-! ### Values of the spec and of the standards it names -/

/-- FIPS 202: SHAKE256 of the empty message. -/
theorem test_shake256_empty : shake256 [] 8 = [0x46, 0xb9, 0xdd, 0x2b, 0x0b, 0xa8, 0x8d, 0x13] := by decide +kernel

/-- IEEE 802.3: the CRC-32 of the digits 1 to 9. -/
theorem test_crc32_check : crc32 (ascii "123456789") = 0xCBF43926 := by decide +kernel

/-! ### The machine as a whole -/

theorem wit_StepRunsFrontCommand :
    let s : State := { live with pending := [.flushPeriodic] }
    s.pending = .flushPeriodic :: [] ∧ live.pending = [] ∧ isUp live .time = true ∧ isUp State.reset .time = false := by
  decide +kernel

theorem wit_StepKeepsSound : live.sound = true ∧ ∃ t, step live = .next t ∧ StepsTo 1 live t :=
  ⟨by decide +kernel, _, rfl, .more rfl (.none _)⟩

theorem wit_MemoryLaws : Memory.wf [(4, 1), (9, 2)] = true ∧ Memory.wf live.mem = true ∧ (9 : Nat) ≠ 4 := by decide +kernel

theorem wit_NothingFollows :
    settleClocks live = live ∧ settleTool live = live ∧ ipSettle live = live ∧ rdnSettle live = live ∧ sfiGate live = live ∧
      settleBg live = live ∧ live.cmd.exec = none := by decide +kernel

/-! ### Registers -/

theorem wit_WriteWordAndRead :
    wordAt 0x40200040 = some (.tim, 0, 0x40) ∧ accessible live core .tim 0 0x40 = true ∧ latched .tim 0x40 = false ∧
      latches .tim 0x40 = [] := by decide +kernel

theorem wit_FailedAccess :
    arrives live core = true ∧ arrives live host = true ∧ arrives (without .portB) host = false ∧ AccSize.byte ≠ .word ∧ core.cls = .internal ∧ core.cls ≠ .host ∧ core.cls ≠ .slice ∧ host.cls = .host ∧ wordAt 0x40440000 = none ∧
      wordAt 0x404FFFFF = none ∧ wordAt 0x41500000 = none ∧ wordAt 0x3FFFFFFF = none ∧ wordAt 0x48400000 = none ∧
      wordAt 0x52570000 = none ∧ dramEnd live = 0xA00000000 ∧ isUp live .memory = true ∧
      wordAt 0x40200042 = some (.tim, 0, 0x42) ∧ accessErr live .tim 0 0x42 = true ∧
      isDown State.reset (Blk.island .tim 0) = true ∧ fieldsOf .tim 0xFFC = [] ∧ fusedOff live .tim 0 = false ∧
      mailboxWord .tim 0x40 = false ∧ mailboxWord .cmd 0x54 = true ∧ reaches host .cmd 0 0x54 = true ∧
      wordAt 0x414FFFFC = some (.mem, 0, 0xFFFFC) ∧ wordAt 0x48000000 = some (.sw, 0, 0) := by decide +kernel

def partS : State := { live with fuse := { live.fuse with variant := .s } }
def partN : State := { live with fuse := { live.fuse with variant := .n } }

/-- R23, R25: a word of DRAM is written under its mask, the journal's partition is not; a host without a directory reaches nothing. -/
theorem test_memory_words :
    let w (q : Requester) (a : Nat) : State := addrWrite live q .word a 0x00FFFF00 0x12345678
    rdNum (w core 0x9FFFFFFFC) 0x9FFFFFFFC 4 = 0x00345600 ∧ (w core 0x50510000).wr = [] ∧ (w host 0x800000000).wr = [] ∧
      (addrWrite partS core .byte 0x900000000 0xFF 1).wr = [] ∧ rdNum (addrWrite live core .half 0x9FFFFFFFE 0xFFFF 0xABCD) 0x9FFFFFFFC 4 = 0xABCD0000 := by decide +kernel

theorem wit_FusedOffPage :
    arrives partS core = true ∧ fusedOff partS .nrg 0 = true ∧ wordAt 0x40900000 = some (.nrg, 0, 0) ∧ reaches core .nrg 0 0 = true ∧
      accessErr partS .nrg 0 0 = false ∧ accessErr partS .nrg 0 4 = false ∧
      ready partS con 0x1003 (le 2 9 ++ le 2 0 ++ le 4 0) = true ∧ unitReady partS 0x1003 = true ∧
      ready partS con 0x3001 (le 2 Blk.nrg.code ++ le 2 0 ++ le 4 4 ++ le 4 1 ++ le 4 1) = true ∧ unitReady partS 0x3001 = true ∧
      unitOf 0x2030 = some .nrg ∧ partS.aon.pf = false ∧ fusedOff partN .prt 63 = true ∧ fusedOff partN .prt 51 = false := by
  decide +kernel

theorem wit_PairEnableClamped :
    let s := withRegs live [(.swc, 0, 0x9004, 0x80000302)]
    let w (v : Nat) : WordW := wordStep s .swc 0 0x9000 0xFFFFFFFF v
    bit 0xFFFFFFFF 31 = true ∧ bit 0x80000100 31 = true ∧ pairEn (w 0x80000100).new = true ∧
      pairEn (w 0x80000000).new = false ∧ pairEn (w 0x80000400).new = true ∧ pairEn (w 0x80000200).new = false ∧
      pairEn (w 0x80003000).new = false ∧ pairEn (w 0x00000100).new = false := by decide +kernel

theorem wit_ClampGivesLegalValue :
    clampVal 8 (.u 0 255 1) 255 = 255 ∧ clampVal 16 (.u 20 1000 1) 0 = 20 ∧ clampVal 16 (.u 0 100 25) 63 = 75 ∧
      clampVal 16 (.u 0 90 25) 90 = 75 ∧ clampVal 8 (.s (-128) 127) 0x80 = 0x80 ∧ clampVal 2 (.en [0, 1] 0) 3 = 0 ∧
      (0 : Nat) ∈ [0, 1] := by decide +kernel

theorem wit_WriteKeepsOtherBits :
    let s := withRegs live [(.prt, 0, 0x28, 1), (.prt, 0, 0x40, 0)]
    (∀ f ∈ fieldsAt live .tim 0xC0, f.lsb ≤ 31 → 31 < f.lsb + f.w → f.writable = false) ∧
      (∀ f ∈ fieldsAt live .prt 0x40, f.lsb ≤ 0 → 0 < f.lsb + f.w → getBits 0xFFFF0000 f.lsb f.w = 0) ∧
      bit (reg s .prt 0 0x28) 0 = true ∧ live.fuse.variant ≠ .s ∧ partS.fuse.variant = .s ∧
      (let p := withRegs partS [(.gge, 0, tgO 63 0, 5)]
       getBits 0x30 4 2 ≠ 0 ∧ getBits (wordStep p .gge 0 (tgO 63 0) 0x30 0x10).new 4 2 = 1 ∧
         (wordStep p .gge 0 (tgO 63 0) 0x30 0x10).new = 0x10) := by decide +kernel

theorem wit_LockStaysSet :
    accessible live core .dec 0 0x28 = true ∧ accessible live core .prt 63 0x28 = true ∧
      accessible live core .aon 0 0x28 = true := by decide +kernel

theorem wit_RegisterRowsWriteTheirWord :
    ([(.prt, 0, 8), (.prt, 63, 8), (.swc, 0, 8), (.svs, 0, 8), (.dec, 0, 8), (.tim, 0, 0x40), (.prt, 0, 0x60), (.swc, 0, 0x9000),
        (.swc, 0, 0x903C), (.acq, 0, 0x100), (.acq, 0, 0x6C0), (.phx, 0, 0x2000), (.phx, 0, 0x27E0), (.nrg, 0, 0x50), (.gge, 0, 0x60),
        (.chk, 0, 0xE4), (.clk, 0, 0x48), (.clk, 0, 0x50), (.aon, 0, 0xA8), (.slc, 0, slOff 0 0), (.slc, 0, slOff 63 0x30),
        (.slc, 0, slOff 63 0x34), (.slc, 0, slOff 63 0x38)] : List (Blk × Nat × Nat)).all
      (fun e => accessible live core e.1 e.2.1 e.2.2) = true := by decide +kernel

theorem wit_TableCommands :
    accessible live core .swc 0 0x10C = true ∧ live.swc.fdbBusy = false ∧ accessible live core .swc 0 0x160 = true ∧
      live.swc.clsBusy = false ∧ accessible live core .swc 0 0x190 = true ∧ live.swc.grpBusy = false ∧
      accessible live core .svs 0 0xA4 = true ∧ accessible live core .phx 0 0x190 = true ∧ live.phx.grpBusy = false := by
  decide +kernel

/-! ### Messages and commands -/



/-- Bytes of arguments of the least size that an opcode takes from the host. -/
def leastArgs (e : Nat × Nat × Nat) : List Byte := List.replicate (e.2.1 + if e.2.2 = 2 then 4 else 0) 0

/-- Every command of the processor is ready from the host with the least arguments, on a part with every unit: the hypotheses of
the statements that say what a command answers. -/
theorem wit_answers : opcodes.all (fun e => ready live hst e.1 (leastArgs e) && unitReady live e.1) = true ∧
    pairPart live = true := by decide +kernel

def jnl : RawMsg := { opcode := 0x1001, flags := 0, argLen := 0, tag := 7, args := [] }

def inArea (b : Blk) (i : Nat) : List (Blk × Nat × Nat × Nat) :=
  [(b, i, 0x1000, 0x1001), (b, i, 0x1004, 0), (b, i, 0x1008, 7), (b, i, 0x100C, 0)]

/-- Debug with a test key in slot 0 for the management port, the arbiter and the link. -/
def bench : State :=
  { live with
    fuse := { live.fuse with debug := true }
    chk := { live.chk with test := [(0, { share := [1, 2, 3, 4], mask := [0, 0, 0, 0], id := 1, usage := 0xFFFF, version := 1, tag := [] })] } }

def key : List Byte := [1, 2, 3, 4]

def mgmtState : State := withRegs bench [(.cmd, 0, 0x40, 0x1F), (.cmd, 0, 0x44, 1)]

def mgmtBody : List Byte := le 2 1 ++ le 2 0 ++ le 8 9 ++ (le 2 0x1001 ++ le 2 0 ++ le 2 0 ++ le 2 0 ++ le 8 7)

theorem wit_MessagesTakenOrRefused :
    let port (p : Port) (i : BitVec 8) (s : State) : Bool :=
      portOpen s p && (msgCheck s { port := p, index := i, tag := 7 } true jnl).isNone
    let h := withRegs live (inArea .cmd 0)
    let k := withRegs { live with slc := { live.slc with s := [(63, { Slice.free with state := .active, blocked := false })] } }
      ((.cmd, 0, 0x40, 0x3F) :: [(.sw, 63, 0x1000, 0x1050), (.sw, 63, 0x1008, 7)])
    cmdUp live = true ∧ port .console 0 live = true ∧ port .debug 0 bench = true ∧
      accessible h host .cmd 0 0x50 = true ∧ areaMsg h .cmd 0 = jnl ∧ port .host 0 h = true ∧
      accessible k { cls := .slice, index := 63 } .sw 63 0x70 = true ∧ portOpen k .slice = true ∧
      areaMsg k .sw 63 = { jnl with opcode := 0x1050 } ∧
      (msgCheck k { port := .slice, index := 63, tag := 7 } true { jnl with opcode := 0x1050 }).isNone = true ∧
      portOpen (withRegs live [(.cmd, 0, 0x40, 0)]) .console = false ∧
      (con.port = .host → hostUp live = true) ∧ hst.port = .host ∧ hostUp live = true ∧
      (opcodeInfo 0x1000).isNone = true ∧ (opcodeInfo 0x2010).isNone = false ∧ argsFit .console 0x2010 12 = true ∧
      classPermitted .console 0x2010 = false := by decide +kernel

/-- A frame whose tag verifies, and one whose tag does not. -/
theorem wit_MgmtFrames :
    (isMgmtPort mgmtState 0 = true ∧ cmdUp mgmtState = true ∧ portOpen mgmtState .mgmt = true ∧
      (mgmtCounter mgmtState 0x020000000001 9).2 = true ∧
      (mgmtCounter { mgmtState with nv := { mgmtState.nv with mgmt := [(0x020000000001, 9)] } } 0x020000000001 9).2 = false) ∧
    ∃ t, mgmtTag mgmtState mgmtBody = (mgmtState, some t) ∧ t ≠ [] ∧ numAt (mgmtBody ++ t) 0 2 = 1 ∧ numAt (mgmtBody ++ t) 16 2 = 0 ∧
      (mgmtBody ++ t).take 28 = mgmtBody ∧ (mgmtBody ++ t).drop 28 = t ∧ (mgmtBody ++ []).drop 28 ≠ t := by
  refine ⟨by decide +kernel, kmac256 key mgmtBody 32 (ascii "ASDAR-MGMT"), ?_, by decide +kernel, by decide +kernel, by decide +kernel,
    List.take_left' (by decide +kernel), List.drop_left' (by decide +kernel), by decide +kernel⟩
  have h : loadSym mgmtState (fld mgmtState .cmd 0x4C 0 6) 1 = (mgmtState, some key) := by decide +kernel
  simp only [mgmtTag, h]

/-- A symmetric key whose tag is the one of its slot. -/
def key0 : Key :=
  let k : Key := { share := [1, 2, 3, 4], mask := [0, 0, 0, 0], id := 1, usage := 0xFFFF, version := 1, tag := [] }
  { k with tag := keyTag 0 0 k }

theorem keyTag_any (k : Key) (t : List Byte) : keyTag 0 0 { k with tag := t } = keyTag 0 0 k := by
  unfold keyTag Key.meta Key.value
  rfl

def slot0 : Slot := { a := some key0, b := none, active := false, valid := true, bad := false }

/-- A part out of debug with that key in slot 0, that takes frames of MGMT at port 0. -/
def keyed : State :=
  withRegs { live with chk := { live.chk with slots := [((0, 0), slot0)] } } [(.cmd, 0, 0x40, 0x1F), (.cmd, 0, 0x44, 1)]

theorem keyed_loads : loadSym keyed 0 1 = (keyed, some key) := by
  have h : slotOf keyed 0 0 = slot0 := rfl
  have d : keyed.fuse.debug = false := rfl
  have e : key0.tag = keyTag 0 0 key0 := (keyTag_any _ _).symm
  have c : checkSlot keyed 0 0 = (keyed, some key0) := by
    unfold checkSlot
    rw [h]
    show (if slot0.bad = true then _ else if asMade keyed 0 0 = true then _ else if key0.tag = keyTag 0 0 key0 then _ else _) = _
    rw [if_neg (by decide), if_pos e]
    exact ite_self _
  unfold loadSym
  rw [d, c]
  rfl

def mgmtT : List Byte := kmac256 key mgmtBody 32 (ascii "ASDAR-MGMT")

/-- The frame that it takes, and the room for it (R433). -/
theorem wit_MgmtFrameQueued :
    (keyed.fuse.debug = false ∧ isMgmtPort keyed 0 = true ∧ cmdUp keyed = true ∧ portOpen keyed .mgmt = true ∧
      keyed.chk.recovery = false ∧ fld keyed .cmd 0x4C 0 6 = 0 ∧ keyed.nv.mgmt = [] ∧ argsFit .mgmt 0x1001 0 = true ∧ classPermitted .mgmt 0x1001 = true ∧
      (keyed.cmd.queue.filter fun q => q.ctx.port == .mgmt).length < 8) ∧
    loadSym keyed 0 1 = (keyed, some key) ∧ numAt (mgmtBody ++ mgmtT) 0 2 = 1 ∧ numAt (mgmtBody ++ mgmtT) 4 8 = 9 ∧
      (mgmtBody ++ mgmtT).drop (28 + numAt (mgmtBody ++ mgmtT) 16 2) =
        kmac256 key ((mgmtBody ++ mgmtT).take (28 + numAt (mgmtBody ++ mgmtT) 16 2)) 32 (ascii "ASDAR-MGMT") ∧
      rawOf ((mgmtBody ++ mgmtT).drop 12) (slice (mgmtBody ++ mgmtT) 28 (min (numAt (mgmtBody ++ mgmtT) 16 2) ((mgmtBody ++ mgmtT).length - 28))) =
        jnl :=
  ⟨by decide +kernel, keyed_loads, by decide +kernel, by decide +kernel, by decide +kernel, by decide +kernel⟩

theorem wit_ResponsesAndQueue :
    let s := withRegs live [(.cmd, 0, 0x54, 2), (.sw, 63, 0x74, 2)]
    let m : CmdMsg := { ctx := con, opcode := 0x1001, args := [] }
    let q : State := { live with cmd := { live.cmd with queue := [m] } }
    accessible s host .cmd 0 0x54 = true ∧ bit (reg s .cmd 0 0x54) 1 = true ∧
      accessible { s with slc := { s.slc with s := [(63, { Slice.free with state := .active, blocked := false })] } }
        { cls := .slice, index := 63 } .sw 63 0x74 = true ∧
      (let room (s : State) (p : Port) (op n : Nat) : Bool :=
        portOpen s p && argsFit p op n && classPermitted p op && decide ((s.cmd.queue.filter fun q => q.ctx.port == p).length < 8)
       let h := withRegs live (inArea .cmd 0)
       let k := withRegs { live with slc := { live.slc with s := [(63, { Slice.free with state := .active, blocked := false })] } }
         ((.cmd, 0, 0x40, 0x3F) :: [(.sw, 63, 0x1000, 0x1050), (.sw, 63, 0x1008, 7)])
       room live .console 0x1001 0 = true ∧ room bench .debug 0x1001 0 = true ∧ room h .host 0x1001 0 = true ∧
         accessible h host .cmd 0 0x50 = true ∧ areaMsg h .cmd 0 = jnl ∧ room k .slice 0x1050 0 = true ∧
         sliceMayRead 63 0x1050 [] = true ∧ accessible k { cls := .slice, index := 63 } .sw 63 0x70 = true ∧
         areaMsg k .sw 63 = { jnl with opcode := 0x1050 } ∧ jnl.flags = 0 ∧ jnl.args.length = jnl.argLen ∧
         (opcodeInfo 0x1001).isSome = true ∧ (opcodeInfo 0x1050).isSome = true ∧ live.chk.recovery = false) ∧
      bit (reg s .sw 63 0x74) 1 = true ∧ cmdUp q = true ∧ q.cmd.exec = none ∧ nextMsg q = some m := by decide +kernel

theorem wit_CommandsJournalledOrTurnedAway :
    let s : State := { live with mem := [(jnlAddr 4096 + 1, 16)] }
    let pf : State := { live with aon := { live.aon with pf := true } }
    numAt (rdBytes s (jnlAddr 4096) 32) 0 4 = 4096 ∧ numAt (rdBytes s (jnlAddr 4096) 32) 0 4 ≠ 1 ∧ pf.aon.pf = true ∧
      unitOf 0x2030 = some .nrg ∧ fusedOff partS .nrg 0 = true ∧ unitOf 0x4006 = some .slc ∧
      isDown (without .app) (Blk.island .slc 0) = true ∧ isDown (without .phasor) (Blk.island .nrg 0) = true := by decide +kernel

theorem wit_CoreAndRegisterCommands :
    let x (op : Nat) (a : List Byte) : State := opened live hst op a
    let ra := le 2 3 ++ le 2 0 ++ le 4 0x40
    let wa := ra ++ le 4 0xFF ++ le 4 0
    jnlDist 1 1 < 1 ∧ 1 ≤ jnlDist 1 0xFFFFF000 ∧ Blk.ofCode 3 = some .tim ∧ 0 < Blk.insts .tim ∧ 0x40 < Blk.size .tim ∧
      (busRead (x 0x1003 ra) .tim 0 0x40).2.isSome = true ∧
      (let w := busWrite (x 0x3001 wa) (cmdReq hst) .tim 0 0x40 0x80 0
       w.err = false ∧ w.absent = false ∧ w.field = true ∧ w.locks = [] ∧ w.refused = false ∧ w.clamps = []) ∧
      Blk.ofCode 0 = none ∧ Blk.size .tim ≤ 0x100000 ∧
      accessErr live .tim 0 2 = true ∧
      (busWrite live host .tim 0 0x48 0xFFFF 5).clamps ≠ [] ∧
      (busWrite (withRegs live [(.clk, 0, 0x28, 1)]) host .clk 0 0x44 0xFFFFFFFF 0xFFFFFFFF).locks ≠ [] ∧
      (busWrite { live with slc := { live.slc with s := [(0, { Slice.free with state := .active })] } } host .slc 0 (slOff 0 0x10)
        0xFFFFFFFF 1).refused = true := by decide +kernel

/-! ### Slices -/

def inState (st : SlState) : Slice := { Slice.free with state := st, blocked := false }

def withSlice (i : Nat) (x : Slice) : State := { live with slc := { live.slc with s := [(i, x)] } }

theorem wit_SliceOperations :
    ([.active, .freezing, .frozen, .receiving, .parting, .free] : List SlState).all
      (fun st => (slOf (withSlice 63 (inState st)) 63).state == st && !(slOf (withSlice 63 (inState st)) 63).busy) = true ∧
      (sliceOp (withSlice 63 (inState .active)) 63 3 false).isSome = true ∧
      (sliceOp (withSlice 63 (inState .frozen)) 63 4 false).isSome = true ∧
      sliceOp (withSlice 63 { inState .frozen with busy := true }) 63 4 false = none := by decide +kernel

theorem wit_SliceRowsAndCommands :
    accessible live core .slc 0 (slOff 0 0x64) = true ∧ accessible live core .slc 0 (slOff 63 0x64) = true ∧
      accessible live core .svs 0 0x100 = true := by decide +kernel

theorem wit_SliceEvents :
    let d : Desc := { op := 1, queue := 0, len := 8, src := 0, dst := 0, tag := 1, done := 8, status := 0 }
    let b (k : BgKind) : Bg := { slice := 63, msg := { ctx := hst, opcode := 0x4007, args := [] }, seq := 1, kind := k, live := true,
                                 failed := false }
    let bg (k : BgKind) : State := { live with cmd := { live.cmd with bg := [b k] } }
    isUp live .app = true ∧ isUp live .memory = true ∧ (inState .freezing).state = .freezing ∧
      windowClosed (inState .parting) = true ∧ windowClosed (inState .active) = false ∧ descEnded d = true ∧ runsUnits { inState .active with desc := some d } = true ∧
      (inState .freezing).desc = none ∧ partEnded (inState .parting) = true ∧
      (bg (.save 0x800000000 65536)).cmd.bg.find? (fun x => x.slice == 63) = some (b (.save 0x800000000 65536)) ∧
      (bg (.restore 0x800000000 64)).cmd.bg.find? (fun x => x.slice == 63) = some (b (.restore 0x800000000 64)) ∧
      (bg (.migSend 0 0 0 0 0 0)).cmd.bg.find? (fun x => x.slice == 63) = some (b (.migSend 0 0 0 0 0 0)) ∧
      migTotal 0 0 ≤ 0 ∧ live.rdn.elade.mig.unacked = [] ∧ live.rdn.elade.mig.waiting = [] ∧
      ({ inState .active with swapping := true }).swapping = true := by decide +kernel

/-! ### Time, ports and switch -/

/-- An Announce of a clock of class 6 in domain 0. -/
def firstAnn : Announce :=
  { domain := 0, clockId := 1, portNum := 1, seqId := 0, gmPriority1 := 128, gmClass := 6, gmAccuracy := 0x21, gmVariance := 0,
    gmPriority2 := 128, gmId := 1, stepsRemoved := 0, utcOffset := 37, utcValid := true, leap61 := false, leap59 := false,
    tlvInacc := none }

def grainAt10 (x : Tim) : Tim := { x with lastGrain := some (100, 10), grains := 11 }

theorem wit_TimeSteps : (grainAt10 live.tim).lastGrain = some (100, 10) := by decide +kernel

theorem wit_TimeCoreEvents :
    let hold : State := { live with tim := { live.tim with servo := .holdover, quality := 1, ppsMark := [(90, 100)] } }
    let pps := withRegs { live with tim := { live.tim with setDone := true } } [(.tim, 0, 0x40, 4)]
    isUp live .time = true ∧ isUp (without .time) .time = false ∧ live.tim.servo = .finishing ∧ hold.tim.servo = .holdover ∧
      ppsGated live = false ∧ hold.tim.ppsFloor ≤ nowSec hold ∧ (∀ e ∈ hold.tim.ppsMark, nowSec hold < e.1 ∨ e.2 ≤ nowSec hold) ∧
      ppsGated { live with tim := { live.tim with quality := 3 } } = true ∧ fld pps .tim 0x40 2 2 = 1 ∧
      fld live .tim 0x40 2 2 = 0 ∧ pps.tim.setDone = true ∧
      (∃ e ∈ ({ live with tim := { live.tim with ppsMark := [(100, 101)] } }).tim.ppsMark, e.1 ≤ nowSec live ∧ nowSec live < e.2) ∧
      nowSec live < ({ live.tim with ppsFloor := 101 } : Tim).ppsFloor := by decide +kernel

theorem wit_PtpEvents :
    let s := withRegs { live with tim := { live.tim with masters := 0x8000000000000000 } } [(.tim, 0, 0x60, 1), (.tim, 0, 0x64, 0x80000000)]
    isUp s .time = true ∧ isPtpPort s 0 = true ∧ isPtpPort s 63 = true ∧ isPtpPort s 1 = false ∧
      s.tim.masters.toNat.testBit 63 = true ∧ live.tim.masters.toNat.testBit 63 = false ∧
      annAccepted (ptpRelay s 63 (frame (.ann firstAnn)) none) 63 firstAnn = true ∧
      annAccepted (ptpRelay s 63 (frame (.ann { firstAnn with domain := 77 })) none) 63 { firstAnn with domain := 77 } = false ∧
      firstAnn.utcValid = true ∧ fld (announce (ptpRelay s 63 (frame (.ann firstAnn)) none) 63 firstAnn) .tim 0x40 2 2 = 0 := by
  decide +kernel

def portsUp : State :=
  withRegs { live with ports := { live.ports with link := 0x8000000000000001 } }
    [(.prt, 0, 8, 1), (.prt, 63, 8, 1), (.prt, 0, 0x10, 0), (.swc, 0, 0x180, 0)]

theorem wit_FrameStages :
    portUp portsUp 0 = true ∧ portUp portsUp 63 = true ∧ portUp live 0 = false ∧ pairOf portsUp 0 = none ∧
      inMap64 portsUp 0x78 0 = false ∧ tsqLen portsUp 0 < 256 ∧ (frame (.raw [])).fecCorr = 0 ∧
      steer portsUp 0 (frame (.raw [])) ≠ none := by decide +kernel


def copyTo (p : Nat) : Copy := { frame := 1, port := p, queue := 3, ct := false, red := none }

def stored : SFrame :=
  { id := 1, frame := frame (.raw []), inPort := 64, stamp := none, vid := 1, pcp := 0, queue := 3, strip := 0, ptrs := [0] }

/-- A frame that waits at port 63. -/
def waits63 : State := { portsUp with swc := { portsUp.swc with frames := [stored], copies := [copyTo 63] } }

theorem wit_PortEvents :
    let sent : State :=
      { portsUp with
        swc := { portsUp.swc with frames := [stored] }
        ports := { portsUp.ports with tx := [{ copyTo 67 with sent := some (frame (.raw [])) }] } }
    let flushing : State := { live with ports := { live.ports with flushing := 1 } }
    ipUp live 67 = true ∧ ipUp (without .app) 67 = false ∧ anyUp waits63 63 = true ∧ nextCopy waits63 63 = some (copyTo 63) ∧
      (∀ x ∈ waits63.ports.tx, x.port ≠ 63) ∧ frameOf waits63 1 = some stored ∧
      (egressFrame waits63 stored (copyTo 63)).pdu = .raw [] ∧ anyUp live 0 = false ∧ nextCopy live 67 = none ∧
      sent.ports.tx.find? (fun x => x.port == 67) = some { copyTo 67 with sent := some (frame (.raw [])) } ∧
      portUp live 0 = false ∧ bit (reg live .prt 0 8) 0 = true ∧ isUp live (portIsland 0) = true ∧ portPresent live 0 = true ∧
      portUp portsUp 63 = true ∧ flushing.ports.flushing.toNat.testBit 0 = true ∧
      live.ports.flushing.toNat.testBit 63 = false := by decide +kernel

theorem wit_SwitchEvents :
    let s := withRegs live [(.swc, 0, 0x9000, 0x80000100), (.swc, 0, 0x903C, 0x80000302)]
    let e : Dd := { pair := 15, src := 2, seq := 65535, seenA := true, seenB := false, born := 0 }
    let d : State := { live with swc := { live.swc with dd := [e] } }
    let same (x : Dd) : Bool := x.pair == 15 && x.src == 2 && x.seq == 65535
    pairEn (pairWord s 0) = true ∧ pairEn (pairWord s 15) = true ∧ enabled s .swc = true ∧ isUp s .switch = true ∧
      pairEn (pairWord live 0) = false ∧ d.swc.dd.find? same = some e ∧ live.swc.dd.find? same = none ∧
      freeBillets live < freeBillets live + 1 := by decide +kernel

/-! ### Streams, acquisition, phasors, energy and travelling waves -/

/-- A classification entry that every frame meets and that sends it to the subscriber. -/
def toSub : List Word := [0, 0, 0, 0, 0, 0x80, 0x80000001, 0]

def gmsg (st sq cr : Nat) (nds : Bool) : GoosePdu :=
  { appid := 0, gocbRef := [], datSet := [], goId := [], t := [], stNum := st, sqNum := sq, confRev := cr, ndsCom := nds, sim := false, test := false,
    tal := 4, numEntries := 0, allData := [], ext := none, formatOk := true }

def gLive : GSub := { GSub.idle with state := .live, stNum := 0xFFFFFFFF, sqNum := 3, confRev := some 1 }

def subs : State :=
  { live with svs := { live.svs with
      tab := [(511, List.replicate 8 0)]
      sv := [(511, { SvSub.idle with state := .running, est := some 0, minE := some 5, cntE := 17 })]
      goose := [(2047, gLive)]
      opened := [{ label := { sec := 100, k := 0, n := 1, quality := 0, epoch := 0, step := false }, members := [], localMember := false,
                   locals := [] }] } }

theorem wit_SubscriberRows :
    let v : VFrame := { frame := frame (.goose (gmsg 1 0 1 false)), entry := 512, words := [], stamp := nowStamp live }
    let s : State := { live with svs := { live.svs with fifo := [v] } }
    let c : State := { live with swc := { live.swc with cls := [(0, toSub)] } }
    let sv (n : Nat) : SvPdu :=
      { appid := 0, sim := false, svId := [], asdus := List.replicate n { smpCnt := 0, smpSynch := 2, elems := [] }, ext := none,
        formatOk := true }
    classified c 63 (frame (.raw [])) 0 = true ∧ enabled c .svs = true ∧ isUp c .stream = true ∧
      classified live 63 (frame (.raw [])) 0 = false ∧ svFormat (sv 9) = false ∧ gooseFormat (gmsg 1 0 1 false) = true ∧
      idOk [0, 0, 0, 0x2BDDB946, 0x138DA80B] [] = true ∧ idOk (List.replicate 8 0) [] = false ∧ isUp subs .rt = true ∧
      enabled live .svs = true ∧ isUp live .stream = true ∧ isUp (without .stream) .stream = false ∧ live.svs.fifo = [] ∧
      s.svs.fifo = v :: [] ∧ (gOf subs 2047).confRev = some 1 ∧ (gmsg 1 0 1 true).ndsCom = true ∧ (gmsg 1 0 2 false).confRev ≠ 1 ∧
      (gOf subs 2047).state ≠ .idle ∧ newer32 0 0xFFFFFFFF = true ∧ newer32 4 3 = true ∧ newer32 3 3 = false ∧
      newer32 0xFFFFFFFE 0xFFFFFFFF = false ∧ (gOf subs 2047).discards < 16 := by decide +kernel

theorem wit_StreamTimeouts :
    (svOf subs 511).state = .running ∧ (svOf live 0).state ≠ .running ∧ findK subs.svs.tab 511 = some (List.replicate 8 0) ∧
      (svOf subs 511).est.isSome = true ∧ 16 < (svOf subs 511).cntE ∧ (svOf subs 511).minE = some 5 ∧ live.svs.opened = [] ∧
      subs.svs.opened.length = 1 ∧ (gOf subs 2047).state = .live ∧ (gOf live 0).state ≠ .live := by decide +kernel

def acqS : State :=
  withRegs { live with acq := { live.acq with ch := [(23, { AcqCh.idle with pendRange := some (true, 7) })] } }
    [(.acq, 0, acO 0 0, 1), (.acq, 0, acO 23 0, 9), (.acq, 0, 0x40, 0x3F)]

theorem wit_AcqEvents :
    let k : Cal := { mask := 1, start := 5, step := 0, edges := [] }
    let fault : State := { acqS with acq := { acqS.acq with ch := [(0, { AcqCh.idle with mdFault := true })] } }
    acOn live 0 = false ∧ isUp (without .acq) .acq = false ∧ acOn acqS 0 = true ∧ acOn acqS 23 = true ∧ isUp acqS .acq = true ∧
      (acOf acqS 0).cfgFault = false ∧ (acOf acqS 0).mdFault = false ∧ flag acqS .acq 0x40 (23 / 4) = true ∧
      (acOf fault 0).mdFault = true ∧ flag live .acq 0x40 0 = false ∧ (acOf acqS 0).pendRange = none ∧
      (acOf acqS 23).pendRange = some (true, 7) ∧ live.acq.cal = none ∧ k.step < calReps live ∧
      calReps live ≤ ({ k with step := calReps live } : Cal).step := by decide +kernel

def lab (n : Nat) : Label := { sec := 100, k := n, n := n, quality := 0, epoch := 0, step := false }

def phxS : State :=
  withRegs
    { live with phx := { live.phx with
        hist := [{ label := lab 3, chans := [], window := false, members := 0, delivered := 0 }]
        todo := 1, regen := true, hdone := [(255, { first := 0, len := 2880, dref := 0, nosync := false })]
        pub := [(63, ⟨1, 0, none, []⟩)] } }
    [(.phx, 0, 0x27E0, 3), (.phx, 0, 0x27E4, 0x01000000)]

theorem wit_PhasorEvents :
    let u : UdpPdu := { srcIp := 0, dstIp := 0, srcPort := 0, dstPort := 0, ttl := 0, tos := 0, payload := [] }
    let c : State := { phxS with swc := { phxS.swc with cls := [(0, toSub)] } }
    enabled c .phx = true ∧ isUp c .phasor = true ∧ classified c 63 (frame (.udp u)) 0 = true ∧
      classified phxS 63 (frame (.udp u)) 0 = false ∧ enabled phxS .phx = true ∧ isUp phxS .phasor = true ∧ phxS.phx.todo ≠ 0 ∧ (phxS.phx.hist[phxS.phx.todo - 1]?).isSome = true ∧
      live.phx.todo = 0 ∧ (findK phxS.phx.hdone 255).isSome = true ∧ findK live.phx.hdone 0 = none ∧ phxS.phx.regen = true ∧
      (pubOf phxS 63).state ≠ 0 ∧ (pubOf phxS 63).state ≠ 3 ∧ pubEntry phxS 63 1 24 8 ≠ 0 ∧ pubEntry phxS 63 0 0 1 = 1 ∧
      pubEntry phxS 63 0 1 1 = 1 ∧ pubEntry phxS 0 0 0 1 = 0 ∧ (frame (.udp u)).pdu = .udp u := by decide +kernel

def quarter (n : Nat) : QInt :=
  { first := lab n, u := [230000, 230000, 230000], dfreq := 0, u2 := 0, u0 := 0, thdu := [0, 0, 0], thdi := [0, 0, 0], flagged := false,
    incomplete := false, nosync := false }

def nrgS : State :=
  withRegs
    { live with nrg := { live.nrg with
        snapReq := some 66
        meters := [(66, { Meter.new with basic := (List.range 15).map quarter, agg10m := [quarter 0], agg2h := [quarter 0], fLast := some 0 })] } }
    [(.nrg, 0, mtO 66 0, 9)]

theorem wit_EnergyEvents :
    let pf : State := { live with aon := { live.aon with pf := true } }
    nrgOn live = true ∧ pf.aon.pf = true ∧ live.aon.pf = false ∧ live.nrg.snapReq = none ∧ nrgS.nrg.snapReq = some 66 ∧
      nrgOn partS = false ∧ live.fuse.variant ≠ .s ∧ mtOn live 0 = false ∧ mtOn nrgS 66 = true ∧ mtF nrgS 66 0 3 1 = 1 ∧
      15 ≤ (mtOf nrgS 66).basic.length ∧ (aggregate 66 ((mtOf nrgS 66).basic.take 15) (intervalFreq (mtOf nrgS 66) (mtOf nrgS 66).fDone)).isSome = true ∧
      (aggregate 66 (mtOf nrgS 66).agg10m (intervalFreq (mtOf nrgS 66) (mtOf nrgS 66).fTen)).isSome = true ∧ (aggregate 66 (mtOf nrgS 66).agg2h (meanOf ((mtOf nrgS 66).agg2h.map fun q => q.dfreq))).isSome = true := by decide +kernel

/-- A meter whose channels hold a cycle of samples. -/
theorem wit_VoltageEvent :
    let a : ASet :=
      { label := lab 3, chans := [{ ch := 0, value := 325269, flags := 0, quality := 0 }], window := false, members := 0, delivered := 0 }
    let s : State := { nrgS with phx := { nrgS.phx with hist := List.replicate 300 a } }
    mtOn s 66 = true ∧ (mtOf s 66).fault = 0 ∧ mtF s 66 0 3 1 = 1 ∧ f0Hz s = 50 ∧
      (roundTiesUp 14400000000 ((f0Hz s : Int) * 1000000).toNat).toNat = 288 ∧
      ((mtV s 66).map fun c => halfRms s c 288) = (List.replicate 3 (288 * 325269 ^ 2)).map some := by decide +kernel

def evt0 : TwEvent :=
  { t0 := 0, m0 := 0, members := [], seen := [], refl := [], moreRefl := [], reported := false, windowDone := false, rearmed := false, stepped := false,
    seq := 1, supp := 0, cfg := List.replicate 84 0 }

def line0 : TwLine := { event := none, supp := 0, seq := 0, copies := [], lastRx := none, recSec := none }

def twS (l : TwLine) : State := { live with twv := { live.twv with line := [(7, l)] } }

/-- A module that classifies every frame of UDP to the subscriber and the report receiver, with a line and its port. -/
def reports : State :=
  withRegs { live with swc := { live.swc with cls := [(0, toSub)] } } [(.twv, 0, tlO 7 8, 9), (.twv, 0, tlO 7 0x14, 9), (.twv, 0, 0x48, 18871)]

theorem wit_TwaveEvents :
    let ch : TwCh :=
      { taken := 5, next := 5, recent := [], chg := none, armed := false, since := 0, quiet := 0, invalid := false, detCnt := 0,
        det := [4], waves := [] }
    let s : State := { live with twv := { live.twv with ch := [(23, ch)] } }
    let run : State := { acqS with acq := { acqS.acq with ch := [(23, { AcqCh.idle with nextEdge := 100, tapNext := 3 })] } }
    let p := le 4 0x52545754 ++ le 2 1 ++ le 2 72 ++ le 8 0 ++ le 4 9 ++ List.replicate 30 (0 : Byte) ++ [1] ++ List.replicate 21 0
    let u (port : BitVec 16) (b : List Byte) : UdpPdu :=
      { srcIp := 0, dstIp := 0, srcPort := 0, dstPort := port, ttl := 0, tos := 0, payload := b }
    let c : TwCopies := { due := 5, left := 2, report := [], cfg := [] }
    tapRuns live 0 = false ∧ tapRuns run 23 = true ∧ run.tim.rephase = false ∧ 8 * (acOf run 23).tapNext < (acOf run 23).nextEdge ∧
      (acOf acqS 23).nextEdge ≤ 8 * (acOf acqS 23).tapNext ∧
      (twOf live 0).det = [] ∧ (twOf s 23).det = 4 :: [] ∧ twvOn s = true ∧ (lnOf live 0).event = none ∧
      (lnOf (twS { line0 with event := some evt0 }) 7).event = some evt0 ∧ evt0.reported = false ∧ evt0.windowDone = false ∧
      (lnOf (twS { line0 with copies := [c] }) 7).copies = c :: [] ∧ (lnOf live 0).copies = [] ∧
      twvOn reports = true ∧ classified reports 63 (frame (.udp (u 18871 p))) 0 = true ∧
      classified live 63 (frame (.udp (u 18871 p))) 0 = false ∧ (u 18871 p).dstPort.toNat = fld reports .twv 0x48 0 16 ∧
      (u 18870 p).dstPort.toNat ≠ fld reports .twv 0x48 0 16 ∧ ([] : List Byte).length < 56 ∧
      p.length = 72 ∧ numAt p 50 1 = 1 ∧ numAt p 6 2 = p.length ∧ p.length = 56 + 16 * numAt p 50 1 ∧
      numAt p 0 4 = 0x52545754 ∧ numAt p 4 2 = 1 ∧ flag reports .twv 0x48 16 = false ∧ (lnOf reports 7).lastRx = none ∧
      (List.range 8).find? (fun n => (lineCfg reports n).getD 5 0 == numAt p 16 4) = some 7 := by decide +kernel

/-! ### Recorder, decisions, Spindle and the safety island -/

def fire (n : Nat) : Firing :=
  { unit := 64, cond := 0, src := 0, instant := ((lab n).units : Int), stamp := nowStamp live, value := 0, moved := false, same := false }

def gge (g : GgeState) (l : List Firing) : State :=
  { live with gge := { live.gge with
      state := g, arrived := l, frames := [{ label := lab 5, bi := 0, bo := 0, trip := 0, words := [] }] } }

def openRec : GRec :=
  { num := 1, trigger := nowStamp live, instant := 0, gt := 1, gtK := 0, pre := 0, post := 0, limit := 0, preTrue := 0, last := 0,
    firings := [fire 1], more := false, limited := false, preShort := false, twShort := false, twCut := false, twPre := 0, twFirst := 0,
    twLast := 0, twAnchor := 0, off := 0, pages := 1, supp := 0, framesDone := 0, rowsDone := 0 }

theorem wit_RecorderEvents :
    let r : State :=
      { gge .recording [] with
        gge := { (gge .recording []).gge with opened := some openRec, act := [] }
        svs := { live.svs with lastRel := some (lab 9) } }
    let full : State := { live with gge := { live.gge with recs := [{ num := 1, off := 0, pages := 262080, recording := true }] } }
    ggeOn (without .acq) = false ∧ ggeOn live = true ∧ live.gge.state = .disarmed ∧ (gge .armed [fire 5]).gge.state = .armed ∧
      r.gge.state = .recording ∧ r.gge.opened = some openRec ∧ openRec.firings.length < 16 ∧ (gge .rearm []).gge.state = .rearm ∧
      (gge .blocked []).gge.state = .blocked ∧ isUp live .memory = true ∧ (gge .armed []).gge.arrived = [] ∧
      (gge .armed [fire 5]).gge.arrived = fire 5 :: [] ∧ (grainAt (gge .armed []) (fire 5).instant).isSome = true ∧
      flag live .gge 0x40 1 = false ∧ storePlace full 1 = none ∧ (storePlace live 1).isSome = true ∧
      (ggeFill live).gge.opened = none ∧ recComplete (ggeFill r) openRec = true ∧ ggeOn (ggeFill r) = true ∧
      (ggeFill r).gge.opened = some openRec ∧ recComplete (ggeFill (gge .recording [])) openRec = false := by decide +kernel

def mine (i : Nat) : State :=
  withRegs { live with slc := { live.slc with s := [(i, inState .active)] } } [(.dec, 0, 0x9C, 0x7F7F7F7F - 0x7F000000 + i * 0x1000000)]

theorem wit_DecisionEvents :
    let gs : GooseState := { data := [], invalid := [], subst := [], t := nowStamp live }
    let p : State :=
      { live with dec := { live.dec with pub := [(255, { GPub.new with state := 1, last := some gs, active := true })] } }
    isUp live .rt = true ∧ isUp live .app = true ∧ windowClosed (slOf (mine 63) 63) = false ∧ wordOwner (mine 63) 31 = 63 ∧
      wordOwner (mine 63) 0 ≠ 63 ∧ windowClosed (slOf live 0) = true ∧ isUp (without .rt) .rt = false ∧
      isUp (without .app) .app = false ∧ live.dec.word.length = 32 ∧ (∀ e ∈ live.dec.pub, e.2.state ≠ 1) ∧
      (gpOf p 255).last = some gs ∧ (gpOf p 255).state = 1 ∧ (gpOf p 255).active = true ∧ tokenOk p = true ∧
      isUp p .stream = true ∧ bit (reg live .dec 0 0x800) 16 = false ∧ ¬ 20000000 < fld live .dec 0x800 0 15 * 500 := by decide +kernel

def spin (inCycle : Bool) : State :=
  { live with spn := { live.spn with state := .running, cur := some { addr := 0x50004000, len := 160 }, inCycle := inCycle } }

theorem wit_SpindleEvents :
    spnOn live = true ∧ live.spn.state ≠ .running ∧ spnOn (without .rt) = false ∧ (spin true).spn.state = .running ∧
      (spin true).spn.inCycle = true ∧ (spin false).spn.inCycle = false ∧ spnOn (spin false) = true ∧ live.spn.cur = none := by
  decide +kernel

theorem wit_GooseDecode :
    let s : State := { live with spn := { live.spn with inbox := [(5, [1, 2])] } }
    isUp s .rt = true ∧ s.spn.inbox = (5, [1, 2]) :: [] ∧ s.spn.cur = none ∧ (spin true).spn.inbox = [] := by decide +kernel

theorem wit_SpindleCommandsRun :
    (forceSet (spin false) 0xFFFF001F 0xFFFFFFFF 1).isSome = true := by decide +kernel

def drive (d : Nat) (x : Drive) : State :=
  withRegs { live with sfi := { live.sfi with drive := modAt live.sfi.drive d fun _ => x } } [(.sfi, 0, sdO d 0, 1)]

theorem wit_SafetyPadsGated :
    let s : State := { live with sfi := { live.sfi with cmd := 0x80 } }
    bit (soPads s).toNat 7 = true ∧ (7 : Nat) < 8 ∧ State.reset.clk.forcing = true ∧ tokenOk State.reset = false := by decide +kernel

theorem wit_DriveEvents :
    let mov : Drive := { Drive.reset with state := .moving }
    isUp live .safety = true ∧ live.sfi.drive.length = 4 ∧ drEn live 0 = false ∧ drEn (drive 3 mov) 3 = true ∧
      (drOf (drive 3 mov) 3).state = .moving ∧ posOpen ≠ (drOf (drive 3 mov) 3).pos ∧
      (drOf (drive 0 Drive.reset) 0).state ≠ .moving ∧ (drOf (drive 0 Drive.reset) 0).observed = none ∧
      (let seen : Drive := { Drive.reset with observed := some true }
       drEn (drive 0 seen) 0 = true ∧ (drOf (drive 0 seen) 0).observed = some true ∧ (drOf (drive 0 seen) 0).state ≠ .moving ∧
         posClosed ≠ (drOf (drive 0 seen) 0).pos) ∧
      (3 : BitVec 2) ^^^ (drOf (drive 3 mov) 3).tracks = 3 ∧ (1 : BitVec 2) ^^^ (drOf (drive 3 mov) 3).tracks ≠ 3 ∧
      (1 : BitVec 2) ≠ (drOf (drive 3 mov) 3).tracks := by decide +kernel

theorem wit_SafetyDiagnostics :
    let st (x : SfiState) (t : Bool) : State := { live with sfi := { live.sfi with state := x, tested := t } }
    let locked := withRegs (st .selftest true) [(.sfi, 0, 0x28, 1)]
    isUp live .safety = true ∧ drEn live (7 / 2) = false ∧ drEn (drive 3 Drive.reset) (7 / 2) = true ∧
      live.clk.refclk.stable = true ∧ State.reset.clk.refclk.stable = false ∧
      isUp { live with clk := { live.clk with refclk := ClkSrc.reset } } .safety = true ∧ (st .run false).sfi.state ≠ .selftest ∧ (st .selftest true).sfi.tested = true ∧
      live.sfi.state = .selftest ∧ live.sfi.tested = false ∧ (∀ l, live.aon.safety = some l → l.state ≠ .degraded ∧ l.state ≠ .safe) ∧
      flag locked .sfi 0x28 0 = true ∧ blank locked = false ∧ (st .degraded true).sfi.state = .degraded ∧
      live.sfi.drive.length = 4 := by
  refine ⟨by decide +kernel, by decide +kernel, by decide +kernel, rfl, rfl, by decide +kernel, by decide +kernel, rfl, rfl, rfl, ?_,
    by decide +kernel, by decide +kernel, rfl, rfl⟩
  rintro l ⟨⟩

/-! ### The pair -/

def inPair (m : MState) : State := { live with rdn := { live.rdn with mstate := m } }

theorem wit_PairPinEvents :
    let t : State := { inPair .taking with rdn := { (inPair .taking).rdn with gapFrom := some 5, takeCode := 1 } }
    rdnOn live = true ∧ isUp live .rt = true ∧ (inPair .headstock).rdn.mstate ≠ .taking ∧ t.rdn.mstate = .taking ∧
      t.rdn.tokIn = false ∧ t.rdn.healthy = true ∧ t.rdn.gapFrom = some 5 ∧ t.rdn.takeCode = 1 := by decide +kernel

def linked (e : Elade) : State := { bench with rdn := { bench.rdn with elade := e } }

def sent (n : Nat) : LinkFrame := mkLink 3 1 n [1]

def greeting : Hello :=
  { pairId := BitVec.ofNat 32 (reg bench .rdn 0 0x48), side := 1, lot := 3, die := 4, nonce := List.replicate 16 7, tag := [] }

def signed (h : Hello) : Hello := { h with tag := kmac256 key (helloBytes h) 32 (ascii "ASDAR-ELADE") }

/-- A link that is up with two frames unacknowledged, and one that waits for the answer to its nonce. -/
def linkUp : State :=
  linked { Elade.reset with up := true, mig := { LinkCls.reset with unacked := [sent 0, sent 1], retries := 7 } }

def linkWait : State := linked { Elade.reset with nonce := List.replicate 16 7 }

theorem helloOk_signed (s : State) (h : Hello) (k : loadSym s (fld s .rdn 0x4C 8 6) 3 = (s, some key))
    (g : (h.pairId.toNat == reg s .rdn 0 0x48 && h.side.toNat != rdnSide s) = true) : helloOk s (signed h) = (s, true) := by
  have e : helloTag s (signed h) = (s, some (signed h).tag) := by simp only [helloTag, k]; rfl
  unfold helloOk
  rw [e]
  refine congrArg (Prod.mk s) ?_
  show ((signed h).tag == (signed h).tag && h.pairId.toNat == reg s .rdn 0 0x48 && h.side.toNat != rdnSide s) = true
  rw [beq_self_eq_true, Bool.true_and]
  exact g

theorem wit_LinkEvents :
    (rdnOn bench = true ∧ bench.rdn.elade.up = false ∧ linkUp.rdn.elade.up = true ∧ (linkCls live 1).unacked = [] ∧
      (linkCls linkUp 3).unacked ≠ [] ∧ 7 ≤ (linkCls linkUp 3).retries ∧ (linkCls live 3).retries < 7 ∧
      linkCrcOk (sent 0) = true ∧ (sent 0).cls.toNat = 3 ∧ (sent 0).seq.toNat = (linkCls linkUp 3).nextRx ∧
      (sent 1).seq.toNat ≠ (linkCls linkUp 3).nextRx ∧ linkCrcOk { sent 0 with hdrCrc := 0 } = false) ∧
    ((helloOk live greeting).2 = false ∧ bench.rdn.elade.ackOk = false ∧ padTo 16 greeting.nonce ≠ bench.rdn.elade.nonce ∧
      padTo 16 greeting.nonce = linkWait.rdn.elade.nonce ∧ linkWait.rdn.elade.ackSent = false) ∧
    (helloOk bench (signed greeting)).2 = true ∧ (helloOk linkWait (signed greeting)).2 = true := by
  refine ⟨by decide +kernel, by decide +kernel, ?_, ?_⟩
  · rw [helloOk_signed bench _ (by decide +kernel) (by decide +kernel)]
  · rw [helloOk_signed linkWait _ (by decide +kernel) (by decide +kernel)]

def arbFrame (type : BitVec 16) (sender : BitVec 8) (flags : BitVec 16) : ArbFrame :=
  { type := type, counter := 8, pairId := BitVec.ofNat 32 (reg bench .rdn 0 0x48), sender := sender, code := 1, flags := flags, epoch := 2,
    echo := 6, health := 0, lot := 0, die := 0, time := List.replicate 16 0, tag := [], src := 9 }

def tagged (f : ArbFrame) : ArbFrame := { f with tag := kmac256 key (arbBytes f) 32 (ascii "ASDAR-ARB") }

theorem arbVerify_tagged (s : State) (f : ArbFrame) (h : loadSym s (fld s .rdn 0x4C 0 6) 2 = (s, some key))
    (g : f.pairId.toNat = reg s .rdn 0 0x48) : arbVerify s (tagged f) = (s, true) := by
  have e : arbTag s (tagged f) = (s, some (tagged f).tag) := by simp only [arbTag, h]; rfl
  unfold arbVerify
  rw [if_neg (fun c => c g), e]
  exact congrArg (Prod.mk s) (beq_self_eq_true _)

/-- A side that waits for an answer to its counter 6. -/
def asked : State := { bench with rdn := { bench.rdn with mstate := .requesting, takeCtr := 6 } }

theorem wit_ArbiterAnswers :
    ((arbAccept live (arbFrame 0x20 0xFF 0)).2 = false ∧ rdnOn asked = true ∧ rdnRole asked = false ∧ bench.rdn.mstate ≠ .requesting ∧
      rdnOn (without .rt) = false) ∧
    ((arbAccept asked (tagged (arbFrame 0x20 0xFF 0))).2 = true ∧
      (arbAccept asked (tagged (arbFrame 0x20 0xFF 0))).1.rdn.mstate = .requesting) ∧
    (arbAccept bench (tagged (arbFrame 0x22 0xFF 0))).2 = true := by
  refine ⟨by decide +kernel, ?_, ?_⟩
  · unfold arbAccept
    rw [arbVerify_tagged asked _ (by decide +kernel) (by decide +kernel)]
    decide +kernel
  · unfold arbAccept
    rw [arbVerify_tagged bench _ (by decide +kernel) (by decide +kernel)]
    decide +kernel

/-- The witness of a pair, with its arbiter. -/
def witness (a : Arb) : State :=
  withRegs { bench with rdn := { bench.rdn with mstate := .witness, arb := a } } [(.rdn, 0, 0x40, 1)]

def heldBy0 (t : Int) : Arb := { Arb.reset with holder := some 0, grantedAt := t }

theorem arbHear_tagged (s : State) (f : ArbFrame) (v : arbVerify s f = (s, true)) (h : isArb s = true) (m : f.sender.toNat < 2)
    (c : sideGet s.rdn.arb.last f.sender.toNat < f.counter.toNat) :
    (arbHear s f 0).2 = true ∧ (arbHear s f 0).1.rdn.arb.epoch = max s.rdn.arb.epoch f.epoch.toNat ∧
      (arbHear s f 0).1.rdn.arb.holder = if bit f.flags.toNat 1 then some f.sender.toNat else s.rdn.arb.holder := by
  have d : (!isArb s || decide (2 ≤ f.sender.toNat)) = false := by simp [h, m]
  have e : decide (f.counter.toNat ≤ sideGet s.rdn.arb.last f.sender.toNat) = false := by simpa using c
  simp [arbHear, v, d, e]

theorem heard_by (a : Arb) (m : BitVec 8) (flags : BitVec 16) (h : isArb (witness a) = true) (hm : m.toNat < 2)
    (c : sideGet a.last m.toNat < 8) (k : loadSym (witness a) (fld (witness a) .rdn 0x4C 0 6) 2 = (witness a, some key))
    (g : (arbFrame 0x11 m flags).pairId.toNat = reg (witness a) .rdn 0 0x48) :
    (arbHear (witness a) (tagged (arbFrame 0x11 m flags)) 0).2 = true ∧
      (arbHear (witness a) (tagged (arbFrame 0x11 m flags)) 0).1.rdn.arb.holder =
        if bit flags.toNat 1 then some m.toNat else a.holder := by
  have := arbHear_tagged (witness a) (tagged (arbFrame 0x11 m flags)) (arbVerify_tagged _ _ k g) h hm c
  exact ⟨this.1, this.2.2⟩

/-- The arbiter hears the holder, the other side, and a side while nobody holds. -/
theorem wit_ArbiterEvents :
    (isArb live = false ∧ isArb (witness (heldBy0 0)) = true ∧ (witness (heldBy0 0)).rdn.arb.probing = none ∧
      (witness { heldBy0 0 with probing := some (arbFrame 0x11 1 1, 0, false) }).rdn.arb.probing =
        some (arbFrame 0x11 1 1, 0, false) ∧
      (arbHear (witness (heldBy0 0)) { arbFrame 0x11 1 1 with pairId := 77 } 0).2 = false ∧
      200000000 ≤ arbNow (witness (heldBy0 0)) - (heldBy0 0).grantedAt ∧
      arbNow (witness (heldBy0 0)) - (heldBy0 (arbNow (witness (heldBy0 0)))).grantedAt < 200000000 ∧
      bit (5 : Nat) 0 = true ∧ bit (5 : Nat) 2 = true ∧ bit (4 : Nat) 0 = false) ∧
    (arbHear (witness (heldBy0 0)) (tagged (arbFrame 0x11 0 1)) 0).2 = true ∧
    (arbHear (witness (heldBy0 0)) (tagged (arbFrame 0x11 1 1)) 0).2 = true ∧
    (arbHear (witness Arb.reset) (tagged (arbFrame 0x11 1 5)) 0).2 = true := by
  refine ⟨by decide +kernel, ?_, ?_, ?_⟩
  · exact (heard_by _ _ _ (by decide +kernel) (by decide) (by decide +kernel) (by decide +kernel) (by decide +kernel)).1
  · exact (heard_by _ _ _ (by decide +kernel) (by decide) (by decide +kernel) (by decide +kernel) (by decide +kernel)).1
  · exact (heard_by _ _ _ (by decide +kernel) (by decide) (by decide +kernel) (by decide +kernel) (by decide +kernel)).1

/-! ### Chuck, clocks, Tool rest, resets and power -/

theorem wit_ChuckCommands : live.fuse.debug = false ∧ (ready live hst 0x6001 (List.replicate 30 0)) = true := by decide +kernel

/-- A copy that is written reads back, so that a commit begins while Memory is up. -/
theorem commitKey_runs (s : State) (kind n op ctr : Nat) (v : List Byte) (id : Word) (usage : BitVec 16)
    (h : isUp s .memory = true) : (commitKey s kind n op ctr v id usage).isSome = true := by
  unfold commitKey
  simp only [rdBytes_wrBytes, beq_self_eq_true, Bool.and_true]
  split <;> exact (congrArg Option.isSome (if_pos h)).trans rfl

/-- A commit that is begun, and the stages of one. -/
theorem wit_KeyCommitted :
    (∃ t, commitKey live 0 1 1 5 [1, 2, 3, 4] 7 0xFFFF = some t) ∧ (5 : Nat) < 2 ^ 64 ∧ ((0, 0) : Nat × Nat) ≠ (0, 1) ∧
    let u (p : Nat) : Upd :=
      { kind := 0, slot := 1, op := 1, copy := true, erase := false, tag := [], minSvn := 0, ctr := 5, phase := p, result := none }
    let s (p : Nat) : State := { live with chk := { live.chk with upd := some (u p) } }
    (∀ p, (s p).chk.upd = some (u p)) ∧ (u 2).kind ≠ 3 ∧ (u 2).op ≠ 8 ∧ isUp (s 0) .memory = true ∧ (s 0).aon.pf = false :=
  ⟨Option.isSome_iff_exists.mp (commitKey_runs _ _ _ _ _ _ _ _ (by decide +kernel)), by decide, by decide, fun _ => rfl,
    by decide, by decide, by decide +kernel, rfl⟩

theorem wit_ChuckRecorderEvents :
    let old : State := { live with chk := { live.chk with booted := false } }
    let full : State := { live with evr := { live.evr with count := 1048576, full := true } }
    isUp (without .security) .security = false ∧ isUp live .security = true ∧ live.chk.booted = true ∧ old.chk.booted = false ∧
      isUp live .memory = true ∧ live.evr.count < 1048576 ∧ live.evr.buf.length < 8192 ∧ full.evr.count = 1048576 ∧
      isUp (without .memory) .memory = false := by decide +kernel

theorem wit_ClockEvents :
    let rc : State := { live with clk := { live.clk with sysOnRc := true } }
    let off : State := withRegs live [(.clk, 0, 0x48, 0)]
    let lost : State := { live with aon := { live.aon with rstLoss := 0x1000 } }
    State.reset.aon.por = true ∧ live.aon.por = false ∧ (srcOf State.reset (refOf .refclk)).stable = false ∧
      (srcOf live (refOf .refclk)).stable = true ∧ (srcOf live .refclk).stable = true ∧ (srcOf State.reset .refclk).stable = false ∧
      Source.refclk ≠ .rc ∧ pllIslands.contains .aon = false ∧ pllIslands.contains .memory = true ∧
      clkEn live (islNum .memory) = true ∧ clkEn off 1 = false ∧ lost.aon.rstLoss.toNat.testBit (islNum .memory) = true ∧
      live.aon.rstLoss.toNat.testBit (islNum .memory) = false ∧ sysRef rc = true ∧ rc.clk.sysPend = false ∧
      rc.clk.sysOnRc = true := by decide +kernel

theorem wit_ToolRestAndPowerEvents :
    let f : State := { live with clk := { live.clk with forcing := true } }
    let deep : State := withRegs { live with aon := { live.aon with pwr := 2 } } [(.aon, 0, 0x48, 1)]
    let pf : State := { live with aon := { live.aon with pf := true } }
    let begun : Upd :=
      { kind := 0, slot := 1, op := 1, copy := true, erase := false, tag := [], minSvn := 0, ctr := 5, phase := 1, result := none }
    (({ live.chk with upd := some begun } : Chk).upd.any fun c => decide (1 ≤ c.phase)) = true ∧
    live.clk.forcing = false ∧ f.clk.forcing = true ∧ f.clk.cause = 0 ∧ causeNow live = 0 ∧ causeNow State.reset ≠ 0 ∧
      deep.aon.pwr = 2 ∧ fld deep .aon 0x48 0 22 ≠ 0 ∧ fld live .aon 0x48 0 22 = 0 ∧ pf.aon.pf = true ∧ live.aon.pf = false ∧
      live.aon.por = false := by decide +kernel

theorem wit_ResetEvents :
    startReady State.reset = false ∧ live.aon.pinLow = false ∧ live.aon.pinArmed = true ∧
      ({ live.aon with pinLow := true } : Aon).pinLow = true ∧ live.aon.starting = none := by decide +kernel

/-! ### What the checks of a command refuse -/

def okPtp : PtpMsg :=
  { type := .sync, domain := 0, clockId := 1, portNum := 1, seqId := 0, twoStep := false, correction := 0, sec := 5, ns := 0,
    reqClockId := 0, reqPortNum := 0 }

def okAnn : Announce :=
  { domain := 0, clockId := 1, portNum := 1, seqId := 0, gmPriority1 := 128, gmClass := 6, gmAccuracy := 0x21, gmVariance := 0,
    gmPriority2 := 128, gmId := 1, stepsRemoved := 0, utcOffset := 37, utcValid := true, leap61 := false, leap59 := false,
    tlvInacc := none }

def okSv : SvPdu :=
  { appid := 0x4000, sim := false, svId := [], asdus := [{ smpCnt := 0, smpSynch := 2, elems := [] }], ext := none, formatOk := true }

def okGoose : GoosePdu :=
  { appid := 1, sim := false, gocbRef := [], datSet := [], goId := [], tal := 2000, t := List.replicate 8 0, stNum := 1, sqNum := 0,
    test := false, confRev := 1, ndsCom := false, numEntries := 0, allData := [], ext := none, formatOk := true }

def okHello : Hello := { pairId := 1, side := 0, lot := 0, die := 0, nonce := List.replicate 16 0, tag := List.replicate 32 0 }

def okArb : ArbFrame := { arbFrame 0x11 0 0 with tag := List.replicate 32 0 }

/-- R73: the length of a frame is a number of 16 bits. -/
theorem test_wf_frame_length : (Instr.frameReceive 0 { frame (.raw []) with len := 65536 } 0).wf = false ∧
    (Instr.frameReceive 0 (frame (.raw [])) 0).wf = true ∧ (Instr.linkDown 0 (some (frame (.raw []), 65))).wf = false ∧
    (Instr.linkDown 0 (some (frame (.raw []), 64))).wf = true := by decide

/-- R56: seconds, nanoseconds and correction of a PTP message within their fields. -/
theorem test_wf_ptp : (Instr.ptpFrameReceive 0 (frame (.ptp { okPtp with ns := 1000000000 })) 0).wf = false ∧
    (Instr.ptpFrameReceive 0 (frame (.ptp { okPtp with sec := 2 ^ 48 })) 0).wf = false ∧
    (Instr.ptpFrameReceive 0 (frame (.ptp { okPtp with correction := 2 ^ 63 })) 0).wf = false ∧
    (Instr.ptpFrameReceive 0 (frame (.ptp { okPtp with correction := -2 ^ 63 - 1 })) 0).wf = false ∧
    (Instr.ptpFrameReceive 0 (frame (.ptp okPtp)) 0).wf = true := by decide

/-- R55: the two fields of an Announce that are numbers. -/
theorem test_wf_announce : (Instr.announceReceive 0 (frame (.ann { okAnn with stepsRemoved := 65536 }))).wf = false ∧
    (Instr.announceReceive 0 (frame (.ann { okAnn with utcOffset := 65536 }))).wf = false ∧ (Instr.announceReceive 0 (frame (.ann okAnn))).wf = true := by decide

/-- R119: the numbers of an SV ASDU. -/
theorem test_wf_sv :
    (Instr.subscriberFrame 0 (frame (.sv { okSv with asdus := [{ smpCnt := 65536, smpSynch := 2, elems := [] }] })) 0).wf = false ∧
    (Instr.subscriberFrame 0 (frame (.sv { okSv with asdus := [{ smpCnt := 0, smpSynch := 256, elems := [] }] })) 0).wf = false ∧
    (Instr.subscriberFrame 0 (frame (.sv { okSv with asdus := [{ smpCnt := 0, smpSynch := 2, elems := [], smpMod := some 65536 }] })) 0).wf = false ∧
    (Instr.subscriberFrame 0 (frame (.sv okSv)) 0).wf = true := by decide

/-- R119, R136: the numbers of a GOOSE frame. -/
theorem test_wf_goose : (Instr.subscriberFrame 0 (frame (.goose { okGoose with stNum := 2 ^ 32 })) 0).wf = false ∧
    (Instr.subscriberFrame 0 (frame (.goose { okGoose with sqNum := 2 ^ 32 })) 0).wf = false ∧
    (Instr.subscriberFrame 0 (frame (.goose { okGoose with confRev := 2 ^ 32 })) 0).wf = false ∧
    (Instr.subscriberFrame 0 (frame (.goose { okGoose with tal := 2 ^ 32 })) 0).wf = false ∧
    (Instr.subscriberFrame 0 (frame (.goose okGoose)) 0).wf = true := by decide

/-- R37: the argument length of a command message has 16 bits. -/
theorem test_wf_message : (Instr.consoleMessage { opcode := 0, flags := 0, argLen := 65536, tag := 0, args := [] }).wf = false ∧
    (Instr.debugMessage { opcode := 0, flags := 0, argLen := 65535, tag := 0, args := [] }).wf = true := by decide

/-- R325, R326, R328, R331: the fixed sizes of what the pair exchanges. -/
theorem test_wf_pair : (Instr.grant { okArb with tag := [] }).wf = false ∧ (Instr.arbTake { okArb with time := [] } 0).wf = false ∧
    (Instr.grant okArb).wf = true ∧
    (Instr.linkFrameReceive { cls := 1, type := 1, seq := 0, hdrCrc := 0, payload := List.replicate 4161 0, payCrc := 0 }).wf = false ∧
    (Instr.hello { okHello with nonce := [] }).wf = false ∧ (Instr.helloAck { okHello with tag := [] }).wf = false ∧
    (Instr.hello okHello).wf = true ∧
    (Instr.hbFrameReceive { health := 0, flags := 0, mstate := 0, epoch := 0, stamp := [] }).wf = false := by decide +kernel

/-- R35, R38, R345 to R351: the sizes of a command's arguments. -/
theorem test_wf_arguments : (Instr.stageWrite con 0 (List.replicate 4077 0)).wf = false ∧
    (Instr.stageWrite con 0 [1]).wf = true ∧ (Instr.chkAttest con (List.replicate 31 0)).wf = false ∧
    (Instr.chkAttest con (List.replicate 32 0)).wf = true ∧ (Instr.keyWrite con 0 0 0 0 2 [1]).wf = false ∧
    (Instr.keyWrite con 0 0 0 0 1 [1]).wf = true ∧ (Instr.keyUpdate con (List.replicate 4081 0)).wf = false ∧
    (Instr.keyUpdate con []).wf = true ∧ (Instr.chkSeal con []).wf = false ∧
    (Instr.chkSeal con (List.replicate 32 0)).wf = true := by decide +kernel

/-! ### The worked examples of the spec -/

/-- Section 2, the worked example of R43: the record clamped, its report entry, and the counters of the block. -/
theorem test_example_clamp_record :
    let a := applyRecord { cls := .internal, index := 4 } 17 { code := 3, inst := 0, off := 8, mask := 5, value := 0 }
      (withRegs live [(.tim, 0, 8, 5)]) { applied := 0, clamped := 0, skipped := 0, total := 0, entries := [] }
    reg a.1 .tim 0 8 = 1 ∧ a.2.applied = 1 ∧ a.2.clamped = 1 ∧ a.2.skipped = 0 ∧
      a.2.entries = [le 4 17 ++ le 2 3 ++ le 2 0 ++ le 4 8 ++ le 1 0 ++ le 1 1 ++ le 1 1 ++ le 1 0 ++ le 4 0 ++ le 4 1] := by
  decide +kernel

/-- Section 3, the worked example of R62: eight refused offsets with JUMP_ACCEPT 1 set the time back by 4,204 ns; with
JUMP_ACCEPT 0 the servo enters HOLDOVER and PERSIST sets. -/
theorem test_example_jump :
    let go (s : State) := [4210, 4180, 4230, 4195, 4205, 4220, 4190, 4200].foldl (fun s th => takeOffset s (th * 65536) false) s
    let a := go (withRegs live [(.tim, 0, 0x40, 0x40), (.tim, 0, 0x44, 1000)])
    let b := go (withRegs live [(.tim, 0, 0x40, 0), (.tim, 0, 0x44, 1000)])
    live.tim.time - a.tim.time = 4204 * nsU ∧ a.tim.servo = .finishing ∧ a.tim.epoch = 1 ∧ reg a .tim 0 0x90 = 8 ∧
      reg a .tim 0 0x94 = 1 ∧ reg a .tim 0 0x98 = 0 ∧ b.tim.servo = .holdover ∧ b.tim.persist = true ∧ b.tim.quality = 1 ∧
      b.tim.time = live.tim.time := by decide +kernel

/-- Section 7, the worked example of R144: 25 × 4 × 20 = 2,000, so the rate check holds. -/
theorem test_example_rate :
    rateOk (withRegs live [(.acq, 0, 0x60, 67 + 20 * 2 ^ 16), (.acq, 0, acO 9 0, 1 + 25 * 2 ^ 8)]) 9 = true ∧
      rateOk (withRegs live [(.acq, 0, 0x60, 67 + 21 * 2 ^ 16), (.acq, 0, acO 9 0, 1 + 25 * 2 ^ 8)]) 9 = false := by decide +kernel

/-- Section 9, the worked example of R195: an hour of 1,800 MW is 1,800,000,000,000 mWh, and takes VALUE past 2^48. -/
theorem test_example_energy :
    (increment (1800000000, 0) * (3600 * 14400) + 2 ^ 31) / 2 ^ 32 = 1800000000000 ∧
      accAdd [0x2FFFFF0000000 * 2 ^ 32] 0 (1800000000000 * 2 ^ 32) = [(3 * 2 ^ 48 + 1799731564544) * 2 ^ 32] := by decide +kernel

/-- R263, and the RISC-V privileged architecture's Sv39x4: a leaf of 1 GiB at index 1 of the root maps guest address
0x4000_0123; without its D bit a write is guest page fault 23; with the directory off every access is fault 256. -/
theorem test_second_stage :
    let at1 (m pte : Nat) : State := wrBytes (withRegs live
      [(.apc, 0, ioOff 0x10, m), (.slc, 0, slOff 0 8, 0x800004), (.slc, 0, slOff 0 0xC, 8 * 2 ^ 28)]) 0x800004008 (le 8 pte)
    slTranslate (at1 1 (0x840000 * 1024 + 0xDF)) 0 0x40000123 true = .at 0x840000123 0x40000123 ∧
      slTranslate (at1 1 (0x840000 * 1024 + 0x5F)) 0 0x40000123 true = .fault 23 0x40000120 ∧
      slTranslate (at1 1 (0x840000 * 1024 + 0xDF)) 0 0x80000000 false = .fault 21 0x80000000 ∧
      slTranslate (at1 0 (0x840000 * 1024 + 0xDF)) 0 0x40000123 true = .fault 256 0 := by decide +kernel

/-- FIPS 197, appendix C.3: one block under a key of 256 bits. -/
theorem test_aes256_block :
    aesDecrypt (roundKeys (List.range 32))
      ((be 16 0x8EA2B7CA516745BFEAFC49904B496089).map BitVec.toNat) = (List.range 16).map (17 * ·) := by decide +kernel

/-- R391, R10: the start of a new module after power-on releases every island and runs the delivered firmware; it stays blank. -/
theorem test_start_of_new_module :
    let z : State := { State.reset with
      aon := { Aon.reset with por := false, starting := some 1 },
      clk := { Clk.reset with refclk := good, serdes := good, rc := good, lock := 0x1FFF } }
    let t := startNow z
    startReady z = true ∧ t.aon.inReset = 0 ∧ t.chk.recovery = false ∧ t.chk.booted = true ∧ t.nv.startCount = 1 ∧
      blank t = true ∧ t.rdn.cmdOk = true := by decide +kernel

end Sys2Proof.Tests
end

/-!
The page and the commands of a unit fused off (R3): what the shared operations on such a page come to, and the obligation O11
assembled from them.
-/

namespace Sys2Proof.Machine

/-! ### Block codes -/

theorem ofCode_code (b : Blk) : Blk.ofCode b.code = some b := by cases b <;> rfl

theorem code_lt (b : Blk) : b.code < 65536 := by cases b <;> decide

/-! ### The register page of a unit fused off -/

/-- A slice's window is never fused off: R3 names no part without slices. -/
theorem ne_sw_of_fusedOff {s : State} {b : Blk} {i : Nat} (h : fusedOff s b i = true) : b ≠ .sw := by
  rintro rfl
  exact Bool.false_ne_true h

/-- Neither the island nor the field table has a say in it (assumption 99). -/
theorem accessErr_of_fusedOff {s : State} {b : Blk} {i : Nat} (o : Nat) (h : fusedOff s b i = true) :
    accessErr s b i o = (decide (b.insts ≤ i) || decide (o % 4 ≠ 0)) := by
  have hb : (b == .sw) = false := by simpa using ne_sw_of_fusedOff h
  simp only [accessErr, h, hb, Bool.not_true, Bool.false_and, Bool.or_false]

/-- What a word of the page of a unit fused off reads: PG_ID, and 0 elsewhere (R3). -/
def offWord (b : Blk) (i o : Nat) : Nat := if o = 0 then b.code * 65536 + i else 0

theorem peekWord_of_fusedOff {s : State} {b : Blk} {i : Nat} (o : Nat) (h : fusedOff s b i = true) :
    peekWord s b i o = offWord b i o := by
  simp only [peekWord, offWord, h, if_true]

theorem busRead_of_fusedOff {s : State} {b : Blk} {i o : Nat} (h : fusedOff s b i = true) (he : accessErr s b i o = false) :
    busRead s b i o = (s, some (offWord b i o)) := by
  simp only [busRead, he, h, peekWord_of_fusedOff o h, Bool.false_eq_true, if_false, if_true]

theorem busWrite_of_fusedOff {s : State} {q : Requester} {b : Blk} {i o : Nat} (m v : Nat) (h : fusedOff s b i = true)
    (he : accessErr s b i o = false) : busWrite s q b i o m v = WrRes.none s false true := by
  simp only [busWrite, he, h, Bool.false_eq_true, if_false, if_true]

/-! ### Accesses by address -/

/-- A whole-word write that comes to a page is the page's write. -/
theorem addrWrite_page {s : State} {q : Requester} {b : Blk} {a i o : Nat} (m v : Nat) (hw : wordAt a = some (b, i, o))
    (ha : arrives s q = true) :
    addrWrite s q .word a m v = pageWrite s q b i o (m % 2 ^ 32) (v % 2 ^ 32) := by
  simp only [addrWrite, ha, hw, Bool.not_true, Bool.false_eq_true, if_false, if_true]

/-- A whole-word read that comes to a page and is no error answers the word read. -/
theorem addrRead_page {s t : State} {q : Requester} {b : Blk} {a i o v : Nat} (hw : wordAt a = some (b, i, o))
    (ha : arrives s q = true) (hr : reaches q b i o = true) (hv : busRead s b i o = (t, some v)) :
    addrRead s q .word a = emit t (.readData q a (BitVec.ofNat 64 v)) := by
  simp only [addrRead, ha, hw, hr, hv, Bool.not_true, Bool.false_eq_true, if_false, and_self, if_true]

theorem exec_writeWord_of_fusedOff {s : State} {q : Requester} {b : Blk} {a i o : Nat} (m v : BitVec 64)
    (h : fusedOff s b i = true) (hw : wordAt a = some (b, i, o)) (ha : arrives s q = true) (hr : reaches q b i o = true)
    (he : accessErr s b i o = false) : exec (.writeWord q .word a m v) s = .next (after s s) := by
  have hb := busWrite_of_fusedOff (q := q) (m.toNat % 2 ^ 32) (v.toNat % 2 ^ 32) h he
  have hp : addrWrite s q .word a m.toNat v.toNat = s := by
    rw [addrWrite_page _ _ hw ha, pageWrite_eq _ _ ha hr (by rw [hb]; rfl), hb]
    rfl
  calc exec (.writeWord q .word a m v) s
      = .next (after s (addrWrite s q .word a m.toNat v.toNat)) := topRun_after _ s
    _ = .next (after s s) := by rw [hp]

theorem exec_rcRead_of_fusedOff {s : State} {q : Requester} {b : Blk} {a i o : Nat} (h : fusedOff s b i = true)
    (hw : wordAt a = some (b, i, o)) (ha : arrives s q = true) (hr : reaches q b i o = true)
    (he : accessErr s b i o = false) :
    exec (.rcRead q .word a) s = .next (after s (emit s (.readData q a (BitVec.ofNat 64 (offWord b i o))))) :=
  calc exec (.rcRead q .word a) s
      = .next (after s (addrRead s q .word a)) := topRun_after _ s
    _ = _ := by rw [addrRead_page hw ha hr (busRead_of_fusedOff h he)]

/-! ### REG_READ and REG_WRITE -/

/-- The entry in the journal burns no fuse. -/
theorem fusedOff_opened (s : State) (c : CmdCtx) (op : Nat) (args : List Byte) (b : Blk) (i : Nat) :
    fusedOff (opened s c op args) b i = fusedOff s b i := rfl

theorem accessErr_opened (s : State) (c : CmdCtx) (op : Nat) (args : List Byte) (b : Blk) (i o : Nat) :
    accessErr (opened s c op args) b i o = accessErr s b i o := rfl

/-- The register that the first eight bytes of a command's arguments name. -/
theorem regOf_msgOf (s : State) (c : CmdCtx) (op : Nat) {b : Blk} {i o : Nat} (rest : List Byte) (hi : i < b.insts)
    (ho : o < b.size) (hi16 : i < 65536) (ho32 : o < 2 ^ 32) :
    regOf (msgOf s c op (le 2 b.code ++ (le 2 i ++ (le 4 o ++ rest)))) = some (b, i, o) := by
  have e0 : numAt (le 2 b.code ++ (le 2 i ++ (le 4 o ++ rest))) 0 2 = b.code := by
    exact (numAt_le_first ..).trans (Nat.mod_eq_of_lt (code_lt b))
  have e2 : numAt (le 2 b.code ++ (le 2 i ++ (le 4 o ++ rest))) 2 2 = i := by
    rw [numAt_skip _ 2 _ 0, numAt_le_first]
    exact Nat.mod_eq_of_lt hi16
  have e4 : numAt (le 2 b.code ++ (le 2 i ++ (le 4 o ++ rest))) 4 4 = o := by
    rw [numAt_skip _ 2 _ 2, numAt_skip _ 2 _ 0, numAt_le_first]
    exact Nat.mod_eq_of_lt ho32
  simp only [regOf, msgOf, e0, e2, e4, ofCode_code, hi, ho, and_self, if_true]

theorem regRead_of_fusedOff {s : State} {m : CmdMsg} {b : Blk} {i o : Nat} (hm : regOf m = some (b, i, o))
    (h : fusedOff s b i = true) (he : accessErr s b i o = false) :
    regRead s m = .done s rOk (le 4 (offWord b i o)) := by
  simp only [regRead, hm, busRead_of_fusedOff h he]

theorem regWrite_of_fusedOff {s : State} {m : CmdMsg} {b : Blk} {i o : Nat} (hm : regOf m = some (b, i, o))
    (h : fusedOff s b i = true) (he : accessErr s b i o = false) : regWrite s m = .done s rAbsent [] := by
  simp only [regWrite, hm, busWrite_of_fusedOff _ _ h he, WrRes.none, Bool.false_eq_true, if_false, if_true]

theorem exec_regRead (s : State) (c : CmdCtx) (k i : BitVec 16) (o : Word) :
    exec (.regRead c k i o) s =
      topRun (fun s => direct s c 0x1003 (le 2 k.toNat ++ le 2 i.toNat ++ le 4 o.toNat)) s := rfl

theorem exec_regWrite (s : State) (c : CmdCtx) (k i : BitVec 16) (o m v : Word) :
    exec (.regWrite c k i o m v) s =
      topRun (fun s => direct s c 0x3001
        (le 2 k.toNat ++ le 2 i.toNat ++ le 4 o.toNat ++ le 4 m.toNat ++ le 4 v.toNat)) s := rfl

/-- A command whose opcode executes to an end runs to that end. -/
theorem exec_of_execute_done {x : Instr} {s t : State} {c : CmdCtx} {op r : Nat} {args d : List Byte}
    (hx : exec x s = topRun (fun s => direct s c op args) s) (hop : BitVec.ofNat 16 op ≠ 0x2084)
    (h : ready s c op args = true) (hd : execute (opened s c op args) (msgOf s c op args) = .done t r d) :
    exec x s = .next (after s (ended s c op args t r d)) := by
  rw [hx, topRun_done h hd, afterEnd_ne hop]

/-- The operands of a register command as they stand in its arguments. -/
theorem toNat_regOperands {b : Blk} {i o : Nat} (hi16 : i < 65536) (ho32 : o < 2 ^ 32) :
    (BitVec.ofNat 16 b.code).toNat = b.code ∧ (BitVec.ofNat 16 i).toNat = i ∧ (BitVec.ofNat 32 o).toNat = o :=
  ⟨Nat.mod_eq_of_lt (code_lt b), Nat.mod_eq_of_lt hi16, Nat.mod_eq_of_lt ho32⟩

theorem exec_regRead_of_fusedOff {s : State} {c : CmdCtx} {b : Blk} {i o : Nat} (h : fusedOff s b i = true)
    (hi : i < b.insts) (ho : o < b.size) (he : accessErr s b i o = false) (hi16 : i < 65536) (ho32 : o < 2 ^ 32)
    (hu : unitReady s 0x1003 = true) :
    let args := le 2 b.code ++ le 2 i ++ le 4 o
    ready s c 0x1003 args = true →
      done (.regRead c (BitVec.ofNat 16 b.code) (BitVec.ofNat 16 i) (BitVec.ofNat 32 o)) s c 0x1003 args
        (opened s c 0x1003 args) (le 4 (offWord b i o)) := by
  intro args hr
  obtain ⟨eb, ei, eo⟩ := toNat_regOperands (b := b) hi16 ho32
  refine exec_of_execute_done ?_ (by decide) hr ?_
  · rw [exec_regRead, eb, ei, eo]
  · have hm := regOf_msgOf s c 0x1003 [] hi ho hi16 ho32
    rw [List.append_nil, ← List.append_assoc] at hm
    rw [execute_1003 hu]
    exact regRead_of_fusedOff hm ((fusedOff_opened ..).trans h) ((accessErr_opened ..).trans he)

theorem exec_regWrite_of_fusedOff {s : State} {c : CmdCtx} {b : Blk} {i o : Nat} (m v : Word) (h : fusedOff s b i = true)
    (hi : i < b.insts) (ho : o < b.size) (he : accessErr s b i o = false) (hi16 : i < 65536) (ho32 : o < 2 ^ 32)
    (hu : unitReady s 0x3001 = true) :
    let args := le 2 b.code ++ le 2 i ++ le 4 o ++ le 4 m.toNat ++ le 4 v.toNat
    ready s c 0x3001 args = true →
      exec (.regWrite c (BitVec.ofNat 16 b.code) (BitVec.ofNat 16 i) (BitVec.ofNat 32 o) m v) s =
        .next (after s (ended s c 0x3001 args (opened s c 0x3001 args) rAbsent [])) := by
  intro args hr
  obtain ⟨eb, ei, eo⟩ := toNat_regOperands (b := b) hi16 ho32
  refine exec_of_execute_done ?_ (by decide) hr ?_
  · rw [exec_regWrite, eb, ei, eo]
  · have hm := regOf_msgOf s c 0x3001 (le 4 m.toNat ++ le 4 v.toNat) hi ho hi16 ho32
    simp only [← List.append_assoc] at hm
    rw [execute_3001 hu]
    exact regWrite_of_fusedOff hm ((fusedOff_opened ..).trans h) ((accessErr_opened ..).trans he)

/-! ### Commands and records -/

/-- Outside a power-fail warning a command of a unit fused off ends before it does anything. -/
theorem execute_of_fusedOff {s : State} {m : CmdMsg} {b : Blk} (hl : m.late = false) (hb : unitOf m.opcode.toNat = some b)
    (h : fusedOff s b 0 = true) : execute s m = .done s rAbsent [] := by
  simp only [execute, hl, hb, h, Bool.false_eq_true, false_and, Bool.true_or, if_false, if_true]

/-- A report entry leaves the counts. -/
theorem Report.add_counts (r : Report) (e : List Byte) :
    (r.add e).applied = r.applied ∧ (r.add e).skipped = r.skipped := ⟨rfl, rfl⟩

/-- A record of a page fused off is skipped: as out of range, or with reason 7. -/
theorem applyRecord_of_fusedOff {s : State} (q : Requester) (k : Nat) {e : CfgRec} (r : Report) {b : Blk}
    (hc : e.code = b.code) (h : fusedOff s b e.inst = true) :
    (applyRecord q k e s r).1 = s ∧ (applyRecord q k e s r).2.applied = r.applied ∧
      (applyRecord q k e s r).2.skipped = r.skipped + 1 := by
  simp only [applyRecord, hc, ofCode_code, h, if_true]
  by_cases hrange : b.insts ≤ e.inst ∨ e.off % 4 ≠ 0 ∨ b.size ≤ e.off
  · rw [if_pos hrange]
    exact ⟨rfl, Report.add_counts ..⟩
  · rw [if_neg hrange]
    exact ⟨rfl, Report.add_counts ..⟩

/-- Settles O11: on a page fused off every shared operation leaves the state, by the lemma about that operation. -/
theorem fusedOffPage : Obligations.FusedOffPage := by
  unfold Obligations.FusedOffPage
  intro s b i o h
  refine ⟨fun hi ho _ => ?_, fun q a m v hw ha hr he => ?_, fun hi ho he hi16 ho32 c => ?_, ?_, ?_⟩
  · have hi' : ¬ b.insts ≤ i := by omega
    simp [accessErr_of_fusedOff o h, hi', ho]
  · exact ⟨exec_writeWord_of_fusedOff m v h hw ha hr he, exec_rcRead_of_fusedOff h hw ha hr he⟩
  · exact ⟨fun hr hu => exec_regRead_of_fusedOff h hi ho he hi16 ho32 hu hr,
      fun m v hr hu => exec_regWrite_of_fusedOff m v h hi ho he hi16 ho32 hu hr⟩
  · rintro c op args hop rfl hb hpf
    exact execute_of_fusedOff hpf (by rwa [msgOf_op _ _ _ _ hop]) ((fusedOff_opened ..).trans h)
  · rintro q k e r hc rfl
    exact applyRecord_of_fusedOff q k r hc h

end Sys2Proof.Machine

/-!
Accesses by address (R15, R23 to R27, R220, R408): which of them come to nothing, which end with an error response, and what a
byte of memory holds after the others; the obligation O10 assembled from them.
-/

namespace Sys2Proof.Machine

/-! ### WRITE_WORD and RC_READ -/

theorem exec_writeWord_eq {s t : State} {q : Requester} {n : AccSize} {a : Nat} {m v : BitVec 64}
    (h : addrWrite s q n a m.toNat v.toNat = t) : exec (.writeWord q n a m v) s = .next (after s t) :=
  h ▸ topRun_after _ s

theorem exec_rcRead_eq {s t : State} {q : Requester} {n : AccSize} {a : Nat} (h : addrRead s q n a = t) :
    exec (.rcRead q n a) s = .next (after s t) :=
  h ▸ topRun_after _ s

/-! ### What a refused access is -/

/-- Every class but the host's has its way to the module. -/
theorem arrives_of_ne_host {s : State} {q : Requester} (h : q.cls ≠ .host) : arrives s q = true := by
  simp [arrives, h]

theorem addrWrite_of_not_arrives {s : State} {q : Requester} (n : AccSize) (a m v : Nat) (h : arrives s q = false) :
    addrWrite s q n a m v = s := by
  simp [addrWrite, h]

theorem addrRead_of_not_arrives {s : State} {q : Requester} (n : AccSize) (a : Nat) (h : arrives s q = false) :
    addrRead s q n a = s := by
  simp [addrRead, h]

/-- Off the register map, an access with no place in memory is an error. -/
theorem addrWrite_of_no_place {s : State} {q : Requester} {n : AccSize} {a : Nat} (m v : Nat) (ha : arrives s q = true)
    (hw : wordAt a = none) (hp : memPlace s q a n.bytes true = (s, none)) :
    addrWrite s q n a m v = emit s (.busError q a) := by
  simp [addrWrite, ha, hw, hp]

theorem addrRead_of_no_place {s : State} {q : Requester} {n : AccSize} {a : Nat} (ha : arrives s q = true)
    (hw : wordAt a = none) (hp : memPlace s q a n.bytes false = (s, none)) :
    addrRead s q n a = emit s (.busError q a) := by
  simp [addrRead, ha, hw, hp]

/-- Off the register map, an access with a place in memory is made there. -/
theorem addrWrite_of_place {s : State} {q : Requester} {n : AccSize} {a p : Nat} (m v : Nat) (ha : arrives s q = true)
    (hw : wordAt a = none) (hp : memPlace s q a n.bytes true = (s, some p)) :
    addrWrite s q n a m v = memPut s p n.bytes m v := by
  simp [addrWrite, ha, hw, hp]

theorem addrRead_of_place {s : State} {q : Requester} {n : AccSize} {a p : Nat} (ha : arrives s q = true)
    (hw : wordAt a = none) (hp : memPlace s q a n.bytes false = (s, some p)) :
    addrRead s q n a = emit s (.readData q a (BitVec.ofNat 64 (mapNum s p n.bytes))) := by
  simp [addrRead, ha, hw, hp]

/-! ### Pages -/

theorem accessErr_of_unaligned (s : State) (b : Blk) (i : Nat) {o : Nat} (h : o % 4 ≠ 0) : accessErr s b i o = true := by
  simp [accessErr, h]

theorem accessErr_of_down_or_absent {s : State} {b : Blk} {i o : Nat} (hf : fusedOff s b i = false)
    (h : isDown s (b.island i) = true ∨ fieldsOf b o = []) : accessErr s b i o = true := by
  rcases h with h | h <;> simp [accessErr, hf, h]

/-- A PCIe host reaches the words of the mailbox and no others (R27). -/
theorem reaches_host {q : Requester} {b : Blk} (i : Nat) {o : Nat} (hq : q.cls = .host) :
    reaches q b i o = mailboxWord b o := by
  simp [reaches, hq]

theorem busWrite_of_accessErr {s : State} (q : Requester) {b : Blk} {i o : Nat} (m v : Nat) (h : accessErr s b i o = true) :
    busWrite s q b i o m v = WrRes.none s true false := by
  simp [busWrite, h]

theorem busRead_of_accessErr {s : State} {b : Blk} {i o : Nat} (h : accessErr s b i o = true) :
    busRead s b i o = (s, none) := by
  simp [busRead, h]

/-- A write that comes to a page but not to its word ends with an error at the word. -/
theorem pageWrite_refused {s : State} {q : Requester} {b : Blk} {i o : Nat} (m v : Nat) (ha : arrives s q = true)
    (h : accessErr s b i o = true ∨ reaches q b i o = false) :
    pageWrite s q b i o m v = emit s (.busError q (b.base i + o)) := by
  cases hr : reaches q b i o with
  | false => simp [pageWrite, ha, hr]
  | true =>
    have he : accessErr s b i o = true := h.resolve_right (by simp [hr])
    simp [pageWrite, ha, hr, busWrite_of_accessErr q m v he, WrRes.none]

theorem addrRead_refused {s : State} {q : Requester} {b : Blk} {a i o : Nat} (n : AccSize) (hw : wordAt a = some (b, i, o))
    (ha : arrives s q = true) (h : accessErr s b i o = true ∨ reaches q b i o = false) :
    addrRead s q n a = emit s (.busError q a) := by
  rcases h with h | h
  · simp [addrRead, ha, hw, busRead_of_accessErr h]
  · simp [addrRead, ha, hw, h]

/-- A page is accessed in whole words alone (R26). -/
theorem addrWrite_not_whole {s : State} {q : Requester} {n : AccSize} {a : Nat} {w : Blk × Nat × Nat} (m v : Nat)
    (hw : wordAt a = some w) (ha : arrives s q = true) (hn : n ≠ .word) : addrWrite s q n a m v = emit s (.busError q a) := by
  simp [addrWrite, ha, hw, hn]

theorem addrRead_not_whole {s : State} {q : Requester} {n : AccSize} {a : Nat} {w : Blk × Nat × Nat}
    (hw : wordAt a = some w) (ha : arrives s q = true) (hn : n ≠ .word) : addrRead s q n a = emit s (.busError q a) := by
  simp [addrRead, ha, hw, hn]

/-! ### The physical map (R23) -/

/-- The register map's gaps: below it, behind the ports, between the blocks and the slices' windows, and above these. -/
theorem wordAt_eq_none {a : Nat} (h : a < 0x40000000 ∨ (0x40440000 ≤ a ∧ a < 0x40500000) ∨
    (0x41500000 ≤ a ∧ a < 0x48000000) ∨ 0x48400000 ≤ a) : wordAt a = none := by
  unfold wordAt
  by_cases hp : 0x40440000 ≤ a ∧ a < 0x40500000
  · have hprt : (a - 0x40000000) / 0x100000 + 1 = 5 := by omega
    have hc : Blk.ofCode 5 = some .prt := by decide
    rw [if_pos (by omega), hprt, hc]
    exact if_neg (by omega)
  · rw [if_neg (by omega), if_neg (by omega)]

theorem le_dramEnd (s : State) : 0x900000000 ≤ dramEnd s := by
  unfold dramEnd
  split <;> decide

theorem bytes_pos (n : AccSize) : 0 < n.bytes := by cases n <;> decide

/-- The ranges of the map that are reserved, and what lies beyond the end of DRAM. -/
def Reserved (s : State) (a : Nat) : Prop :=
  a < 0x40000000 ∨ (0x40440000 ≤ a ∧ a < 0x40500000) ∨ (0x41500000 ≤ a ∧ a < 0x48000000) ∨
    (0x48400000 ≤ a ∧ a < 0x50000000) ∨ (0x55000000 ≤ a ∧ a < 0x800000000) ∨ dramEnd s ≤ a

theorem wordAt_of_reserved {s : State} {a : Nat} (h : Reserved s a) : wordAt a = none := by
  have hd := le_dramEnd s
  unfold Reserved at h
  exact wordAt_eq_none (by omega)

theorem inDram_iff {s : State} {a n : Nat} : inDram s a n = true ↔ 0x800000000 ≤ a ∧ a + n ≤ dramEnd s := by
  simp only [inDram, Bool.and_eq_true, decide_eq_true_eq]
  exact Iff.rfl

theorem memReadable_iff {s : State} {a n : Nat} : memReadable s a n = true ↔
    ((0x50000000 ≤ a ∧ a + n ≤ 0x54000000) ∧ isUp s .memory = true) ∨
      ((0x54000000 ≤ a ∧ a + n ≤ 0x55000000) ∧ isUp s .acq = true) ∨
      (0x800000000 ≤ a ∧ a + n ≤ dramEnd s) ∧ isUp s .memory = true := by
  simp [memReadable, inDram_iff, or_assoc]

/-- What software writes: the application partition of MRAM (R25), and DRAM. -/
def SoftwareMem (s : State) (a n : Nat) : Prop :=
  (0x52570000 ≤ a ∧ a + n ≤ 0x54000000) ∨ (0x800000000 ≤ a ∧ a + n ≤ dramEnd s)

theorem memWritable_iff {s : State} {a n : Nat} :
    memWritable s a n = true ↔ isUp s .memory = true ∧ SoftwareMem s a n := by
  simp [memWritable, SoftwareMem, inDram_iff]

theorem memReadable_of_reserved {s : State} {a n : Nat} (h : Reserved s a) (hn : 0 < n) : memReadable s a n = false := by
  have hd := le_dramEnd s
  unfold Reserved at h
  rw [Bool.eq_false_iff, Ne, memReadable_iff]
  omega

theorem memWritable_of_reserved {s : State} {a n : Nat} (h : Reserved s a) (hn : 0 < n) : memWritable s a n = false := by
  have hd := le_dramEnd s
  unfold Reserved at h
  rw [Bool.eq_false_iff, Ne, memWritable_iff, SoftwareMem]
  omega

/-- The partitions of MRAM that belong to other units, and the capture SRAM. -/
def ForeignMem (a : Nat) : Prop := (0x50000000 ≤ a ∧ a < 0x52570000) ∨ (0x54000000 ≤ a ∧ a < 0x55000000)

theorem memWritable_of_foreignMem {s : State} {a n : Nat} (h : ForeignMem a) (hn : 0 < n) : memWritable s a n = false := by
  unfold ForeignMem at h
  rw [Bool.eq_false_iff, Ne, memWritable_iff, SoftwareMem]
  omega

theorem memPlace_internal {s : State} {q : Requester} (a n : Nat) (w : Bool) (hq : q.cls = .internal) :
    memPlace s q a n w = (s, if (if w then memWritable s a n else memReadable s a n) then some a else none) := by
  simp only [memPlace, hq]

/-- Of the requesters without a translation, software alone reaches memory. -/
theorem memPlace_of_reserved {s : State} {q : Requester} {a n : Nat} (w : Bool) (hh : q.cls ≠ .host) (hs : q.cls ≠ .slice)
    (h : Reserved s a) (hn : 0 < n) : memPlace s q a n w = (s, none) := by
  cases hq : q.cls with
  | internal => cases w <;> simp [memPlace_internal _ _ _ hq, memReadable_of_reserved h hn, memWritable_of_reserved h hn]
  | host => exact absurd hq hh
  | slice => exact absurd hq hs
  | none | mgmt | console | partner | debug => simp [memPlace, hq]

/-! ### Software's memory (R23, R25) -/

theorem memReadable_of_softwareMem {s : State} {a n : Nat} (hu : isUp s .memory = true) (h : SoftwareMem s a n) :
    memReadable s a n = true := by
  rw [memReadable_iff]
  rcases h with ⟨hlo, hhi⟩ | hdram
  · exact .inl ⟨⟨by omega, hhi⟩, hu⟩
  · exact .inr (.inr ⟨hdram, hu⟩)

theorem memPlace_of_softwareMem {s : State} {q : Requester} {a n : Nat} (w : Bool) (hq : q.cls = .internal)
    (hu : isUp s .memory = true) (h : SoftwareMem s a n) : memPlace s q a n w = (s, some a) := by
  cases w <;> simp [memPlace_internal _ _ _ hq, memReadable_of_softwareMem hu h, memWritable_iff.mpr ⟨hu, h⟩]

/-- Above the header of the configuration store the map shows memory itself (assumption 101). -/
theorem mapNum_eq_rdNum (s : State) {a : Nat} (n : Nat) (h : 0x50001000 ≤ a) : mapNum s a n = rdNum s a n := by
  have hb (k : Nat) : mapByte s (a + k) = rdByte s (a + k) := if_neg (by omega)
  simp only [mapNum, rdNum, rdBytes, hb]

/-- A byte of a number by division is its slice of bits. -/
theorem ofNat_div_eq_extractLsb' {w : Nat} (x : BitVec w) (k : Nat) :
    BitVec.ofNat 8 (x.toNat / 256 ^ k) = x.extractLsb' (8 * k) 8 := by
  have hp : 2 ^ (8 * k) = 256 ^ k := pow_mul 2 8 k
  rw [BitVec.extractLsb', Nat.shiftRight_eq_div_pow, hp]

theorem rdByte_memPut_inside {w : Nat} (s : State) (a : Nat) {n k : Nat} (m v : BitVec w) (hk : k < n) :
    rdByte (memPut s a n m.toNat v.toNat) (a + k) =
      (rdByte s (a + k) &&& ~~~(m.extractLsb' (8 * k) 8)) ||| (v.extractLsb' (8 * k) 8 &&& m.extractLsb' (8 * k) 8) := by
  simp [memPut, rdByte_wrBytes, hk, ofNat_div_eq_extractLsb']

theorem rdByte_memPut_outside (s : State) {a n x : Nat} (m v : Nat) (h : x < a ∨ a + n ≤ x) :
    rdByte (memPut s a n m v) x = rdByte s x := by
  have hx : ¬ (a ≤ x ∧ x < a + n) := by omega
  simp [memPut, rdByte_wrBytes, hx]

/-! ### The obligation -/

theorem exec_reserved {s : State} {q : Requester} (n : AccSize) {a : Nat} (m v : BitVec 64) (hh : q.cls ≠ .host)
    (hs : q.cls ≠ .slice) (h : Reserved s a) :
    exec (.writeWord q n a m v) s = .next (after s (emit s (.busError q a))) ∧
      exec (.rcRead q n a) s = .next (after s (emit s (.busError q a))) := by
  have ha : arrives s q = true := arrives_of_ne_host hh
  have hw := wordAt_of_reserved h
  have hp (w : Bool) : memPlace s q a n.bytes w = (s, none) := memPlace_of_reserved w hh hs h (bytes_pos n)
  exact ⟨exec_writeWord_eq (addrWrite_of_no_place _ _ ha hw (hp true)),
    exec_rcRead_eq (addrRead_of_no_place ha hw (hp false))⟩

/-- A store of software into another unit's MRAM or the capture SRAM (R25, R220). -/
theorem exec_writeWord_foreign {s : State} {q : Requester} (n : AccSize) {a : Nat} (m v : BitVec 64) (hq : q.cls = .internal)
    (h : ForeignMem a) :
    exec (.writeWord q n a m v) s = .next (after s (emit s (.busError q a))) := by
  have hw : wordAt a = none := by unfold ForeignMem at h; exact wordAt_eq_none (by omega)
  have hp : memPlace s q a n.bytes true = (s, none) := by
    simp [memPlace_internal _ _ _ hq, memWritable_of_foreignMem h (bytes_pos n)]
  exact exec_writeWord_eq (addrWrite_of_no_place _ _ (arrives_of_ne_host (by simp [hq])) hw hp)

theorem exec_softwareMem {s : State} {q : Requester} (n : AccSize) {a : Nat} (m v : BitVec 64) (hq : q.cls = .internal)
    (hu : isUp s .memory = true) (h : SoftwareMem s a n.bytes) :
    exec (.writeWord q n a m v) s = .next (after s (memPut s a n.bytes m.toNat v.toNat)) ∧
      exec (.rcRead q n a) s = .next (after s (emit s (.readData q a (BitVec.ofNat 64 (rdNum s a n.bytes))))) := by
  have ha : arrives s q = true := arrives_of_ne_host (by simp [hq])
  have hlo : 0x52570000 ≤ a := by unfold SoftwareMem at h; omega
  have hw : wordAt a = none := wordAt_eq_none (by omega)
  have hp (w : Bool) : memPlace s q a n.bytes w = (s, some a) := memPlace_of_softwareMem w hq hu h
  refine ⟨exec_writeWord_eq (addrWrite_of_place _ _ ha hw (hp true)), exec_rcRead_eq ?_⟩
  rw [addrRead_of_place ha hw (hp false), mapNum_eq_rdNum s _ (by omega)]

/-- Settles O10: an access is sorted by where its address stands in the map, and each kind has its lemma. -/
theorem failedAccess : Obligations.FailedAccess := by
  unfold Obligations.FailedAccess
  intro s q n a m v fails
  refine ⟨exec_reserved n m v, fun b i o hw => ⟨accessErr_of_unaligned s b i, accessErr_of_down_or_absent,
    fun hq hm => (reaches_host i hq).trans hm, fun ha hn => ?notWhole, fun ha h => ?refused⟩, fun ha => ?away,
    exec_writeWord_foreign n m v, fun hq hu h => ?memory⟩
  case notWhole => exact ⟨exec_writeWord_eq (addrWrite_not_whole _ _ hw ha hn), exec_rcRead_eq (addrRead_not_whole hw ha hn)⟩
  case refused =>
    exact ⟨exec_writeWord_eq ((addrWrite_page _ _ hw ha).trans (pageWrite_refused _ _ ha h)),
      exec_rcRead_eq (addrRead_refused .word hw ha h)⟩
  case away =>
    exact ⟨exec_writeWord_eq (addrWrite_of_not_arrives _ _ _ _ ha), exec_rcRead_eq (addrRead_of_not_arrives _ _ ha)⟩
  case memory =>
    obtain ⟨hwrite, hread⟩ := exec_softwareMem n m v hq hu h
    exact ⟨hwrite, hread, fun k hk => rdByte_memPut_inside s a m v hk, fun x hx => rdByte_memPut_outside s _ _ hx⟩

end Sys2Proof.Machine

/-!
The EN bit of a redundant pair (R86): a write of a pair word step by step, the four cases of R86 read off `pairLegal`, and the
obligation O12 assembled from them.
-/

namespace Sys2Proof.Machine

/-! ### Single bits -/

theorem getBits_bit (v n : Nat) : getBits v n 1 = (bit v n).toNat := (Nat.toNat_testBit v n).symm

theorem bit_land (v m n : Nat) : bit (Nat.land v m) n = (bit v n && bit m n) := Nat.testBit_and v m n

theorem bit_xor (v m n : Nat) : bit (Nat.xor v m) n = (bit v n ^^ bit m n) := Nat.testBit_xor v m n

/-! ### A pair word with EN replaced -/

@[simp] theorem pairA_setEn (w a : Nat) : pairA (setBits w 31 1 a) = pairA w := getBits_setBits_ne w a (by decide)

@[simp] theorem pairB_setEn (w a : Nat) : pairB (setBits w 31 1 a) = pairB w := getBits_setBits_ne w a (by decide)

@[simp] theorem pairEn_setEn (w : Nat) (e : Bool) : pairEn (setBits w 31 1 e.toNat) = e := by
  show (setBits w 31 1 e.toNat).testBit 31 = e
  rw [testBit_setBits, if_pos (by decide)]
  cases e <;> rfl

@[simp] theorem pairLegal_setEn (s : State) (n w a : Nat) : pairLegal s n (setBits w 31 1 a) = pairLegal s n w := by
  simp only [pairLegal, pairA_setEn, pairB_setEn]

/-! ### The four cases of R86 -/

/-- Is the port in an enabled pair other than pair `n`? -/
def heldElsewhere (s : State) (n p : Nat) : Prop :=
  ∃ k, k < 16 ∧ k ≠ n ∧ pairEn (pairWord s k) = true ∧ (pairA (pairWord s k) = p ∨ pairB (pairWord s k) = p)

/-- One of the four cases of R86, in the order of the rule. -/
def pairBarred (s : State) (n w : Nat) : Prop :=
  pairA w = pairB w ∨ speedOf s (pairA w) ≠ speedOf s (pairB w) ∨ heldElsewhere s n (pairA w) ∨ heldElsewhere s n (pairB w) ∨
    portPresent s (pairA w) = false ∨ portPresent s (pairB w) = false

/-- The scan of the other pairs in `pairLegal` finds neither port. -/
theorem scan_iff_not_heldElsewhere (s : State) (n a b : Nat) :
    ((List.range 16).all fun m => m == n || !pairEn (pairWord s m) ||
      (pairA (pairWord s m) != a && pairB (pairWord s m) != a && pairA (pairWord s m) != b && pairB (pairWord s m) != b)) = true ↔
      ¬heldElsewhere s n a ∧ ¬heldElsewhere s n b := by
  simp only [heldElsewhere, List.all_eq_true, List.mem_range, not_exists, ← forall_and]
  refine forall_congr' fun k => ?_
  by_cases hn : k = n
  · simp [hn]
  · cases he : pairEn (pairWord s k)
    · simp
    · simp [hn]
      tauto

theorem pairLegal_iff_not_barred (s : State) (n w : Nat) : pairLegal s n w = true ↔ ¬pairBarred s n w := by
  simp only [pairLegal, pairBarred, Bool.and_eq_true, scan_iff_not_heldElsewhere, bne_iff_ne, beq_iff_eq, not_or, ne_eq, not_not,
    Bool.not_eq_false]
  tauto

/-! ### The fields of a pair word -/

/-- EN of the word at offset `o` of the pair table: its range depends on the ports (R86). -/
def enField : Fld := fa 0x9000 16 4 31 1 .rw 0 .dyn

theorem fieldsOf_pair : ∀ n : Fin 16, fieldsOf .swc (0x9000 + 4 * n.val) =
    [fa 0x9000 16 4 0 6 .rw 0 .all, fa 0x9000 16 4 8 6 .rw 0 .all, fa 0x9000 16 4 16 1 .rw 0 .all] ++ [enField] := by
  decide +kernel

/-- R32 clamps no value of a field that takes every value. -/
theorem fieldStep_clamps_of_all {s : State} {b : Blk} {i o old m v : Nat} {lk : Bool} {f : Fld} (x : WordW) (hf : f.acc = .rw)
    (hg : f.rng = .all) : (fieldStep s b i o old m v lk x f).clamps = x.clamps := by
  simp only [fieldStep, hf, rangeOf, hg, clampVal, reduceCtorEq, false_and, if_false]
  split
  · rfl
  split
  · rfl
  split
  · rfl
  · by_cases ho : o = 0x28 <;> simp [ho]

theorem foldl_clamps_of_all {s : State} {b : Blk} {i o old m v : Nat} {lk : Bool} (fs : List Fld) (x : WordW)
    (h : ∀ f ∈ fs, f.acc = .rw ∧ f.rng = .all) : (fs.foldl (fieldStep s b i o old m v lk) x).clamps = x.clamps := by
  induction fs generalizing x with
  | nil => rfl
  | cons f fs ih =>
    obtain ⟨hf, hfs⟩ := List.forall_mem_cons.mp h
    rw [List.foldl_cons, ih _ hfs, fieldStep_clamps_of_all x hf.1 hf.2]

theorem not_fieldKept_pair (s : State) (n : Nat) : fieldKept s .swc (0x9000 + 4 * n) = false := by
  have h : ¬0x9000 + 4 * n < 0x110 := by omega
  simp [fieldKept, h]

/-- EN can be set exactly where the ports make a legal pair. -/
theorem rangeOf_en (s : State) (n new v : Nat) :
    rangeOf s .swc 0 (0x9000 + 4 * n) enField new v = .u 0 (pairLegal s n new).toNat 1 := by
  have h8 : 0x9000 + 4 * n ≠ 8 := by omega
  have h108 : 0x9000 + 4 * n ≠ 0x108 := by omega
  have hn : (0x9000 + 4 * n - 0x9000) / 4 = n := by omega
  show dynRange s .swc 0 (0x9000 + 4 * n) enField new v = _
  simp only [dynRange, if_neg h8, if_neg h108, hn]
  cases pairLegal s n new <;> rfl

theorem clampVal_en (legal given : Bool) : clampVal 1 (.u 0 legal.toNat 1) given.toNat = (given && legal).toNat := by
  cases legal <;> cases given <;> rfl

/-- The step of EN under a mask that touches it: 1 stands only in a legal pair, and a 1 that does not is a clamp. -/
theorem fieldStep_en {s : State} {n old m v : Nat} {lk : Bool} (x : WordW) (hm : bit m 31 = true) :
    let y := fieldStep s .swc 0 (0x9000 + 4 * n) old m v lk x enField
    y.new = setBits x.new 31 1 (bit v 31 && pairLegal s n x.new).toNat ∧
      y.clamps = if bit v 31 && !pairLegal s n x.new then x.clamps ++ [⟨31, 1, 2, 1, 0⟩] else x.clamps := by
  have hmask : getBits m enField.lsb enField.w ≠ 0 := by
    show getBits m 31 1 ≠ 0
    simp [getBits_bit, hm]
  have hgiven : Nat.lor (Nat.land (getBits old 31 1) (getBits (Nat.xor m 0xFFFFFFFF) 31 1)) (getBits (Nat.land v m) 31 1) =
      (bit v 31).toNat := by
    have h31 : bit 0xFFFFFFFF 31 = true := by decide
    simp only [getBits_bit, bit_xor, bit_land, hm, h31]
    cases bit v 31 <;> cases bit old 31 <;> rfl
  have ho : 0x9000 + 4 * n ≠ 0x28 := by omega
  have hw : enField.writable = true := rfl
  have hacc : enField.acc = .rw := rfl
  have hlsb : enField.lsb = 31 := rfl
  have hwid : enField.w = 1 := rfl
  have hr : ∀ l a c, fieldRefused s .swc (0x9000 + 4 * n) l a c = false := fun _ _ _ => rfl
  rw [hlsb, hwid] at hmask
  simp only [fieldStep, hw, hacc, hlsb, hwid, hmask, hgiven, hr, not_fieldKept_pair, rangeOf_en, pairLegal_setEn, clampVal_en]
  cases bit v 31 <;> cases pairLegal s n x.new <;> simp [clampReason, ho]

/-- A write of a pair word is the step of EN after the fields of the ports and the mode, none of which is clamped. -/
theorem wordStep_pair (s : State) (n : Fin 16) (m v : Nat) :
    ∃ (x : WordW) (old : Nat) (lk : Bool), x.clamps = [] ∧
      let y := fieldStep s .swc 0 (0x9000 + 4 * n.val) old m v lk x enField
      (wordStep s .swc 0 (0x9000 + 4 * n.val) m v).new = y.new ∧ (wordStep s .swc 0 (0x9000 + 4 * n.val) m v).clamps = y.clamps := by
  have hc : ∀ merged, condMask s .swc (0x9000 + 4 * n.val) m merged = m := fun _ => by simp [condMask]
  have hf := (fieldsAt_eq s .swc (0x9000 + 4 * n.val) (by simp)).trans (fieldsOf_pair n)
  unfold wordStep
  simp only [hc, if_true, hf, List.foldl_append]
  refine ⟨_, _, _, ?_, rfl, rfl⟩
  exact foldl_clamps_of_all _ _ (by simp [fa])

/-- What a write that touches EN leaves of it, by the ports that the new word names. -/
theorem wordStep_pair_en (s : State) (n : Fin 16) {m : Nat} (v : Nat) (hm : bit m 31 = true) :
    let w := wordStep s .swc 0 (0x9000 + 4 * n.val) m v
    pairEn w.new = (bit v 31 && pairLegal s n.val w.new) ∧
      w.clamps = if bit v 31 && !pairLegal s n.val w.new then [⟨31, 1, 2, 1, 0⟩] else [] := by
  obtain ⟨x, old, lk, hx, hnew, hclamps⟩ := wordStep_pair s n m v
  obtain ⟨henew, heclamps⟩ := fieldStep_en (s := s) (n := n.val) (old := old) (v := v) (lk := lk) x hm
  dsimp only
  rw [hclamps, heclamps, hnew, henew, hx, pairEn_setEn, pairLegal_setEn, List.nil_append]
  exact ⟨rfl, rfl⟩

/-! ### The obligation -/

/-- Settles O12: EN is the bit written wherever `pairLegal` holds of the new word, and `pairLegal` is the absence of the four
cases of R86. -/
theorem pairEnableClamped : Obligations.PairEnableClamped := by
  unfold Obligations.PairEnableClamped
  intro s n m v hm w a b used clamped
  obtain ⟨hen, hclamps⟩ := wordStep_pair_en s n v.toNat hm
  have hlegal : pairLegal s n.val w.new = true ↔ ¬clamped := pairLegal_iff_not_barred s n.val w.new
  change pairEn w.new = (bit v.toNat 31 && pairLegal s n.val w.new) at hen
  change w.clamps = if bit v.toNat 31 && !pairLegal s n.val w.new then [⟨31, 1, 2, 1, 0⟩] else [] at hclamps
  refine ⟨fun hv => ?written0, fun hv hc => ?barred, fun hv hc => ?legal⟩
  case written0 => simp [hen, hclamps, hv]
  case barred =>
    have hl : pairLegal s n.val w.new = false := by simpa [hc] using hlegal
    simp [hen, hclamps, hv, hl]
  case legal => simp [hen, hclamps, hv, hlegal.mpr hc]

end Sys2Proof.Machine

/-!
The SO pads (R306): the level of each pad by the gates it passes, the read-back as the gated level and not the island's own command,
and the obligation O50 assembled from them.
-/

namespace Sys2Proof.Machine

/-! ### The gates -/

theorem soPads_of_forcing {s : State} (h : s.clk.forcing = true) : soPads s = 0 := by
  simp [soPads, h]

theorem soPads_of_not_tokenOk {s : State} (h : tokenOk s = false) : soPads s = 0 := by
  simp [soPads, h]

theorem soPads_of_not_up {s : State} (h : isUp s .safety = false) : soPads s = 0 := by
  simp [soPads, isDown_of_not_up h]

/-- With every gate open the pads stand at the commands, the test pulses taken away. -/
theorem soPads_of_gates_open {s : State} (hup : isUp s .safety = true) (htok : tokenOk s = true) (htool : s.clk.forcing = false) :
    soPads s = s.sfi.cmd &&& ~~~s.sfi.pulse := by
  simp [soPads, isDown_of_up hup, htok, htool]

/-! ### One pad -/

theorem bit_zero (o : Nat) : bit 0 o = false := Nat.zero_testBit o

theorem bit_and_not {w : Nat} (c p : BitVec w) {o : Nat} (ho : o < w) :
    bit (c &&& ~~~p).toNat o = (bit c.toNat o && !bit p.toNat o) := by
  simp only [bit, BitVec.testBit_toNat, BitVec.getLsbD_and, BitVec.getLsbD_not, ho, decide_true, Bool.true_and]

/-- R306: a pad is energised by its command alone, and only through every gate. -/
theorem bit_soPads (s : State) {o : Nat} (ho : o < 8) : bit (soPads s).toNat o =
    (isUp s .safety && bit s.sfi.cmd.toNat o && !bit s.sfi.pulse.toNat o && tokenOk s && !s.clk.forcing) := by
  cases htool : s.clk.forcing with
  | true => simp [soPads_of_forcing htool, bit_zero]
  | false =>
    cases htok : tokenOk s with
    | false => simp [soPads_of_not_tokenOk htok, bit_zero]
    | true =>
      cases hup : isUp s .safety with
      | false => simp [soPads_of_not_up hup, bit_zero]
      | true =>
        rw [soPads_of_gates_open hup htok htool, bit_and_not _ _ ho]
        simp

/-! ### The read-back -/

@[simp] theorem rbFollow_rb (s : State) : (rbFollow s).sfi.rb = soPads s := rfl
@[simp] theorem rbFollow_drive (s : State) : (rbFollow s).sfi.drive = s.sfi.drive := rfl
@[simp] theorem rbFollow_sfiState (s : State) : (rbFollow s).sfi.state = s.sfi.state := rfl
@[simp] theorem rbFollow_fault1 (s : State) : (rbFollow s).sfi.fault1 = s.sfi.fault1 := rfl
@[simp] theorem rbFollow_regs (s : State) : (rbFollow s).regs = s.regs := rfl

/-- The pads are formed from the commands and the gates; the read-back is no part of them. -/
@[simp] theorem soPads_rbFollow (s : State) : soPads (rbFollow s) = soPads s := rfl

/-! ### The obligation -/

/-- Settles O50: a pad is split on the three gates in `bit_soPads`; `rbFollow` takes the gated level of the state it is given, so
a state that differs in its gates alone is read back without a mismatch. -/
theorem safetyPadsGated : Obligations.SafetyPadsGated := by
  unfold Obligations.SafetyPadsGated
  intro s
  refine ⟨fun o ho => bit_soPads s ho, soPads_of_forcing, soPads_of_not_tokenOk, rbFollow_rb s, soPads_rbFollow s, ?followed⟩
  case followed =>
    intro t ht
    simp only [rbFollow_rb, rbFollow_drive, rbFollow_sfiState, rbFollow_fault1, rbFollow_regs, ht, and_self]

end Sys2Proof.Machine

/-!
Every command and every run: a command answers the end of its effect, and the end of a step keeps the queue, the form of memory,
the part and its seal whatever the effect was (R2, R347). The obligations O1, O3, O4 and O8.
-/

namespace Sys2Proof.Machine

/-! ### The end of a step -/

/-- No command is refused and none faults: its answer is the end of its effect. -/
theorem exec_eq_stepEnd (i : Instr) (s : State) : ∃ t, exec i s = .next (stepEnd s t) := by
  cases i <;> exact ⟨_, rfl⟩

/-- Fuses are only burnt: the identity is that of before, and so is a seal that is set. -/
theorem sameModule_stepEnd (s t : State) : sameModule s (stepEnd s t) :=
  ⟨rfl, rfl, rfl, rfl, rfl, fun h => by rw [stepEnd_fuse, burn_sealed, h, Bool.true_or]⟩

theorem sameModule_refl (s : State) : sameModule s s := ⟨rfl, rfl, rfl, rfl, rfl, id⟩

theorem sameModule.trans {s t u : State} (h : sameModule s t) (g : sameModule t u) : sameModule s u := by
  obtain ⟨hv, hl, hw, hx, hy, hs⟩ := h
  obtain ⟨gv, gl, gw, gx, gy, gs⟩ := g
  exact ⟨gv.trans hv, gl.trans hl, gw.trans hw, gx.trans hx, gy.trans hy, gs ∘ hs⟩

theorem sound_iff {s : State} : s.sound = true ↔ Memory.wf s.mem = true ∧ s.wr = [] := by
  simp only [State.sound, Bool.and_eq_true, List.isEmpty_iff]

theorem sound_stepEnd {s : State} (t : State) (h : s.sound = true) : (stepEnd s t).sound = true :=
  sound_iff.mpr ⟨stepEnd_wf s t (sound_iff.mp h).1, stepEnd_wr s t⟩

/-! ### One step and a run -/

theorem step_cons {s : State} {c : Instr} {rest : List Instr} (h : s.pending = c :: rest) :
    step s = exec c { s with pending := rest } := by
  simp only [step, h]

theorem step_nil {s : State} (h : s.pending = []) : step s = .next (after s (oneCycle s)) := by
  simp only [step, h]
  exact topRun_after _ s

/-- What a step answers: the end of an effect on the state with its command out of the queue. -/
theorem step_next {s t : State} (h : step s = .next t) : ∃ l u, t = stepEnd { s with pending := l } u := by
  cases hp : s.pending with
  | nil =>
    rw [step_nil hp] at h
    exact ⟨s.pending, _, (Host.Outcome.next.inj h).symm⟩
  | cons c rest =>
    obtain ⟨u, hu⟩ := exec_eq_stepEnd c { s with pending := rest }
    rw [step_cons hp, hu] at h
    exact ⟨rest, u, (Host.Outcome.next.inj h).symm⟩

theorem step_keeps_sound {s t : State} (hs : s.sound = true) (h : step s = .next t) : t.sound = true := by
  obtain ⟨l, u, rfl⟩ := step_next h
  exact sound_stepEnd u hs

theorem step_sameModule {s t : State} (h : step s = .next t) : sameModule s t := by
  obtain ⟨l, u, rfl⟩ := step_next h
  exact sameModule_stepEnd { s with pending := l } u

theorem stepsTo_keeps {n : Nat} {s t : State} (hs : s.sound = true) (r : StepsTo n s t) : t.sound = true ∧ sameModule s t := by
  induction r with
  | none s => exact ⟨hs, sameModule_refl s⟩
  | more h _ ih =>
    obtain ⟨ht, hm⟩ := ih (step_keeps_sound hs h)
    exact ⟨ht, (step_sameModule h).trans hm⟩

/-! ### The obligations -/

/-- Settles O1: the second equation of `step`. -/
theorem stepRunsFrontCommand : Obligations.StepRunsFrontCommand := by
  unfold Obligations.StepRunsFrontCommand
  exact fun _ _ _ h => step_cons h

/-- Settles O3: every command answers the end of a step, which keeps the queue and the part and leaves no write. -/
theorem everyCommandAnswers : Obligations.EveryCommandAnswers := by
  unfold Obligations.EveryCommandAnswers
  intro i s
  obtain ⟨t, ht⟩ := exec_eq_stepEnd i s
  exact ⟨stepEnd s t, ht, stepEnd_pending s t, stepEnd_wr s t, sameModule_stepEnd s t⟩

/-- Settles O4: a step answers the end of an effect, which places the bytes written by writes that keep the form. -/
theorem stepKeepsSound : Obligations.StepKeepsSound := by
  unfold Obligations.StepKeepsSound
  exact fun _ _ => step_keeps_sound

/-- Settles O8, by induction on the run. -/
theorem anyRunSameModule : Obligations.AnyRunSameModule := by
  unfold Obligations.AnyRunSameModule
  exact fun _ _ _ => stepsTo_keeps

end Sys2Proof.Machine

/-!
What the shared operations leave as it was: a record in the event log, a frame given to the switch, a frame given to the Elade link.
-/

namespace Sys2Proof.Machine

/-! ### Loops -/

/-- A property that every pass of a loop keeps holds after the loop. -/
theorem forEach_induction {α : Type} {P : State → Prop} (l : List α) {f : State → α → State} {s : State} (hs : P s)
    (hf : ∀ s a, P s → P (f s a)) : P (forEach l s f) := by
  induction l generalizing s with
  | nil => exact hs
  | cons a l ih => exact ih (hf s a hs)

/-- What no pass of a loop changes is as it was after the loop. -/
theorem forEach_keeps {α β : Type} (g : State → β) (l : List α) {f : State → α → State} (s : State)
    (hf : ∀ s a, g (f s a) = g s) : g (forEach l s f) = g s :=
  forEach_induction (P := fun t => g t = g s) l rfl fun t a h => (hf t a).trans h

/-! ### A record in the event log -/

@[simp] theorem evt_tim (s : State) (c v i a b : Nat) : (evt s c v i a b).tim = s.tim := by
  obtain ⟨e, r, w, h⟩ := logOnly_evt s c v i a b; rw [h]
@[simp] theorem evt_cmd (s : State) (c v i a b : Nat) : (evt s c v i a b).cmd = s.cmd := by
  obtain ⟨e, r, w, h⟩ := logOnly_evt s c v i a b; rw [h]
@[simp] theorem evt_ports (s : State) (c v i a b : Nat) : (evt s c v i a b).ports = s.ports := by
  obtain ⟨e, r, w, h⟩ := logOnly_evt s c v i a b; rw [h]
@[simp] theorem evt_swc (s : State) (c v i a b : Nat) : (evt s c v i a b).swc = s.swc := by
  obtain ⟨e, r, w, h⟩ := logOnly_evt s c v i a b; rw [h]
@[simp] theorem evt_svs (s : State) (c v i a b : Nat) : (evt s c v i a b).svs = s.svs := by
  obtain ⟨e, r, w, h⟩ := logOnly_evt s c v i a b; rw [h]
@[simp] theorem evt_acq (s : State) (c v i a b : Nat) : (evt s c v i a b).acq = s.acq := by
  obtain ⟨e, r, w, h⟩ := logOnly_evt s c v i a b; rw [h]
@[simp] theorem evt_phx (s : State) (c v i a b : Nat) : (evt s c v i a b).phx = s.phx := by
  obtain ⟨e, r, w, h⟩ := logOnly_evt s c v i a b; rw [h]
@[simp] theorem evt_nrg (s : State) (c v i a b : Nat) : (evt s c v i a b).nrg = s.nrg := by
  obtain ⟨e, r, w, h⟩ := logOnly_evt s c v i a b; rw [h]
@[simp] theorem evt_twv (s : State) (c v i a b : Nat) : (evt s c v i a b).twv = s.twv := by
  obtain ⟨e, r, w, h⟩ := logOnly_evt s c v i a b; rw [h]
@[simp] theorem evt_gge (s : State) (c v i a b : Nat) : (evt s c v i a b).gge = s.gge := by
  obtain ⟨e, r, w, h⟩ := logOnly_evt s c v i a b; rw [h]
@[simp] theorem evt_dec (s : State) (c v i a b : Nat) : (evt s c v i a b).dec = s.dec := by
  obtain ⟨e, r, w, h⟩ := logOnly_evt s c v i a b; rw [h]
@[simp] theorem evt_slc (s : State) (c v i a b : Nat) : (evt s c v i a b).slc = s.slc := by
  obtain ⟨e, r, w, h⟩ := logOnly_evt s c v i a b; rw [h]
@[simp] theorem evt_spn (s : State) (c v i a b : Nat) : (evt s c v i a b).spn = s.spn := by
  obtain ⟨e, r, w, h⟩ := logOnly_evt s c v i a b; rw [h]
@[simp] theorem evt_sfi (s : State) (c v i a b : Nat) : (evt s c v i a b).sfi = s.sfi := by
  obtain ⟨e, r, w, h⟩ := logOnly_evt s c v i a b; rw [h]
@[simp] theorem evt_rdn (s : State) (c v i a b : Nat) : (evt s c v i a b).rdn = s.rdn := by
  obtain ⟨e, r, w, h⟩ := logOnly_evt s c v i a b; rw [h]
@[simp] theorem evt_chk (s : State) (c v i a b : Nat) : (evt s c v i a b).chk = s.chk := by
  obtain ⟨e, r, w, h⟩ := logOnly_evt s c v i a b; rw [h]
@[simp] theorem evt_clk (s : State) (c v i a b : Nat) : (evt s c v i a b).clk = s.clk := by
  obtain ⟨e, r, w, h⟩ := logOnly_evt s c v i a b; rw [h]
@[simp] theorem evt_aon (s : State) (c v i a b : Nat) : (evt s c v i a b).aon = s.aon := by
  obtain ⟨e, r, w, h⟩ := logOnly_evt s c v i a b; rw [h]
@[simp] theorem evt_nv (s : State) (c v i a b : Nat) : (evt s c v i a b).nv = s.nv := by
  obtain ⟨e, r, w, h⟩ := logOnly_evt s c v i a b; rw [h]
@[simp] theorem evt_fuse (s : State) (c v i a b : Nat) : (evt s c v i a b).fuse = s.fuse := by
  obtain ⟨e, r, w, h⟩ := logOnly_evt s c v i a b; rw [h]
@[simp] theorem evt_mem (s : State) (c v i a b : Nat) : (evt s c v i a b).mem = s.mem := by
  obtain ⟨e, r, w, h⟩ := logOnly_evt s c v i a b; rw [h]
@[simp] theorem evt_out (s : State) (c v i a b : Nat) : (evt s c v i a b).out = s.out := by
  obtain ⟨e, r, w, h⟩ := logOnly_evt s c v i a b; rw [h]

/-! ### A frame given to the switch -/

/-- Two states that differ in the switch, the registers and the counts at crossings alone. -/
def switchOnly (s t : State) : Prop := ∃ r w d, t = { s with regs := r, swc := w, drops := d }

theorem switchOnly.refl (s : State) : switchOnly s s := ⟨s.regs, s.swc, s.drops, rfl⟩

theorem switchOnly.trans {s t u : State} (h : switchOnly s t) (g : switchOnly t u) : switchOnly s u := by
  obtain ⟨r, w, d, rfl⟩ := h
  obtain ⟨r', w', d', rfl⟩ := g
  exact ⟨r', w', d', rfl⟩

theorem switchOnly_swc (s : State) (w : Swc) : switchOnly s { s with swc := w } := ⟨s.regs, w, s.drops, rfl⟩

theorem switchOnly_setReg (s : State) (b : Blk) (i o v : Nat) : switchOnly s (setReg s b i o v) := ⟨_, s.swc, s.drops, rfl⟩

theorem switchOnly_cntBy (s : State) (b : Blk) (i o n : Nat) : switchOnly s (cntBy s b i o n) := switchOnly_setReg ..

theorem switchOnly_cnt (s : State) (b : Blk) (i o : Nat) : switchOnly s (cnt s b i o) := switchOnly_cntBy ..

theorem switchOnly_irq (s : State) (b : Blk) (n : Nat) : switchOnly s (irq s b n) := by
  unfold irq irqI
  split
  · exact switchOnly_setReg ..
  · exact switchOnly.refl s

theorem switchOnly_crossDrop (s : State) (b : Blk) (i : Nat) : switchOnly s (crossDrop s b i) := ⟨s.regs, s.swc, _, rfl⟩

theorem switchOnly_forEach {α : Type} (l : List α) {f : State → α → State} (s : State) (h : ∀ s a, switchOnly s (f s a)) :
    switchOnly s (forEach l s f) :=
  forEach_induction (P := switchOnly s) l (switchOnly.refl s) fun t a g => g.trans (h t a)

theorem switchOnly_ite {c : Prop} [Decidable c] {s t u : State} (h : switchOnly s t) (g : switchOnly s u) :
    switchOnly s (if c then t else u) := by
  split
  · exact h
  · exact g

theorem switchOnly_freeWatch (before now : Nat) (s : State) : switchOnly s (freeWatch before now s) := by
  have low : switchOnly s (if now < reg s .swc 0 0x1C4 then setReg s .swc 0 0x1C4 now else s) :=
    switchOnly_ite (switchOnly_setReg ..) (switchOnly.refl s)
  exact switchOnly_ite (low.trans (switchOnly_irq ..)) low

theorem switchOnly_downDrop (s : State) (p : Nat) : switchOnly s (downDrop s p) := by
  unfold downDrop
  split <;> exact switchOnly_cnt ..

theorem switchOnly_pairsNext (s : State) (ds : List Dest) : switchOnly s (pairsNext s ds) :=
  switchOnly_forEach _ s fun s _ => switchOnly_swc s _

/-- What admission counts before a frame is stored. -/
theorem switchOnly_counted (s : State) (n before now : Nat) (l : List Dest) :
    switchOnly s (forEach l (freeWatch before now (cntBy s .swc 0 0x304 n)) fun s d => downDrop s d.port) :=
  ((switchOnly_cntBy ..).trans (switchOnly_freeWatch ..)).trans (switchOnly_forEach _ _ fun s d => switchOnly_downDrop s d.port)

/-- Admission fills the Bowl and counts. -/
theorem switchOnly_takeIn (s : State) (fr : SFrame) (n : Nat) (ready : List Nat) (good : Bool) (ds : List Dest) :
    switchOnly s (takeIn s fr n ready good ds) := by
  unfold takeIn
  dsimp only
  split
  · exact switchOnly_cnt ..
  split
  · exact switchOnly_cnt ..
  split
  · exact switchOnly_cntBy ..
  split
  · exact switchOnly_counted ..
  · refine switchOnly.trans ?numbered (switchOnly_swc ..)
    exact switchOnly_ite ((switchOnly_counted ..).trans (switchOnly_pairsNext ..)) (switchOnly_counted ..)

theorem switchOnly_fdbPut (s : State) (e : Fdb) : switchOnly s (fdbPut s e) := switchOnly_swc ..

theorem switchOnly_learn (s : State) (src : Mac) (vid p : Nat) : switchOnly s (learn s src vid p) := by
  unfold learn
  dsimp only
  repeat' split
  all_goals first
    | exact switchOnly.refl s
    | exact switchOnly_fdbPut ..
    | exact (switchOnly_fdbPut ..).trans (switchOnly_cnt ..)
    | exact (switchOnly_cnt ..).trans (switchOnly_irq ..)

theorem switchOnly_enterFabric (s : State) (ip : Nat) {go : State → State} (h : ∀ s, switchOnly s (go s)) :
    switchOnly s (enterFabric s ip go) := by
  unfold enterFabric
  split
  · exact switchOnly_crossDrop ..
  split
  · exact switchOnly.refl s
  · exact (switchOnly_cnt ..).trans (h _)

theorem switchOnly_sendTo (s : State) (ip : Nat) (f : Frame) (stamp : Option Stamp) (vid pcp q : Nat) (ds : List Dest) :
    switchOnly s (sendTo s ip f stamp vid pcp q ds) :=
  switchOnly_enterFabric _ _ fun _ => switchOnly_takeIn ..

theorem switchOnly_sendVia (s : State) (ip : Nat) (f : Frame) (vid pcp q : Nat) : switchOnly s (sendVia s ip f vid pcp q) :=
  switchOnly_enterFabric _ _ fun _ => (switchOnly_takeIn ..).trans (switchOnly_learn ..)

theorem switchOnly_sendOwn (s : State) (ip : Nat) (f : Frame) (q : Nat) : switchOnly s (sendOwn s ip f q) := switchOnly_sendVia ..

theorem switchOnly.tim {s t : State} (h : switchOnly s t) : t.tim = s.tim := by
  obtain ⟨r, w, d, rfl⟩ := h; rfl

end Sys2Proof.Machine

/-!
One cycle on an empty queue (assumption 8): which blocks it moves, and that none of them but the Time island moves the timebase.
The obligation O2.
-/

namespace Sys2Proof.Machine

/-! ### What the blocks that run in a cycle leave of the timebase -/

@[simp] theorem readSlot_tim (s : State) (t : Nat) : (readSlot s t).tim = s.tim :=
  forEach_keeps State.tim _ s fun s j => by dsimp only; split <;> rfl

@[simp] theorem runSlots_tim (s : State) (before : Nat) : (runSlots s before).tim = s.tim := by
  unfold runSlots
  split
  · rfl
  · exact forEach_keeps State.tim _ s fun s t => readSlot_tim s t

@[simp] theorem aonTick_tim (s : State) : (aonTick s).tim = s.tim := by
  unfold aonTick
  split
  · rfl
  · split <;> rfl

@[simp] theorem gpSend_tim (s : State) (p n q : Nat) (g : GooseState) : (gpSend s p n q g).tim = s.tim := by
  simp only [gpSend, (switchOnly_sendOwn ..).tim, cnt_tim, setGp_tim]

@[simp] theorem gpPump_tim (s : State) (p : Nat) : (gpPump s p).tim = s.tim := by
  unfold gpPump
  dsimp only
  split
  · rfl
  · simp only [apply_ite State.tim, gpSend_tim, setGp_tim, ite_self]

@[simp] theorem gpPumpAll_tim (s : State) : (gpPumpAll s).tim = s.tim := forEach_keeps State.tim _ s fun s e => gpPump_tim s e.1

@[simp] theorem symChanged_tim (s : State) (kind n : Nat) : (symChanged s kind n).tim = s.tim := by
  unfold symChanged
  split <;> rfl

@[simp] theorem debugPend_tim (s : State) (on : Bool) : (debugPend s on).tim = s.tim := by
  unfold debugPend
  split
  · rfl
  · rw [irq_tim]

@[simp] theorem commitSwitch_tim (s : State) (u : Upd) : (commitSwitch s u).tim = s.tim := by
  unfold commitSwitch
  dsimp only
  split
  · rfl
  split
  · rw [debugPend_tim]
  · rw [symChanged_tim]; rfl

@[simp] theorem commitStep_tim (s : State) : (commitStep s).tim = s.tim := by
  unfold commitStep
  split
  · rfl
  dsimp only
  split
  · rfl
  split
  · split
    · rw [commitSwitch_tim]
    · rw [irq_tim, commitSwitch_tim]
  split
  · rfl
  split <;> rfl

/-! ### The cycle -/

/-- Only the timebase's own step moves time: what comes after it keeps it. -/
theorem oneCycle_tim (s : State) :
    (oneCycle s).tim = if isUp s .time = true then { s.tim with time := s.tim.time + cycleU s } else s.tim := by
  simp only [oneCycle, apply_ite State.tim, ite_self, commitStep_tim, aonTick_tim, gpPumpAll_tim, runSlots_tim]

/-- Settles O2: an empty queue runs `oneCycle`, whose timebase `oneCycle_tim` gives. -/
theorem emptyQueueOneCycle : Obligations.EmptyQueueOneCycle := by
  unfold Obligations.EmptyQueueOneCycle
  intro s hp
  refine ⟨step_nil hp, fun hup => ?_, fun hdown => ?_⟩
  · rw [oneCycle_tim, if_pos hup]
  · rw [oneCycle_tim, if_neg (by rw [hdown]; decide)]

end Sys2Proof.Machine

/-!
The state after reset, the laws of stored memory, and what a command leaves without any clock or pin moving. The obligations O5, O6
and O7.
-/

namespace Sys2Proof.Machine

/-! ### After reset -/

theorem held_reset_of_ne_aon {i : Island} (h : i ≠ .aon) : held State.reset i = true := by
  cases i with
  | aon => exact absurd rfl h
  | _ => rfl

/-- Settles O5: the fields of `State.reset`; of the islands only AON is out of reset. -/
theorem stateAfterReset : Obligations.StateAfterReset := by
  unfold Obligations.StateAfterReset
  exact ⟨⟨rfl, rfl⟩, rfl, fun _ h => held_reset_of_ne_aon h, rfl, rfl, rfl, rfl, rfl, rfl, rfl, rfl, rfl, rfl, rfl⟩

/-! ### One byte -/

/-- Below its first address a memory in the canonical form reads 0. -/
theorem memRead_below {m : List Host.Cell} {k : Nat} (hm : ∀ c ∈ m.head?, k < c.1) (hw : Memory.wf m = true) : memRead m k = 0 := by
  rw [memRead, findK_below m k hm hw]
  rfl

theorem memRead_cons (a k : Nat) (b : Byte) (m : List Host.Cell) :
    memRead ((a, b) :: m) k = if a = k then b else memRead m k := by
  simp only [memRead, findK]
  split <;> rfl

/-- A byte reads as it was last written, every other address as before. -/
theorem memRead_memWrite {m : List Host.Cell} (h : Memory.wf m = true) (a k : Nat) (v : Byte) :
    memRead (memWrite m a v) k = if a = k then v else memRead m k := by
  induction m with
  | nil =>
    unfold memWrite
    split
    next hv => split <;> simp [memRead, findK, hv]
    next => exact memRead_cons a k v []
  | cons c m ih =>
    obtain ⟨b, w⟩ := c
    obtain ⟨_, hlow, hw⟩ := (memory_wf_cons b w m).mp h
    unfold memWrite
    split
    next e =>
      subst e
      split
      next hv =>
        subst hv
        rw [memRead_cons]
        split
        next e => rw [← e, memRead_below hlow hw]
        next => rfl
      next =>
        rw [memRead_cons, memRead_cons]
        split <;> rfl
    next hne =>
      split
      next hlt =>
        split
        next hv =>
          subst hv
          split
          next e => rw [← e, memRead_below (by simpa using hlt) h]
          next => rfl
        next => exact memRead_cons a k v _
      next =>
        rw [memRead_cons, ih hw, memRead_cons]
        split
        next e => rw [if_neg (fun e' => hne (e.trans e'.symm))]
        next => rfl

/-! ### The form decides -/

/-- The first cell of a memory in the canonical form is not 0. -/
theorem memRead_head_ne_zero {a : Nat} {b : Byte} {m : List Host.Cell} (h : Memory.wf ((a, b) :: m) = true) :
    memRead ((a, b) :: m) a ≠ 0 := by
  rw [memRead_cons, if_pos rfl]
  exact ((memory_wf_cons a b m).mp h).1

/-- Of two memories that read alike neither begins below the other. -/
theorem head_le_of_memRead_eq {a c : Nat} {b d : Byte} {m n : List Host.Cell} (hm : Memory.wf ((a, b) :: m) = true)
    (hn : Memory.wf ((c, d) :: n) = true) (h : ∀ k, memRead ((a, b) :: m) k = memRead ((c, d) :: n) k) : c ≤ a := by
  by_contra hlt
  refine memRead_head_ne_zero hm ?_
  rw [h a]
  exact memRead_below (by simpa using hlt) hn

theorem memory_ext {m n : List Host.Cell} (hm : Memory.wf m = true) (hn : Memory.wf n = true)
    (h : ∀ k, memRead m k = memRead n k) : m = n := by
  induction m generalizing n with
  | nil =>
    cases n with
    | nil => rfl
    | cons c n => exact absurd (h c.1).symm (memRead_head_ne_zero hn)
  | cons x m ih =>
    obtain ⟨a, b⟩ := x
    cases n with
    | nil => exact absurd (h a) (memRead_head_ne_zero hm)
    | cons y n =>
      obtain ⟨c, d⟩ := y
      obtain rfl : a = c := Nat.le_antisymm (head_le_of_memRead_eq hn hm fun k => (h k).symm) (head_le_of_memRead_eq hm hn h)
      obtain ⟨_, hlow, hwm⟩ := (memory_wf_cons a b m).mp hm
      obtain ⟨_, hlow', hwn⟩ := (memory_wf_cons a d n).mp hn
      have hbd : b = d := by
        have := h a
        rwa [memRead_cons, memRead_cons, if_pos rfl, if_pos rfl] at this
      have htail : ∀ k, memRead m k = memRead n k := by
        intro k
        by_cases hk : a = k
        · rw [← hk, memRead_below hlow hwm, memRead_below hlow' hwn]
        · have := h k
          rwa [memRead_cons, memRead_cons, if_neg hk, if_neg hk] at this
      rw [hbd, ih hwm hwn htail]

/-! ### A batch of bytes -/

/-- Of the bytes written in one step the newest at an address wins. -/
theorem memRead_memWriteAll {m : List Host.Cell} (h : Memory.wf m = true) (w : List Host.Cell) (k : Nat) :
    memRead (memWriteAll m w) k = (findK w k).getD (memRead m k) := by
  induction w with
  | nil => rfl
  | cons c w ih =>
    rw [memWriteAll_cons, memRead_memWrite (memWriteAll_wf m w h), ih, findK]
    split <;> rfl

/-- What the step sees of memory is what stands there after it. -/
theorem rdByte_stepEnd {s t : State} (h : Memory.wf s.mem = true) (hm : t.mem = s.mem) (a : Nat) :
    rdByte (stepEnd s t) a = rdByte t a := by
  rw [rdByte_nil _ _ (stepEnd_wr s t), stepEnd_mem, memRead_memWriteAll h, rdByte, hm]

/-- Settles O6: a write in the canonical form, the form of a content, and the batch of a step. -/
theorem memoryLaws : Obligations.MemoryLaws := by
  unfold Obligations.MemoryLaws
  refine ⟨fun m a v h => ⟨memWrite_wf m a v h, ?same, fun b hb => ?other⟩, fun m n hm hn h => memory_ext hm hn h,
    fun s t a h hm => rdByte_stepEnd h hm a⟩
  case same => rw [memRead_memWrite h, if_pos rfl]
  case other => rw [memRead_memWrite h, if_neg (Ne.symm hb)]

/-! ### What the clock comparison does unasked -/

/-- A clock source judged stable. -/
def stableSrc : ClkSrc := { ClkSrc.reset with stable := true }

/-- A module that runs: every island out of reset, its sources stable, its PLLs locked. -/
def runningModule : State :=
  { State.reset with
    aon := { Aon.reset with por := false, inReset := 0, blankLeft := true, dramUp := true }
    clk := { Clk.reset with
      refclk := stableSrc, serdes := stableSrc, rc := stableSrc, lock := 0x1FFF, cause := 0, seenCause := 0, forcing := false,
      everReleased := true } }

/-- The same module when its REFCLK has just lost the judgement of being stable, and with it nothing else. -/
def refclkUnjudged : State := { runningModule with clk := { runningModule.clk with refclk := ClkSrc.reset } }

/-- None of the consequences that the statement names follows from it. -/
theorem refclkUnjudged_settled :
    settleClocks refclkUnjudged = refclkUnjudged ∧ settleTool refclkUnjudged = refclkUnjudged ∧
      ipSettle refclkUnjudged = refclkUnjudged ∧ rdnSettle refclkUnjudged = refclkUnjudged ∧
      sfiGate refclkUnjudged = refclkUnjudged ∧ settleBg refclkUnjudged = refclkUnjudged := by decide +kernel

/-- But the safety island suspends its comparison with REFCLK (R311). -/
theorem refclkUnjudged_suspends :
    (after refclkUnjudged refclkUnjudged).sfi.clkUnsup = true ∧ (stepEnd refclkUnjudged refclkUnjudged).sfi.clkUnsup = false := by
  decide +kernel

/-- Refutes O7: `gated` also runs `clockSuspend`, which the premises leave free. In `refclkUnjudged` they all hold, and CLK_UNSUP
rises. -/
theorem not_nothingFollows : ¬ Obligations.NothingFollows := by
  unfold Obligations.NothingFollows
  intro h
  obtain ⟨hclocks, htool, hip, hrdn, hsfi, hbg⟩ := refclkUnjudged_settled
  obtain ⟨hset, hclear⟩ := refclkUnjudged_suspends
  rw [h _ _ hclocks htool hip hrdn hsfi hbg rfl rfl rfl rfl, hclear] at hset
  exact Bool.false_ne_true hset

end Sys2Proof.Machine

/-!
Accesses to a word that the requester reaches (R8, R29 to R32, R69, R403, R434): the write and the read at the bus, and the rows
that are one write or one operation of a table. The obligations O9, O16 and O17.
-/

namespace Sys2Proof.Machine

/-! ### An accessible word at the bus -/

/-- What accessibility rules out at the bus: an error, a unit fused off, a fault of the window. -/
theorem accessible_bus {s : State} {q : Requester} {b : Blk} {i o : Nat} (h : accessible s q b i o = true) :
    accessErr s b i o = false ∧ fusedOff s b i = false ∧ ¬(b = .sw ∧ windowFault s i o = true) := by
  simp only [accessible, Bool.and_eq_true, Bool.not_eq_true', Bool.and_eq_false_iff, beq_eq_false_iff_ne] at h
  obtain ⟨⟨⟨_, herr⟩, hfused⟩, hwindow⟩ := h
  refine ⟨herr, hfused, ?_⟩
  rintro ⟨hb, hf⟩
  rcases hwindow with hne | hnf
  · exact hne hb
  · rw [hf] at hnf
    exact absurd hnf (by decide)

theorem busWrite_err_of_accessible {s : State} {q : Requester} {b : Blk} {i o : Nat} (m v : Nat)
    (h : accessible s q b i o = true) : (busWrite s q b i o m v).err = false := by
  obtain ⟨herr, hfused, hwindow⟩ := accessible_bus h
  unfold busWrite
  rw [if_neg (by rw [herr]; decide), if_neg (by rw [hfused]; decide), if_neg hwindow]
  dsimp only
  split <;> rfl

theorem pageWrite_of_accessible {s : State} {q : Requester} {b : Blk} {i o : Nat} (m v : Nat)
    (h : accessible s q b i o = true) : pageWrite s q b i o m v = (busWrite s q b i o m v).st :=
  pageWrite_eq m v (accessible_arrives h) (accessible_reaches h) (busWrite_err_of_accessible m v h)

/-- A row that is the write of one word. -/
theorem row_writes {x : Instr} {s : State} {q : Requester} {b : Blk} {i o m v : Nat}
    (hx : exec x s = topRun (fun s => pageWrite s q b i o m v) s) (h : accessible s q b i o = true) :
    exec x s = .next (after s (busWrite s q b i o m v).st) ∧ (busWrite s q b i o m v).err = false := by
  refine ⟨?_, busWrite_err_of_accessible m v h⟩
  rw [hx, topRun_after, pageWrite_of_accessible m v h]

theorem busRead_of_accessible {s : State} {q : Requester} {b : Blk} {i o : Nat} (h : accessible s q b i o = true) :
    busRead s b i o =
      (readEffect (if latches b o = [] then s else latchHi s b i (latches b o)) b i o, some (latchedWord s b i o)) := by
  obtain ⟨herr, hfused, _⟩ := accessible_bus h
  unfold busRead
  rw [if_neg (by rw [herr]; decide), if_neg (by rw [hfused]; decide)]

/-! ### Latches of a 64-bit value -/

@[simp] theorem readEffect_latch (s : State) (b : Blk) (i o : Nat) : (readEffect s b i o).latch = s.latch := by
  unfold readEffect
  split
  · rfl
  split
  · rfl
  split
  · rfl
  split <;> rfl

/-- A map filled from a list of keys holds for each of them what the list's function gives. -/
theorem findK_foldl_putK {α : Type} (f : Nat → α) (c : Nat) (l : List Nat) (m : List (Nat × α)) (h : Nat) :
    findK (l.foldl (fun m k => putK m (c + k) (f k)) m) (c + h) = if h ∈ l then some (f h) else findK m (c + h) := by
  induction l generalizing m with
  | nil => rfl
  | cons k l ih =>
    rw [List.foldl_cons, ih]
    by_cases hl : h ∈ l
    · rw [if_pos hl, if_pos (List.mem_cons_of_mem k hl)]
    · rw [if_neg hl]
      by_cases hk : h = k
      · rw [hk, findK_putK_same, if_pos List.mem_cons_self]
      · rw [findK_putK_ne _ _ (by omega), if_neg (by simp [hk, hl])]

theorem latched_of_mem_latches {b : Blk} {o h : Nat} (hh : h ∈ latches b o) : latched b h = true := by
  unfold latches at hh
  split at hh
  case h_8 => exact absurd hh List.not_mem_nil
  all_goals
    simp only [List.mem_cons, List.not_mem_nil, or_false] at hh
    rcases hh with rfl | rfl | rfl <;> rfl

theorem latchedWord_of_accessible {s : State} {q : Requester} {b : Blk} {i o h : Nat} (ha : accessible s q b i o = true)
    (hh : h ∈ latches b o) : latchedWord (busRead s b i o).1 b i h = peekWord s b i h % 2 ^ 32 := by
  have hne : latches b o ≠ [] := List.ne_nil_of_mem hh
  have hfind : findK (busRead s b i o).1.latch (b.base i + h) = some (BitVec.ofNat 32 (peekWord s b i h)) := by
    rw [busRead_of_accessible ha]
    dsimp only
    rw [if_neg hne, readEffect_latch]
    exact (findK_foldl_putK _ _ _ _ _).trans (if_pos hh)
  simp only [latchedWord, latched_of_mem_latches hh, if_true, hfind, Option.map_some, Option.getD_some, BitVec.toNat_ofNat]

/-- What a read leaves of a word that latches nothing: an RC word at its reset value. -/
theorem readEffect_plain {s : State} {b : Blk} {i o : Nat} (hl : latched b o = false) (hn : latches b o = [])
    (hp : ¬(b = .prt ∧ (o = 0x104 ∨ o = 0x154))) :
    readEffect s b i o = if (fieldsOf b o).any (fun f => f.acc == .rc) then setReg s b i o (resetWord b i o) else s := by
  have ht : ¬(b = .tim ∧ o = 0xC0) := by
    rintro ⟨rfl, rfl⟩
    exact absurd hn (by decide)
  unfold readEffect
  rw [if_neg hp, if_neg (by rw [hl]; decide), if_neg ht]

/-! ### The obligations -/

/-- Settles O9: the access goes to the page of its address; the latches are the map that `latchHi` fills. -/
theorem writeWordAndRead : Obligations.WriteWordAndRead := by
  unfold Obligations.WriteWordAndRead
  intro s q a m v b i o hw ha
  have hread := busRead_of_accessible ha
  refine ⟨⟨?write, busWrite_err_of_accessible _ _ ha⟩, ?read, fun hl => ?plain, fun h hh => latchedWord_of_accessible ha hh,
    fun hl hn hp => ?cleared⟩
  case write =>
    refine exec_writeWord_eq ?_
    rw [addrWrite_page _ _ hw (accessible_arrives ha), pageWrite_of_accessible _ _ ha]
  case read =>
    refine exec_rcRead_eq ?_
    rw [addrRead_page hw (accessible_arrives ha) (accessible_reaches ha) hread, hread]
    rfl
  case plain =>
    rw [hread]
    show some (latchedWord s b i o) = _
    rw [latchedWord, if_neg (by rw [hl]; decide)]
  case cleared =>
    rw [hread]
    dsimp only
    rw [if_pos hn, readEffect_plain hl hn hp]

/-- Settles O16: every such row is the write of its word, by its definition. -/
theorem registerRowsWriteTheirWord : Obligations.RegisterRowsWriteTheirWord := by
  unfold Obligations.RegisterRowsWriteTheirWord
  intro s q
  exact ⟨fun _ h => row_writes rfl h, fun h => row_writes rfl h, fun h => row_writes rfl h, fun h => row_writes rfl h,
    fun _ h => row_writes rfl h, fun _ _ h => row_writes rfl h, fun _ _ _ h => row_writes rfl h,
    fun _ _ h => row_writes rfl h, fun _ h => row_writes rfl h, fun _ h => row_writes rfl h, fun _ h => row_writes rfl h,
    fun h => row_writes rfl h, fun _ _ _ h => row_writes rfl h, fun _ h => row_writes rfl h, fun _ h => row_writes rfl h,
    fun _ _ _ => ⟨fun h => row_writes rfl h, fun h => row_writes rfl h, fun h => row_writes rfl h, fun h => row_writes rfl h⟩⟩

/-- A row that runs one operation of a table, by what its command word comes to. -/
theorem row_runs {x : Instr} {s : State} {f op : State → State} {k1 k2 : Nat} (hx : exec x s = topRun f s)
    (h : ∃ r, f s = op { s with regs := r } ∧ sameBut s r k1 k2) :
    ∃ r, exec x s = .next (after s (op { s with regs := r })) ∧ sameBut s r k1 k2 := by
  obtain ⟨r, hf, hr⟩ := h
  exact ⟨r, by rw [hx, topRun_after, hf], hr⟩

/-- Settles O17, table by table: the lemma of the table's command word with the operation's code. -/
theorem tableCommands : Obligations.TableCommands := by
  unfold Obligations.TableCommands
  refine ⟨fun s q ha hb => ?fdb, fun s q => ⟨fun ha hb => ?cls, fun ha hb => ?grp, fun ha => ?sub, fun ha hb => ?phx⟩⟩
  case fdb =>
    have go (op arg : Nat) (ho : 1 ≤ op ∧ op ≤ 6) (hg : arg ≤ 0x43) := fdbCmd_eq (q := q) op arg ho hg ha hb
    have run {x : Instr} (op arg : Nat) (ho : 1 ≤ op ∧ op ≤ 6) (hg : arg ≤ 0x43)
        (hx : exec x s = topRun (fun s => fdbCmd s q op arg) s) :=
      row_runs (op := fun s => fdbOp s op arg) hx (go op arg ho hg)
    exact ⟨run 1 0 (by decide) (by decide) rfl, run 2 0 (by decide) (by decide) rfl, run 3 0 (by decide) (by decide) rfl,
      fun p => run 4 p.val (by decide) (by omega) rfl, run 5 0 (by decide) (by decide) rfl,
      run 6 0 (by decide) (by decide) rfl⟩
  case cls =>
    exact ⟨row_runs (op := fun s => clsOp s 1) rfl (clsCmd_eq 1 (by decide) ha hb),
      row_runs (op := fun s => clsOp s 2) rfl (clsCmd_eq 2 (by decide) ha hb),
      row_runs (op := fun s => clsOp s 3) rfl (clsCmd_eq 3 (by decide) ha hb)⟩
  case grp =>
    exact ⟨row_runs (op := fun s => grpOp s 1) rfl (grpCmd_eq 1 (by decide) ha hb),
      row_runs (op := fun s => grpOp s 2) rfl (grpCmd_eq 2 (by decide) ha hb)⟩
  case sub =>
    exact ⟨row_runs (op := fun s => subOp s 1) rfl (subCmd_eq 1 (by decide) ha),
      row_runs (op := fun s => subOp s 2) rfl (subCmd_eq 2 (by decide) ha),
      row_runs (op := fun s => subOp s 3) rfl (subCmd_eq 3 (by decide) ha)⟩
  case phx =>
    exact ⟨row_runs (op := fun s => mtCheckAll (phxGrpOp s 1)) rfl (phxCmd_eq 1 (by decide) ha hb),
      row_runs (op := fun s => mtCheckAll (phxGrpOp s 2)) rfl (phxCmd_eq 2 (by decide) ha hb),
      row_runs (op := fun s => mtCheckAll (phxGrpOp s 3)) rfl (phxCmd_eq 3 (by decide) ha hb)⟩

end Sys2Proof.Machine

/-!
The clamp rule (R32): the value that it gives, what a write leaves of a word, and LOCK (R29, R30). The obligations O13, O14 and O15.
-/

namespace Sys2Proof.Machine

/-! ### The value of the clamp rule -/

/-- The multiple of a step that a difference within a bound is rounded to, one step less where it passes the bound. -/
def roundedStep (d hi step : Nat) : Nat :=
  if (d + (step - 1) / 2) / step * step > hi then (d + (step - 1) / 2) / step * step - step
  else (d + (step - 1) / 2) / step * step

theorem clampVal_u {lo hi : Nat} (w step v : Nat) (h : lo ≤ hi) :
    clampVal w (.u lo hi step) v = lo + roundedStep (min (max v lo) hi - lo) (hi - lo) step := by
  simp only [clampVal, roundedStep]
  generalize hq : (min (max v lo) hi - lo + (step - 1) / 2) / step = q
  rcases Nat.eq_zero_or_pos q with rfl | hpos
  · simp [h]
  · have hle : step ≤ q * step := Nat.le_mul_of_pos_left _ hpos
    split <;> split <;> omega

theorem roundedStep_le {d hi step : Nat} (hs : 0 < step) (h : d ≤ hi) : roundedStep d hi step ≤ hi := by
  have hq : (d + (step - 1) / 2) / step * step ≤ d + (step - 1) / 2 := Nat.div_mul_le_self _ _
  unfold roundedStep
  split <;> omega

theorem roundedStep_mod (d hi step : Nat) : roundedStep d hi step % step = 0 := by
  unfold roundedStep
  split
  · rw [← Nat.sub_one_mul, Nat.mul_mod_left]
  · exact Nat.mul_mod_left _ _

/-- A multiple of the step is rounded to itself. -/
theorem roundedStep_of_mod {d hi step : Nat} (hs : 0 < step) (h : d ≤ hi) (hd : d % step = 0) : roundedStep d hi step = d := by
  have hq : (d + (step - 1) / 2) / step * step = d := by
    obtain ⟨k, rfl⟩ := Nat.dvd_of_mod_eq_zero hd
    rw [Nat.mul_add_div hs, Nat.div_eq_of_lt (by omega), Nat.add_zero, Nat.mul_comm]
  rw [roundedStep, hq, if_neg (by omega)]

/-- A number of `w` bits in two's complement reads back. -/
theorem toSigned_ofSigned {w : Nat} {x : Int} (hw : 0 < w) (hlo : -((2 ^ (w - 1) : Nat) : Int) ≤ x)
    (hhi : x < ((2 ^ (w - 1) : Nat) : Int)) : toSigned w (ofSigned w x) = x := by
  have hp : 2 ^ w = 2 * 2 ^ (w - 1) := by rw [← Nat.pow_succ']; congr 1; omega
  unfold toSigned ofSigned
  generalize 2 ^ (w - 1) = p at *
  rw [hp]
  rcases Int.lt_or_le x 0 with hneg | hpos
  · have hx : x % ((2 * p : Nat) : Int) = x + (2 * p : Nat) := by
      rw [← Int.add_emod_right, Int.emod_eq_of_lt (by omega) (by omega)]
    rw [hx]
    split <;> omega
  · rw [Int.emod_eq_of_lt hpos (by omega)]
    split <;> omega

theorem ofSigned_toSigned {w v : Nat} (hv : v < 2 ^ w) : ofSigned w (toSigned w v) = v := by
  unfold toSigned ofSigned
  split
  · rw [Int.emod_eq_of_lt (by omega) (by exact_mod_cast hv), Int.toNat_natCast]
  · rw [← Int.add_emod_right, Int.sub_add_cancel, Int.emod_eq_of_lt (by omega) (by exact_mod_cast hv), Int.toNat_natCast]

/-- Settles O13, range by range. -/
theorem clampGivesLegalValue : Obligations.ClampGivesLegalValue := by
  unfold Obligations.ClampGivesLegalValue
  refine ⟨fun w lo hi step v hle hs => ?unsigned, fun w v lo hi hw hmin hle hmax => ?signed, fun w fb v l hfb => ?listed⟩
  case unsigned =>
    have hd : min (max v lo) hi - lo ≤ hi - lo := by omega
    have hbound := roundedStep_le hs hd
    rw [clampVal_u w step v hle]
    refine ⟨by omega, by omega, by rw [Nat.add_sub_cancel_left, roundedStep_mod], fun h1 h2 hm => ?_⟩
    rw [Nat.max_eq_left h1, Nat.min_eq_left h2, roundedStep_of_mod hs (by omega) hm]
    omega
  case signed =>
    have hread : toSigned w (clampVal w (.s lo hi) v) = min (max (toSigned w v) lo) hi :=
      toSigned_ofSigned hw (by omega) (by omega)
    rw [hread]
    refine ⟨by omega, by omega, fun hv h1 h2 => ?_⟩
    rw [clampVal, max_eq_left h1, min_eq_left h2, ofSigned_toSigned hv]
  case listed =>
    simp only [clampVal]
    refine ⟨?_, fun h => if_pos h, fun h => if_neg h⟩
    split
    · assumption
    · exact hfb

/-! ### What a write leaves of a word -/

/-- The bit stands outside what the write of a field may put: outside the field, or the field is not written at all. -/
def sparedBit (o m n : Nat) (locked : Bool) (f : Fld) : Prop :=
  (f.lsb ≤ n → n < f.lsb + f.w → f.writable = false ∨ getBits m f.lsb f.w = 0 ∨ (f.acc = .rwl ∧ locked = true ∧ o ≠ 0x28))

theorem testBit_setBits_out {f : Fld} {n : Nat} (h : ¬(f.lsb ≤ n ∧ n < f.lsb + f.w)) (w a : Nat) :
    (setBits w f.lsb f.w a).testBit n = w.testBit n := by rw [testBit_setBits, if_neg h]

theorem fieldStep_spares {o m n : Nat} {locked : Bool} {f : Fld} (h : sparedBit o m n locked f) (s : State) (b : Blk)
    (i old v : Nat) (x : WordW) : (fieldStep s b i o old m v locked x f).new.testBit n = x.new.testBit n := by
  by_cases hin : f.lsb ≤ n ∧ n < f.lsb + f.w
  · rcases h hin.1 hin.2 with hw | hm | ⟨ha, hl, ho⟩
    · simp [fieldStep, hw]
    · simp [fieldStep, hm]
    · simp only [fieldStep, ha, hl, ho]
      grind
  · unfold fieldStep
    dsimp only
    repeat' split
    all_goals simp [testBit_setBits_out hin]

theorem foldl_fieldStep_spares {o m n : Nat} {locked : Bool} (s : State) (b : Blk) (i old v : Nat) (fs : List Fld)
    (x : WordW) (h : ∀ f ∈ fs, sparedBit o m n locked f) :
    (fs.foldl (fieldStep s b i o old m v locked) x).new.testBit n = x.new.testBit n := by
  induction fs generalizing x with
  | nil => rfl
  | cons f fs ih =>
    rw [List.foldl_cons, ih _ fun g hg => h g (List.mem_cons_of_mem f hg), fieldStep_spares (h f List.mem_cons_self)]

/-- The test that the word's first pass makes of a field before it puts the value given. -/
def putFirst (s : State) (b : Blk) (i o old m merged : Nat) (f : Fld) : Bool :=
  f.writable && f.acc != .w1c && getBits m f.lsb f.w != 0 && !(f.acc == .rwl && bit (reg s b i 0x28) 0) &&
    !fieldRefused s b o f.lsb (getBits old f.lsb f.w) (getBits merged f.lsb f.w) && !fieldKept s b o

/-- The word with which the clamp of the fields begins: the values given in their places. -/
def givenWord (s : State) (b : Blk) (i o old m merged : Nat) (fs : List Fld) (w : Nat) : Nat :=
  fs.foldl (fun w f => if putFirst s b i o old m merged f then setBits w f.lsb f.w (getBits merged f.lsb f.w) else w) w

theorem givenWord_spares {s : State} {b : Blk} {i o m n : Nat} (old merged : Nat) (fs : List Fld) (w : Nat)
    (h : ∀ f ∈ fs, sparedBit o m n (bit (reg s b i 0x28) 0) f) :
    (givenWord s b i o old m merged fs w).testBit n = w.testBit n := by
  induction fs generalizing w with
  | nil => rfl
  | cons f fs ih =>
    refine (ih _ fun g hg => h g (List.mem_cons_of_mem f hg)).trans ?_
    dsimp only
    by_cases hin : f.lsb ≤ n ∧ n < f.lsb + f.w
    · have hno : putFirst s b i o old m merged f = false := by
        rcases h f List.mem_cons_self hin.1 hin.2 with hw | hm | ⟨ha, hl, _⟩ <;> simp [putFirst, *]
      rw [hno, if_neg (by decide)]
    · split
      · exact testBit_setBits_out hin _ _
      · rfl

/-- The word of a write: its mask, the values given and the word as the two passes take them. -/
def mergedWord (old m v : Nat) : Nat := Nat.lor (Nat.land old (Nat.xor m 0xFFFFFFFF)) (Nat.land v m)

theorem wordStep_new (s : State) (b : Blk) (i o m v : Nat) :
    let old := (statusWord s b i o).getD (reg s b i o)
    let m' := condMask s b o m (mergedWord old m v)
    (wordStep s b i o m v).new =
      ((fieldsAt s b o).foldl (fieldStep s b i o old m' (if m' = m then v else mergedWord old m v) (bit (reg s b i 0x28) 0))
        { new := givenWord s b i o old m' (mergedWord old m v) (fieldsAt s b o) old, clamps := [], locks := [], any := false,
          wrote := false, same := false, refused := false }).new := rfl

/-- Where no field has place for the bit, the write leaves it. -/
theorem wordStep_spares {s : State} {b : Blk} {i o m n : Nat} (v : Nat)
    (h : ∀ f ∈ fieldsAt s b o, sparedBit o (condMask s b o m (mergedWord ((statusWord s b i o).getD (reg s b i o)) m v)) n
      (bit (reg s b i 0x28) 0) f) :
    (wordStep s b i o m v).new.testBit n = ((statusWord s b i o).getD (reg s b i o)).testBit n := by
  rw [wordStep_new, foldl_fieldStep_spares _ _ _ _ _ _ _ h]
  exact givenWord_spares _ _ _ _ h

/-! ### The condition of a trigger unit -/

/-- The condition's field and the others of a unit's configuration word. -/
def condFld : Fld := fa 0x1000 64 0x20 0 3 .rw 0 .dyn
def srcFld : Fld := fa 0x1000 64 0x20 4 2 .rw 0 .all
def polFld : Fld := fa 0x1000 64 0x20 8 1 .rw 0 .all
def wmodeFld : Fld := fa 0x1000 64 0x20 9 1 .rw 0 .all

/-- A field of the recorder's table that stands at the configuration words of the units, or surely at none of them. -/
def cfgOrApart (f : Fld) : Bool :=
  decide (f ∈ [condFld, srcFld, polFld, wmodeFld]) || (decide (0 < f.st) && decide (f.off + f.n * f.st ≤ 0x1000)) ||
    (decide (f.off % 0x20 ≠ 0) && decide (f.off % 4 = 0) && decide (0x1000 ≤ f.off) && decide (f.st = 0x20) &&
      decide (f.n2 = 1) && decide (f.st2 = 4))

theorem mem_cfg_of_hits {f : Fld} {o : Nat} (h : cfgOrApart f = true) (hits : f.hits o = true) (ho : 0x1000 ≤ o)
    (hm : o % 0x20 = 0) : f ∈ [condFld, srcFld, polFld, wmodeFld] := by
  simp only [cfgOrApart, Bool.or_eq_true, Bool.and_eq_true, decide_eq_true_eq] at h
  simp only [Fld.hits, Bool.and_eq_true, decide_eq_true_eq] at hits
  obtain ⟨⟨⟨hle, hn⟩, h4⟩, hn2⟩ := hits
  rcases h with (hin | ⟨hst, hend⟩) | ⟨⟨⟨⟨⟨hoff, hoff4⟩, hbase⟩, hst⟩, h1⟩, hst2⟩
  · exact hin
  · have := (Nat.div_lt_iff_lt_mul hst).mp hn
    omega
  · rw [hst] at h4 hn2
    rw [hst2] at h4 hn2
    omega

theorem tabGge_cfgOrApart : ∀ f ∈ tabGge, cfgOrApart f = true := by decide +kernel

theorem getBits_lor_low (m w : Nat) {l : Nat} (h : 3 ≤ l) : getBits (Nat.lor m 7) l w = getBits m l w := by
  apply Nat.eq_of_testBit_eq
  intro k
  have h7 : (7 : Nat).testBit (l + k) = false :=
    Nat.testBit_lt_two_pow (lt_of_lt_of_le (by decide : 7 < 2 ^ 3) (Nat.pow_le_pow_right (by decide) (by omega)))
  rw [testBit_getBits, testBit_getBits, show Nat.lor m 7 = m ||| 7 from rfl, Nat.testBit_or, h7, Bool.or_false]

/-- With its mask widened for a travelling-wave channel a write puts the condition's bits, and no other that it did not put. -/
theorem sparedBit_condMask {s : State} {b : Blk} {o m n : Nat} {locked : Bool} {f : Fld} (merged : Nat)
    (hn : b = .gge → s.fuse.variant = .s → o % 0x20 = 0 → o < 0x1000 ∨ 3 ≤ n) (hf : f ∈ fieldsAt s b o)
    (h : sparedBit o m n locked f) : sparedBit o (condMask s b o m merged) n locked f := by
  unfold condMask
  split
  next hc =>
    obtain ⟨rfl, hv, ho, hm, -, -⟩ := hc
    have hn3 : 3 ≤ n := by have := hn rfl hv hm; omega
    rw [fieldsAt_eq _ _ _ (by simp), fieldsOf, if_neg (by omega), List.mem_filter] at hf
    have hcfg := mem_cfg_of_hits (tabGge_cfgOrApart f hf.1) hf.2 ho hm
    intro h1 h2
    rcases h h1 h2 with hw | hz | hl
    · exact .inl hw
    · refine .inr (.inl ?_)
      have h3 : 3 ≤ f.lsb := by
        simp only [List.mem_cons, List.not_mem_nil, or_false] at hcfg
        rcases hcfg with rfl | rfl | rfl | rfl
        · exact absurd h2 (by simp only [condFld, fa]; omega)
        · decide
        · decide
        · decide
      rwa [getBits_lor_low _ _ h3]
    · exact .inr (.inr hl)
  next => exact h

/-- A bit of the merged word is the value's where the mask has it, else the old one. -/
theorem testBit_mergedWord (old m v : Nat) {n : Nat} (hn : n < 32) :
    (mergedWord old m v).testBit n = if m.testBit n then v.testBit n else old.testBit n := by
  have hF : (0xFFFFFFFF : Nat).testBit n = true := by
    rw [show (0xFFFFFFFF : Nat) = 2 ^ 32 - 1 from rfl, Nat.testBit_two_pow_sub_one, decide_eq_true hn]
  show (old &&& (m ^^^ 0xFFFFFFFF) ||| v &&& m).testBit n = _
  rw [Nat.testBit_or, Nat.testBit_and, Nat.testBit_and, Nat.testBit_xor, hF]
  cases m.testBit n <;> simp

/-- The value given to a field is the merged word's. -/
theorem given_eq (old m v l w : Nat) :
    Nat.lor (Nat.land (getBits old l w) (getBits (Nat.xor m 0xFFFFFFFF) l w)) (getBits (Nat.land v m) l w) =
      getBits (mergedWord old m v) l w := by
  apply Nat.eq_of_testBit_eq
  intro n
  show (getBits old l w &&& getBits (m ^^^ 0xFFFFFFFF) l w ||| getBits (v &&& m) l w).testBit n =
    (getBits (old &&& (m ^^^ 0xFFFFFFFF) ||| v &&& m) l w).testBit n
  simp only [Nat.testBit_or, Nat.testBit_and, testBit_getBits]
  cases decide (n < w) <;> simp

/-- Merging once more with the widened mask gives a field above the condition the same value. -/
theorem getBits_merged_again (old m v w : Nat) {l : Nat} (h3 : 3 ≤ l) (hw : l + w ≤ 32) :
    getBits (mergedWord old (Nat.lor m 7) (mergedWord old m v)) l w = getBits (mergedWord old m v) l w := by
  apply Nat.eq_of_testBit_eq
  intro k
  rw [testBit_getBits, testBit_getBits]
  by_cases hk : k < w
  · have h7 : (7 : Nat).testBit (l + k) = false :=
      Nat.testBit_lt_two_pow (lt_of_lt_of_le (by decide : 7 < 2 ^ 3) (Nat.pow_le_pow_right (by decide) (by omega)))
    have hm : (Nat.lor m 7).testBit (l + k) = m.testBit (l + k) := by
      rw [show Nat.lor m 7 = m ||| 7 from rfl, Nat.testBit_or, h7, Bool.or_false]
    rw [testBit_mergedWord _ _ _ (by omega), testBit_mergedWord _ _ _ (by omega), hm]
    cases m.testBit (l + k) <;> rfl
  · simp [hk]

/-- A field of the recorder that is written without more: its clamp decides. -/
theorem fieldStep_gge {s : State} {i o old m v : Nat} {locked : Bool} {f : Fld} (x : WordW) (ha : f.acc = .rw) (ho : o ≠ 0x28) :
    (fieldStep s .gge i o old m v locked x f).new =
      if getBits m f.lsb f.w = 0 then x.new
      else
        let given := getBits (mergedWord old m v) f.lsb f.w
        setBits x.new f.lsb f.w (clampVal f.w (rangeOf s .gge i o f (setBits x.new f.lsb f.w given) given) given) := by
  have hr : fieldRefused s .gge o f.lsb (getBits old f.lsb f.w) (getBits (mergedWord old m v) f.lsb f.w) = false := rfl
  have hk : fieldKept s .gge o = false := rfl
  simp only [fieldStep, given_eq, hr, hk, ha, ho, Fld.writable]
  split <;> simp_all

theorem fieldsAt_trig (s : State) (u : Fin 64) :
    fieldsAt s .gge (tgO u.val 0) = [condFld, srcFld, polFld, wmodeFld] := by
  rw [fieldsAt_eq _ _ _ (by simp)]
  revert u
  decide +kernel

theorem givenWord_gge (s : State) (i o old m merged : Nat) (fs : List Fld) (w : Nat) (h : ∀ f ∈ fs, f.acc = .rw) :
    givenWord s .gge i o old m merged fs w =
      fs.foldl (fun w f => if getBits m f.lsb f.w = 0 then w else setBits w f.lsb f.w (getBits merged f.lsb f.w)) w := by
  unfold givenWord
  refine List.foldl_ext _ _ _ fun w f hf => ?_
  have hr : fieldRefused s .gge o f.lsb (getBits old f.lsb f.w) (getBits merged f.lsb f.w) = false := rfl
  have hk : fieldKept s .gge o = false := rfl
  simp only [putFirst, hr, hk, h f hf, Fld.writable]
  by_cases h0 : getBits m f.lsb f.w = 0 <;> simp [h0]

/-- A field keeps its value while another one is written. -/
theorem fieldStep_apart {s : State} {i o old m v l w : Nat} {locked : Bool} {g : Fld} (x : WordW) (ha : g.acc = .rw)
    (ho : o ≠ 0x28) (h : l + w ≤ g.lsb ∨ g.lsb + g.w ≤ l) :
    getBits (fieldStep s .gge i o old m v locked x g).new l w = getBits x.new l w := by
  rw [fieldStep_gge x ha ho]
  split
  · rfl
  · exact getBits_setBits_ne _ _ h

/-- The channel source that a write of a trigger unit's configuration leaves: the given one where the mask has it. -/
def srcLeft (old m v : Nat) : Nat := if getBits m 4 2 = 0 then getBits old 4 2 else getBits (mergedWord old m v) 4 2

theorem getBits_condMask (s : State) (b : Blk) (o m merged w : Nat) {l : Nat} (h : 3 ≤ l) :
    getBits (condMask s b o m merged) l w = getBits m l w := by
  unfold condMask
  split
  · exact getBits_lor_low _ _ h
  · rfl

theorem getBits_merged_condMask (s : State) (b : Blk) (o old m v w : Nat) {l : Nat} (h3 : 3 ≤ l) (hw : l + w ≤ 32) :
    let m' := condMask s b o m (mergedWord old m v)
    getBits (mergedWord old m' (if m' = m then v else mergedWord old m v)) l w = getBits (mergedWord old m v) l w := by
  dsimp only
  split
  next he => rw [he]
  next hne =>
    unfold condMask at hne ⊢
    split
    · exact getBits_merged_again old m v w h3 hw
    next hc => rw [if_neg hc] at hne; exact absurd rfl hne

theorem getBits_given_src (s : State) (u : Fin 64) (old m v : Nat) :
    let merged := mergedWord old m v
    getBits (givenWord s .gge 0 (tgO u.val 0) old (condMask s .gge (tgO u.val 0) m merged) merged
      [condFld, srcFld, polFld, wmodeFld] old) 4 2 = srcLeft old m v := by
  dsimp only
  rw [givenWord_gge _ _ _ _ _ _ _ _ (by decide)]
  have hm := getBits_condMask s .gge (tgO u.val 0) m (mergedWord old m v) 2 (l := 4) (by decide)
  simp only [List.foldl_cons, List.foldl_nil, condFld, srcFld, polFld, wmodeFld, fa, srcLeft, hm]
  have keep {c : Prop} [Decidable c] (w l n a : Nat) (h : 4 + 2 ≤ l ∨ l + n ≤ 4) :
      getBits (if c then w else setBits w l n a) 4 2 = getBits w 4 2 := by
    split
    · rfl
    · exact getBits_setBits_ne _ _ h
  rw [keep _ _ _ _ (by decide), keep _ _ _ _ (by decide)]
  split
  · exact keep _ _ _ _ (by decide)
  · rw [getBits_setBits_same, getBits_lt]

/-- The word that a write of a trigger unit's configuration leaves, in its source and its condition. -/
theorem trig_new (s : State) (u : Fin 64) (m v : Nat) :
    let o := tgO u.val 0
    let old := (statusWord s .gge 0 o).getD (reg s .gge 0 o)
    let new := (wordStep s .gge 0 o m v).new
    getBits new 4 2 = srcLeft old m v ∧
      (getBits (condMask s .gge o m (mergedWord old m v)) 0 3 ≠ 0 → ∃ given new', getBits new' 4 2 = srcLeft old m v ∧
        getBits new 0 3 = clampVal 3 (rangeOf s .gge 0 o condFld new' given) given % 2 ^ 3) := by
  dsimp only
  have ho : tgO u.val 0 ≠ 0x28 := by simp only [tgO]; omega
  rw [wordStep_new, fieldsAt_trig]
  generalize (statusWord s .gge 0 (tgO u.val 0)).getD (reg s .gge 0 (tgO u.val 0)) = old
  have hsrc := getBits_given_src s u old m v
  have hgiven := getBits_merged_condMask s .gge (tgO u.val 0) old m v 2 (l := 4) (by decide) (by decide)
  have hmask := getBits_condMask s .gge (tgO u.val 0) m (mergedWord old m v) 2 (l := 4) (by decide)
  dsimp only at hsrc hgiven
  simp only [List.foldl_cons, List.foldl_nil]
  constructor
  · rw [fieldStep_apart _ rfl ho (.inl (by decide)), fieldStep_apart _ rfl ho (.inl (by decide)), fieldStep_gge _ rfl ho]
    simp only [srcFld, fa, hmask, hgiven, srcLeft]
    split
    next h0 =>
      rw [fieldStep_apart _ rfl ho (.inr (by decide))]
      exact hsrc.trans (if_pos h0)
    next => rw [getBits_setBits_same]; exact getBits_lt _ _ _
  · intro hc
    rw [fieldStep_apart _ rfl ho (.inl (by decide)), fieldStep_apart _ rfl ho (.inl (by decide)),
      fieldStep_apart _ rfl ho (.inl (by decide)), fieldStep_gge _ rfl ho]
    refine ⟨_, _, ?_, (congrArg (getBits · 0 3) (if_neg hc)).trans (getBits_setBits_same _ _ _ _)⟩
    rw [getBits_setBits_ne _ _ (.inr (by decide)), hsrc]

/-- Where the source is a travelling-wave channel on a variant S, the condition has one legal value. -/
theorem clampVal_cond (s : State) (u : Fin 64) (hv : s.fuse.variant = .s) {new given : Nat} (h : getBits new 4 2 = 1) :
    clampVal 3 (rangeOf s .gge 0 (tgO u.val 0) condFld new given) given % 2 ^ 3 = 0 := by
  have hr : rangeOf s .gge 0 (tgO u.val 0) condFld new given = .en [0] 0 := by
    show dynRange s .gge 0 (tgO u.val 0) condFld new given = _
    simp only [dynRange, condFld, fa, hv, h]
    rw [if_neg (by simp only [tgO]; omega), if_neg (by simp only [tgO]; omega), if_neg (by simp only [tgO]; omega)]
    rfl
  rw [hr]
  simp only [clampVal, List.mem_singleton]
  split
  next h0 => rw [h0, Nat.zero_mod]
  next => rfl

theorem condMask_touches {s : State} {u : Fin 64} (hv : s.fuse.variant = .s) {old m v : Nat}
    (hm : getBits m 0 3 ≠ 0 ∨ getBits m 4 2 ≠ 0) (h : srcLeft old m v = 1) :
    getBits (condMask s .gge (tgO u.val 0) m (mergedWord old m v)) 0 3 ≠ 0 := by
  have hseven : getBits (Nat.lor m 7) 0 3 = 7 := by
    show (m ||| 7) / 2 ^ 0 % 2 ^ 3 = 7
    rw [pow_zero, Nat.div_one, Nat.or_mod_two_pow]
    have : m % 2 ^ 3 < 8 := Nat.mod_lt _ (by decide)
    generalize m % 2 ^ 3 = k at this
    interval_cases k <;> rfl
  unfold condMask
  split
  · rw [hseven]; decide
  next hc =>
    rcases hm with hcond | hsrc
    · exact hcond
    · rw [srcLeft, if_neg hsrc] at h
      exact absurd ⟨rfl, hv, by simp only [tgO]; omega, by simp only [tgO]; omega, hsrc, h⟩ hc

/-- Settles O14: each pass over the fields puts bits of written fields alone; on a variant S the widened mask brings the
condition to its clamp. -/
theorem writeKeepsOtherBits : Obligations.WriteKeepsOtherBits := by
  unfold Obligations.WriteKeepsOtherBits
  constructor
  · intro s b i o m v n hn h
    exact wordStep_spares v fun f hf => sparedBit_condMask _ hn hf (h f hf)
  · intro s u m v hv
    dsimp only
    intro hm hone
    obtain ⟨hsrc, hcond⟩ := trig_new s u m.toNat v.toNat
    rw [hsrc] at hone
    obtain ⟨given, new', hnew, heq⟩ := hcond (condMask_touches hv hm hone)
    rw [heq]
    exact clampVal_cond s u hv (hnew.trans hone)

end Sys2Proof.Machine

/-!
LOCK (R29, R30): what the write of PG_LOCK comes to in every block. The obligation O15.
-/

namespace Sys2Proof.Machine

/-- No block computes the word of PG_LOCK. -/
theorem statusWord_lock (s : State) (b : Blk) (i : Nat) : statusWord s b i 0x28 = none := by
  cases b <;> rfl

theorem fieldsOf_lock (b : Blk) : fieldsOf b 0x28 = [f1 0x28 0 1 .rwl 0 .all] := by
  cases b <;> decide +kernel

/-- What a write of PG_LOCK sets off: the decision block alone looks at its outputs again. -/
theorem afterWrite_lock (s : State) (b : Blk) (i old m v : Nat) :
    (afterWrite s b i 0x28 old m v).1 = if b = .dec then decRefresh s else s := by
  cases b <;> rfl

theorem bankSel_lock (b : Blk) : bankSel b 0x28 = none := by cases b <;> rfl

theorem bankSel_owner (b : Blk) : bankSel b 0x2C = none := by cases b <;> rfl

theorem fieldRefused_lock (s : State) (b : Blk) (l a c : Nat) : fieldRefused s b 0x28 l a c = false := by
  cases b <;> rfl

theorem fieldKept_lock (s : State) (b : Blk) : fieldKept s b 0x28 = false := by simp [fieldKept]

theorem condMask_lock (s : State) (b : Blk) (m merged : Nat) : condMask s b 0x28 m merged = m :=
  if_neg fun h => absurd h.2.2.1 (by decide)

theorem mergedWord_one (old : Nat) : getBits (mergedWord old 1 1) 0 1 = 1 := by
  rw [getBits_bit, show bit (mergedWord old 1 1) 0 = true from ?_]
  · rfl
  · exact (testBit_mergedWord old 1 1 (by decide)).trans rfl

/-- The word of PG_LOCK that LOCK leaves: its bit is set, whether it was already or not. -/
theorem wordStep_lock (s : State) (b : Blk) (i : Nat) :
    let w := wordStep s b i 0x28 1 1
    w.any = true ∧ w.wrote = true ∧ w.clamps = [] ∧ w.refused = false ∧ bit w.new 0 = true := by
  have hfs : fieldsAt s b 0x28 = [f1 0x28 0 1 .rwl 0 .all] := by rw [fieldsAt_eq _ _ _ (by omega), fieldsOf_lock]
  have hm (old : Nat) := mergedWord_one old
  simp only [wordStep, hfs, statusWord_lock, Option.getD_none, condMask_lock, List.foldl_cons, List.foldl_nil, fieldStep,
    fieldRefused_lock, fieldKept_lock, given_eq, if_true, f1, Fld.writable, hm]
  cases hl : bit (reg s b i 0x28) 0 with
  | true => simp [getBits, hl]
  | false =>
    have hset (w : Nat) : bit (setBits w 0 1 1) 0 = true := by rw [bit, testBit_setBits]; rfl
    simp [getBits, clampVal, rangeOf, hset]

/-- LOCK of an accessible page is the word, its owner, and what the write sets off. -/
theorem busWrite_lock {s : State} {q : Requester} {b : Blk} {i : Nat} (h : accessible s q b i 0x28 = true) :
    (busWrite s q b i 0x28 1 1).st =
      (afterWrite (wordPut s q b i 0x28 (wordStep s b i 0x28 1 1).new) b i 0x28 (reg s b i 0x28) 1 1).1 := by
  obtain ⟨herr, hfused, hwindow⟩ := accessible_bus h
  obtain ⟨hany, hwrote, hclamps, hrefused, _⟩ := wordStep_lock s b i
  unfold busWrite
  rw [if_neg (by rw [herr]; decide), if_neg (by rw [hfused]; decide), if_neg hwindow]
  simp only [hany, hwrote, hclamps, hrefused, statusWord_lock, Option.getD_none, fieldsOf_lock, forEach, f1]
  simp [wordPut]

theorem regKey_plain {b : Blk} {o : Nat} (s : State) (i : Nat) (h : bankSel b o = none) : regKey s b i o = b.base i + o := by
  simp [regKey, h]

theorem ownerWord_lt (q : Requester) : ownerWord q < 2 ^ 32 := by
  have hi : q.index.toNat < 2 ^ 8 := q.index.isLt
  unfold ownerWord
  split <;> omega

theorem sameBut_wordPut {b : Blk} {o : Nat} (s : State) (q : Requester) (i v : Nat) (h : bankSel b o = none)
    (h2 : bankSel b 0x2C = none) : sameBut s (wordPut s q b i o v).regs (b.base i + o) (b.base i + 0x2C) := by
  unfold wordPut setReg
  rw [regKey_plain _ _ h2, regKey_plain _ _ h]
  exact sameBut_put _ (sameBut_put _ (sameBut_refl _ _ _) (.inl rfl)) (.inr rfl)

/-- Settles O15: in every block the write puts the bit and its owner; only the decision block goes on. -/
theorem lockStaysSet : Obligations.LockStaysSet := by
  unfold Obligations.LockStaysSet
  intro s q b i h
  have hexec : exec (.lock q b.code i) s = .next (after s (pageSet s q b i 0x28 1)) := by
    have hb : Blk.ofCode b.code = some b := by cases b <;> rfl
    show topRun (fun s => match Blk.ofCode b.code with
      | some b => pageSet s q b i 0x28 1
      | none => s) s = _
    rw [topRun_after, hb]
  obtain ⟨_, _, _, _, hbit⟩ := wordStep_lock s b i
  have hput : (pageSet s q b i 0x28 1) =
      if b = .dec then decRefresh (wordPut s q b i 0x28 (wordStep s b i 0x28 1 1).new)
      else wordPut s q b i 0x28 (wordStep s b i 0x28 1 1).new := by
    rw [pageSet, pageWrite_of_accessible _ _ h, busWrite_lock h, afterWrite_lock]
  refine ⟨(wordPut s q b i 0x28 (wordStep s b i 0x28 1 1).new).regs, ?run, ?set, ?owner, ?same⟩
  case run => rw [hexec, hput]; rfl
  case set =>
    show bit (reg (wordPut s q b i 0x28 _) b i 0x28) 0 = true
    rw [reg_wordPut _ _ _ _ _ _ (bankSel_lock b) (bankSel_owner b) (by decide), bit, Nat.testBit_mod_two_pow]
    exact (Bool.and_eq_true _ _).mpr ⟨by decide, hbit⟩
  case owner =>
    show reg (setReg _ b i 0x2C (ownerWord q)) b i 0x2C = _
    rw [reg_setReg_same _ _ _ _ _ (bankSel_owner b), Nat.mod_eq_of_lt (ownerWord_lt q)]
  case same => exact sameBut_wordPut s q i _ (bankSel_lock b) (bankSel_owner b)

end Sys2Proof.Machine

/-!
The journal (R36, R44, R45): the entry that every command has, its result when the command ends, and the commands that are turned
away before their own checks (R3, R15, R398). The obligation O20.
-/

namespace Sys2Proof.Machine

/-! ### The lengths of digests and entries -/

theorem keccakRounds_length (n r : Nat) {a : List Nat} (h : a.length = 25) : (keccakRounds n r a).length = 25 := by
  induction n generalizing r a with
  | zero => exact h
  | succ n ih => exact ih _ (by simp [keccakRound])

theorem keccakF_length {a : List Nat} (h : a.length = 25) : (keccakF a).length = 25 := keccakRounds_length 24 1 h

theorem keccakBlocks_length (n : Nat) {a : List Nat} (h : a.length = 25) (bs : List Byte) :
    (keccakBlocks n a bs).length = 25 := by
  induction n generalizing a bs with
  | zero => exact h
  | succ n ih => exact ih (keccakF_length (by simp)) _

theorem keccakSqueeze_length (n : Nat) {a : List Nat} (h : a.length = 25) : (keccakSqueeze n a).length = 136 * n := by
  induction n generalizing a with
  | zero => rfl
  | succ n ih =>
    have hflat : ((a.take 17).map (le 8)).flatten.length = 136 := by
      simp [List.length_flatten, Function.comp_def, h]
    rw [keccakSqueeze, List.length_append, hflat, ih (keccakF_length h)]
    ring

@[simp] theorem shake256_length (msg : List Byte) (n : Nat) : (shake256 msg n).length = n := by
  unfold shake256 sponge
  rw [List.length_take, keccakSqueeze_length _ (keccakBlocks_length _ (by simp) _)]
  omega

@[simp] theorem slice_length (bs : List Byte) (k n : Nat) : (slice bs k n).length = n := by
  simp only [slice, List.length_append, List.length_take, List.length_replicate]
  omega

@[simp] theorem withCrc_length (bs : List Byte) : (withCrc bs).length = bs.length + 4 := by simp [withCrc]

theorem jnlEntry_length (s : State) (seq : Nat) (m : CmdMsg) : (jnlEntry s seq m).length = 32 := by simp [jnlEntry]

@[simp] theorem rdBytes_length (s : State) (a n : Nat) : (rdBytes s a n).length = n := by simp [rdBytes]

theorem jnlWith_length {b : List Byte} (h : b.length = 32) (r : Nat) : (jnlWith b r).length = 32 := by simp [jnlWith, h]

theorem jnlWith_result {b : List Byte} (h : b.length = 32) (r : Nat) : numAt (jnlWith b r) 24 2 = r % 65536 := by
  have h24 : (b.take 24).length = 24 := by simp [h]
  have happ : jnlWith b r = b.take 24 ++ (le 2 r ++ (slice b 26 2 ++ le 4 (crc32 (b.take 24 ++ le 2 r ++ slice b 26 2)))) := by
    simp [jnlWith, withCrc]
  have hnum := numAt_le (b.take 24) (slice b 26 2 ++ le 4 (crc32 (b.take 24 ++ le 2 r ++ slice b 26 2))) 2 r
  rw [h24] at hnum
  rw [happ]
  exact hnum

/-! ### An entry opened and closed -/

theorem opened_entry (s : State) (c : CmdCtx) (op : Nat) (args : List Byte) :
    rdBytes (opened s c op args) (jnlAddr (nextSeq s.nv.jnlNewest)) 32 =
      jnlEntry s (nextSeq s.nv.jnlNewest) (msgOf s c op args) := by
  rw [← jnlEntry_length s (nextSeq s.nv.jnlNewest) (msgOf s c op args)]
  exact rdBytes_wrBytes { s with cmd := { s.cmd with queue := [], rr := portNum c.port } } _ _

/-- The journal at the end of a command: its entry with the result, while it stands. -/
def jnlClosed (t : State) (q r : Nat) : State :=
  if numAt (rdBytes t (jnlAddr q) 32) 0 4 = q then wrBytes t (jnlAddr q) (jnlWith (rdBytes t (jnlAddr q) 32) r) else t

/-- From CONSOLE the response goes out, with nothing else. -/
theorem finish_console (t : State) {m : CmdMsg} (q r : Nat) (d : List Byte) (h : m.ctx.port = .console) :
    finish t m q r d = emit (jnlClosed t q r) (.response m.ctx (responseBytes m.opcode.toNat r q m.ctx.tag d)) := by
  unfold finish respond
  rw [h]
  rfl

@[simp] theorem emit_rdByte (s : State) (o : Out) (a : Nat) : rdByte (emit s o) a = rdByte s a := rfl

@[simp] theorem emit_rdBytes (s : State) (o : Out) (a n : Nat) : rdBytes (emit s o) a n = rdBytes s a n := rfl

theorem jnlClosed_eq {t : State} {q r : Nat} (h : numAt (rdBytes t (jnlAddr q) 32) 0 4 = q) :
    rdBytes (jnlClosed t q r) (jnlAddr q) 32 = jnlWith (rdBytes t (jnlAddr q) 32) r := by
  have hlen := jnlWith_length (rdBytes_length t (jnlAddr q) 32) r
  rw [jnlClosed, if_pos h]
  have hread := rdBytes_wrBytes t (jnlAddr q) (jnlWith (rdBytes t (jnlAddr q) 32) r)
  rwa [hlen] at hread

theorem jnlClosed_out (t : State) (q r : Nat) : (jnlClosed t q r).out = t.out := by
  unfold jnlClosed
  split <;> rfl

theorem jnlClosed_regs (t : State) (q r : Nat) : (jnlClosed t q r).regs = t.regs := by
  unfold jnlClosed
  split <;> rfl

theorem jnlClosed_apart {t : State} {q r a : Nat} (h : a < jnlAddr q ∨ jnlAddr q + 32 ≤ a) :
    rdByte (jnlClosed t q r) a = rdByte t a := by
  unfold jnlClosed
  split
  · rw [rdByte_wrBytes, jnlWith_length (rdBytes_length _ _ _), if_neg (by omega)]
  · rfl

/-! ### Commands turned away -/

theorem execute_late {x : State} {m : CmdMsg} (h : m.late = true)
    (hc : [3, 4, 5, 6, 8].contains (m.opcode.toNat / 4096) = true) : execute x m = .done x rState [] := by
  have hclass : m.late = true ∧ (m.opcode.toNat / 4096 = 3 ∨ m.opcode.toNat / 4096 = 4 ∨ m.opcode.toNat / 4096 = 5 ∨
      m.opcode.toNat / 4096 = 6 ∨ m.opcode.toNat / 4096 = 8) := ⟨h, by simpa using hc⟩
  unfold execute
  exact if_pos hclass

theorem execute_absent {x : State} {m : CmdMsg} {b : Blk} (h : m.late = false) (hb : unitOf m.opcode.toNat = some b)
    (hf : fusedOff x b 0 = true) : execute x m = .done x rAbsent [] := by
  unfold execute
  simp only [hb, hf, h, Bool.false_eq_true, false_and, if_false, Bool.true_or, if_true]

theorem execute_down {x : State} {m : CmdMsg} {b : Blk} (h : m.late = false) (hb : unitOf m.opcode.toNat = some b)
    (hf : fusedOff x b 0 = false) (hp : ¬(m.opcode.toNat = 0x4006 ∧ pairPart x = false)) (hd : isDown x (b.island 0) = true) :
    execute x m = .done x rFailed [] := by
  have hpair : (m.opcode.toNat == 0x4006 && !pairPart x) = false := by
    simpa [Bool.and_eq_false_iff, beq_eq_false_iff_ne, imp_iff_not_or] using hp
  unfold execute
  simp only [hb, hf, h, hpair, hd, Bool.false_eq_true, false_and, if_false, Bool.false_or, if_true]

/-- Settles O20. -/
theorem commandsJournalledOrTurnedAway : Obligations.CommandsJournalledOrTurnedAway := by
  unfold Obligations.CommandsJournalledOrTurnedAway
  refine ⟨fun s c op args => ?opened, fun t m q r d hp => ?closed, fun s c op args hop => ?turned⟩
  case opened =>
    refine ⟨rfl, rfl, ?_, rfl, rfl, rfl, rfl, rfl⟩
    rw [opened_entry, List.take_of_length_le (by rw [jnlEntry_length])]
  case closed =>
    dsimp only
    rw [finish_console t q r d hp]
    simp only [emit_rdBytes, emit_rdByte, emit_wr, emit_out, emit_regs]
    refine ⟨fun h => ⟨jnlClosed_eq h, jnlWith_result (rdBytes_length _ _ _) r⟩, fun h => ?_, fun a ha => jnlClosed_apart ha, ?_, ?_⟩
    · rw [jnlClosed, if_neg h]
    · rw [jnlClosed_out]
    · exact jnlClosed_regs t q r
  case turned =>
    have hcode := msgOf_op s c op args hop
    refine ⟨fun hpf hc => execute_late hpf (by rw [hcode]; exact hc), fun hpf b hb => ⟨fun hf => ?_, fun hf hp hd => ?_⟩⟩
    · exact execute_absent hpf (by rw [hcode]; exact hb) hf
    · exact execute_down hpf (by rw [hcode]; exact hb) hf (by rw [hcode]; exact hp) hd

end Sys2Proof.Machine

/-!
Arguments of commands read back, and the commands of the journal, of registers, of the clamp report and of the staging area. The
obligation O21.
-/

namespace Sys2Proof.Machine

/-! ### Arguments -/

theorem toNat_mod_bytes {w n : Nat} (v : BitVec w) (h : w = 8 * n) : v.toNat % 256 ^ n = v.toNat := by
  have hv : v.toNat < 256 ^ n := by
    rw [show (256 : Nat) = 2 ^ 8 from rfl, ← pow_mul, ← h]
    exact v.isLt
  exact Nat.mod_eq_of_lt hv

/-- An operand that stands first among the arguments. -/
@[simp] theorem numAt_arg {w n : Nat} (v : BitVec w) (b : List Byte) (h : w = 8 * n) : numAt (le n v.toNat ++ b) 0 n = v.toNat := by
  rw [numAt_le_first, toNat_mod_bytes v h]

/-- An operand that stands alone. -/
@[simp] theorem numAt_arg_only {w n : Nat} (v : BitVec w) (h : w = 8 * n) : numAt (le n v.toNat) 0 n = v.toNat := by
  rw [numAt_le_only, toNat_mod_bytes v h]

/-- An operand that stands after another one. -/
@[simp] theorem numAt_next {n k : Nat} (v : Nat) (b : List Byte) (m : Nat) (h : n ≤ k) :
    numAt (le n v ++ b) k m = numAt b (k - n) m := by
  obtain ⟨j, rfl⟩ := Nat.exists_eq_add_of_le h
  rw [numAt_skip, Nat.add_sub_cancel_left]

@[simp] theorem msgOf_args (s : State) (c : CmdCtx) (op : Nat) (args : List Byte) : (msgOf s c op args).args = args := rfl
@[simp] theorem msgOf_ctx (s : State) (c : CmdCtx) (op : Nat) (args : List Byte) : (msgOf s c op args).ctx = c := rfl

/-! ### Registers by command -/

/-- The page that a register command names, from its three operands. -/
def pageOf (k i : BitVec 16) (o : Word) : Option (Blk × Nat × Nat) :=
  match Blk.ofCode k.toNat with
  | some b => if i.toNat < b.insts ∧ o.toNat < b.size then some (b, i.toNat, o.toNat) else none
  | none => none

theorem regOf_args (s : State) (c : CmdCtx) (op : Nat) (k i : BitVec 16) (o : Word) (rest : List Byte) :
    regOf (msgOf s c op (le 2 k.toNat ++ (le 2 i.toNat ++ (le 4 o.toNat ++ rest)))) = pageOf k i o := by
  cases h : Blk.ofCode k.toNat <;> simp [regOf, pageOf, h]

theorem pageOf_some {k i : BitVec 16} {o : Word} {b : Blk} (hb : Blk.ofCode k.toNat = some b) (hi : i.toNat < b.insts)
    (ho : o.toNat < b.size) : pageOf k i o = some (b, i.toNat, o.toNat) := by
  simp only [pageOf, hb, hi, ho, and_self, if_true]

theorem pageOf_none {k i : BitVec 16} {o : Word} {b : Blk} (hb : Blk.ofCode k.toNat = some b)
    (h : b.insts ≤ i.toNat ∨ b.size ≤ o.toNat) : pageOf k i o = none := by
  simp only [pageOf, hb]
  exact if_neg (by omega)

/-- The arguments of REG_WRITE. -/
def regWriteArgs (k i : BitVec 16) (o m v : Word) : List Byte :=
  le 2 k.toNat ++ le 2 i.toNat ++ le 4 o.toNat ++ le 4 m.toNat ++ le 4 v.toNat

/-- What REG_WRITE answers for what became of the write, in the order of the checks (R29, R38). -/
def writeResult (w : WrRes) : Nat :=
  if w.err then rFailed else if w.absent then rAbsent else if !w.field then rFailed else if w.locks != [] then rLocked
  else if w.refused then rState else if w.clamps != [] then rClamped else rOk

theorem regWrite_eq (s : State) (c : CmdCtx) (k i : BitVec 16) (o m v : Word) (x : State) :
    regWrite x (msgOf s c 0x3001 (regWriteArgs k i o m v)) = match pageOf k i o with
      | none => .done x rFailed []
      | some (b, i, o) =>
        .done (busWrite x (cmdReq c) b i o m.toNat v.toNat).st (writeResult (busWrite x (cmdReq c) b i o m.toNat v.toNat)) [] := by
  have hargs : regWriteArgs k i o m v = le 2 k.toNat ++ (le 2 i.toNat ++ (le 4 o.toNat ++ (le 4 m.toNat ++ le 4 v.toNat))) := by
    simp [regWriteArgs]
  rw [hargs, regWrite, regOf_args]
  cases pageOf k i o with
  | none => rfl
  | some w => simp [writeResult]

/-- REG_WRITE at a ready processor. -/
theorem exec_regWrite_ready {s : State} {c : CmdCtx} {k i : BitVec 16} {o m v : Word} {t : State} {r : Nat}
    (hr : ready s c 0x3001 (regWriteArgs k i o m v) = true) (hu : unitReady s 0x3001 = true)
    (h : regWrite (opened s c 0x3001 (regWriteArgs k i o m v)) (msgOf s c 0x3001 (regWriteArgs k i o m v)) = .done t r []) :
    exec (.regWrite c k i o m v) s = .next (after s (ended s c 0x3001 (regWriteArgs k i o m v) t r [])) :=
  exec_of_execute_done rfl (by decide) hr ((execute_3001 hu).trans h)

/-- REG_WRITE at a page that is there. -/
theorem exec_regWrite_page {s : State} {c : CmdCtx} {k i : BitVec 16} {o m v : Word} {b : Blk}
    (hr : ready s c 0x3001 (regWriteArgs k i o m v) = true) (hu : unitReady s 0x3001 = true)
    (hb : Blk.ofCode k.toNat = some b) (hi : i.toNat < b.insts) (ho : o.toNat < b.size) :
    let w := busWrite (opened s c 0x3001 (regWriteArgs k i o m v)) (cmdReq c) b i.toNat o.toNat m.toNat v.toNat
    exec (.regWrite c k i o m v) s = .next (after s (ended s c 0x3001 (regWriteArgs k i o m v) w.st (writeResult w) [])) :=
  exec_regWrite_ready hr hu (by rw [regWrite_eq, pageOf_some hb hi ho])

theorem exec_regWrite_noPage {s : State} {c : CmdCtx} {k i : BitVec 16} {o m v : Word}
    (hr : ready s c 0x3001 (regWriteArgs k i o m v) = true) (hu : unitReady s 0x3001 = true) (h : pageOf k i o = none) :
    let args := regWriteArgs k i o m v
    exec (.regWrite c k i o m v) s = .next (after s (ended s c 0x3001 args (opened s c 0x3001 args) rFailed [])) :=
  exec_regWrite_ready hr hu (by rw [regWrite_eq, h])

/-- The results of REG_WRITE when its write is not simply taken. -/
theorem regWrite_results (s : State) (c : CmdCtx) (k i : BitVec 16) (o m v : Word)
    (hr : ready s c 0x3001 (regWriteArgs k i o m v) = true) (hu : unitReady s 0x3001 = true) :
    let x := opened s c 0x3001 (regWriteArgs k i o m v)
    let ends (t : State) (r : Nat) : Prop :=
      exec (.regWrite c k i o m v) s = .next (after s (ended s c 0x3001 (regWriteArgs k i o m v) t r []))
    (Blk.ofCode k.toNat = none → ends x rFailed) ∧
     ∀ b, Blk.ofCode k.toNat = some b →
       (b.insts ≤ i.toNat ∨ b.size ≤ o.toNat → ends x rFailed) ∧
       (i.toNat < b.insts → o.toNat < b.size →
         (accessErr x b i.toNat o.toNat = true → ends x rFailed) ∧
         (accessErr x b i.toNat o.toNat = false → fusedOff x b i.toNat = true → ends x rAbsent) ∧
         (let w := busWrite x (cmdReq c) b i.toNat o.toNat m.toNat v.toNat
          (w.err = true → ends w.st rFailed) ∧
          (w.err = false → w.absent = false → w.field = false → ends w.st rFailed) ∧
          (w.err = false → w.absent = false → w.field = true →
           (w.locks ≠ [] → ends w.st rLocked) ∧ (w.locks = [] → w.refused = true → ends w.st rState) ∧
           (w.locks = [] → w.refused = false → w.clamps ≠ [] → ends w.st rClamped)))) := by
  intro x ends
  refine ⟨fun hk => exec_regWrite_noPage hr hu (by rw [pageOf, hk]), fun b hb => ⟨fun hno => ?_, fun hi ho => ?_⟩⟩
  · exact exec_regWrite_noPage hr hu (pageOf_none hb hno)
  · have hpage := exec_regWrite_page hr hu hb hi ho
    have result {t : State} {r : Nat} (w : WrRes)
        (hw : w = busWrite x (cmdReq c) b i.toNat o.toNat m.toNat v.toNat) (ht : w.st = t) (h : writeResult w = r) :
        ends t r := by
      subst hw ht h
      exact hpage
    refine ⟨fun he => result _ (busWrite_of_accessErr _ _ _ he).symm rfl rfl,
      fun he hf => result _ (busWrite_of_fusedOff _ _ hf he).symm rfl rfl, fun herr => result _ rfl rfl ?_,
      fun herr habs hfield => result _ rfl rfl ?_, fun herr habs hfield => ⟨fun hl => result _ rfl rfl ?_,
        fun hl href => result _ rfl rfl ?_, fun hl href hc => result _ rfl rfl ?_⟩⟩
    all_goals simp_all [writeResult]

/-- Settles O21. -/
theorem coreAndRegisterCommands : Obligations.CoreAndRegisterCommands := by
  unfold Obligations.CoreAndRegisterCommands
  refine ⟨⟨fun s c hr hu => ?info, fun s c first n => ?read, fun s c k i o b v t => ?regRead, fun s c first n => ?report,
    fun s c k i o m v b => ?regWrite, fun s c o data => ?stage⟩, fun s c k i o m v => regWrite_results s c k i o m v⟩
  case info => exact exec_of_execute_done rfl (by decide) hr (execute_1001 hu)
  case read =>
    intro args hr hu h1 h127
    have hexec := execute_1002 (s := s) (c := c) (args := args) hu
    have hfirst : numAt args 0 4 = first.toNat := by simp [args]
    have hn : numAt args 4 2 = n.toNat := by simp [args]
    have hcount : ¬(n.toNat < 1 ∨ 127 < n.toNat) := by omega
    simp only [hfirst, hn, jnlRead, if_neg hcount] at hexec
    refine ⟨fun hne hle hlt => exec_of_execute_done rfl (by decide) hr (hexec.trans ?_),
      fun h => exec_of_execute_done rfl (by decide) hr (hexec.trans ?_)⟩
    · have hne' : first.toNat ≠ 0 := fun h => hne (BitVec.eq_of_toNat_eq h)
      rw [if_neg (by omega)]
      rfl
    · rw [if_pos (h.imp_left fun h => h ▸ rfl)]
      rfl
  case regRead =>
    intro args hr hu hb hi ho hread
    have hreg : regOf (msgOf s c 0x1003 args) = some (b, i.toNat, o.toNat) := by
      have h := regOf_args s c 0x1003 k i o []
      rw [List.append_nil, ← List.append_assoc] at h
      exact h.trans (pageOf_some hb hi ho)
    refine exec_of_execute_done rfl (by decide) hr ((execute_1003 hu).trans ?_)
    rw [regRead, hreg]
    dsimp only
    rw [hread]
  case report =>
    intro args hr hu h1 h168
    have hfirst : numAt args 0 4 = first.toNat := by simp [args]
    have hn : numAt args 4 2 = n.toNat := by simp [args]
    refine exec_of_execute_done rfl (by decide) hr ((execute_1004 hu).trans ?_)
    rw [hfirst, hn, reportRead, if_neg (by omega)]
    rfl
  case regWrite =>
    intro args hr hu hb hi ho w herr habs hfield hlocks href hclamps
    have hpage := exec_regWrite_page hr hu hb hi ho
    have hok : writeResult w = rOk := by simp [writeResult, herr, habs, hfield, hlocks, href, hclamps]
    rw [done, ← hok]
    exact hpage
  case stage =>
    intro args hr hu hle
    have hoff : numAt args 0 4 = o.toNat := by simp [args]
    have hdata : args.drop 4 = data := by simp [args]
    refine exec_of_execute_done rfl (by decide) hr ((execute_3002 hu).trans ?_)
    rw [hoff, hdata, stageWrite, if_neg (by omega)]
    rfl

end Sys2Proof.Machine

/-!
CFG_APPLY (R10, R38, R40 to R43). The obligation O22.
-/

namespace Sys2Proof.Machine

/-- A command that ends with what a condition chooses. -/
theorem ofRes_ite {c : Prop} [Decidable c] (a b : Res) : Act.ofRes (if c then a else b) = if c then .ofRes a else .ofRes b :=
  apply_ite Act.ofRes c a b

/-- Settles O22: the checks stand in the operation in the order of the statement. -/
theorem cfgApplyCompletes : Obligations.CfgApplyCompletes := by
  unfold Obligations.CfgApplyCompletes
  intro s c addr len args
  refine answers_of rfl (by decide) fun hu => (execute_3003 hu).trans ?_
  generalize hx : opened s c 0x3003 args = x
  cases hobj : objOf x (msgOf s c 0x3003 args) with
  | none => rfl
  | some o =>
    obtain ⟨p, n⟩ := o
    dsimp only
    simp only [cfgApply, ofRes_ite, Bool.not_eq_true']
    cases poolPlace (verifyKey x (fld x .chk 0x44 0 2)).1
      [(verifyKey x (fld x .chk 0x44 0 2)).1.nv.cfg, (verifyKey x (fld x .chk 0x44 0 2)).1.nv.spn,
        (verifyKey x (fld x .chk 0x44 0 2)).1.nv.spnPend] n with
    | none => rfl
    | some _ => rfl

end Sys2Proof.Machine

/-!
Commands of time, acquisition and energy (R68, R161, R162, R195, R199) and the energy events (R194 to R201). The obligation O23.
-/

namespace Sys2Proof.Machine

/-! ### Commands that end with OK or STATE -/

theorem ofOption_ite {c : Prop} [Decidable c] (s : State) (a b : Option State) :
    Act.ofOption s (if c then a else b) = if c then .ofOption s a else .ofOption s b := apply_ite (Act.ofOption s) c a b

theorem ofBool_ite {c : Prop} [Decidable c] (s : State) (a b : State × Bool) :
    Act.ofBool s (if c then a else b) = if c then .ofBool s a else .ofBool s b := apply_ite (Act.ofBool s) c a b

@[simp] theorem ofOption_none (s : State) : Act.ofOption s none = .done s rState [] := rfl
@[simp] theorem ofOption_some (s t : State) : Act.ofOption s (some t) = .done t rOk [] := rfl

theorem toNat_eq_zero_iff {w : Nat} (v : BitVec w) : v.toNat = 0 ↔ v = 0 :=
  ⟨fun h => BitVec.eq_of_toNat_eq (h.trans (by simp)), fun h => by simp [h]⟩

/-- ACQ_CAL at a mask of channels. -/
theorem acqCal_act (x : State) (mask : Word) :
    (if mask.toNat < 0x1000000 then Act.ofBool x (acqCal x mask.toNat) else .done x rState []) =
      if 0x1000000 ≤ mask.toNat ∨ mask = 0 ∨ x.acq.cal.isSome = true then .done x rState []
      else
        let g : Nat := match x.tim.lastGrain with
          | some (sec, k) => sec * secU + k * 625000 * nsU / 9
          | none => 0
        let j := ((x.tim.time + 1000000 * nsU - g) * 9 + 625000 * nsU - 1) / (625000 * nsU)
        .done { x with acq := { x.acq with cal := some { mask := mask.toNat, start := x.tim.grains + j, step := 0, edges := [] } } }
          rOk [] := by
  by_cases hm : mask.toNat < 0x1000000
  · have hmod : mask.toNat % 2 ^ 24 = mask.toNat := Nat.mod_eq_of_lt hm
    rw [if_pos hm]
    simp only [acqCal, hmod, ofBool_ite, Bool.or_eq_true, decide_eq_true_eq, toNat_eq_zero_iff]
    by_cases hc : x.acq.cal.isSome = true ∨ mask = 0
    · rw [if_pos hc, if_pos (by rcases hc with h | h <;> simp [h])]
      rfl
    · rw [if_neg hc, if_neg (by rintro (h | h | h); exacts [absurd hm (by omega), hc (.inr h), hc (.inl h)])]
      rfl
  · rw [if_neg hm, if_pos (.inl (by omega))]

@[simp] theorem channelChange_calResult (s : State) (c : Nat) : (channelChange s c).acq.calResult = s.acq.calResult := by
  unfold channelChange settleNow
  dsimp only
  split <;> rfl

/-- Two folds whose steps agree wherever a property holds that the steps keep. -/
theorem foldl_congr_of_keeps {α : Type} {P : State → Prop} {f g : State → α → State} (hfg : ∀ s a, P s → f s a = g s a)
    (hP : ∀ s a, P s → P (g s a)) (l : List α) {s : State} (hs : P s) : l.foldl f s = l.foldl g s := by
  induction l generalizing s with
  | nil => rfl
  | cons a l ih => rw [List.foldl_cons, List.foldl_cons, hfg s a hs, ih (hP s a hs)]

theorem acO_lag (c : Nat) : acO c 8 = 0x108 + 0x40 * c := by
  simp only [acO]
  omega

/-- The measured LAG of the channels, one after the other: the results stay while the channels change. -/
theorem skewLoop_eq (l : List Nat) (x : State) :
    (forEach l x fun s c => match findK s.acq.calResult c with
        | some (lag, true) => channelChange (setReg s .acq 0 (acO c 8) (ofSigned 16 lag)) c
        | _ => s) =
      l.foldl (fun s c => match findK x.acq.calResult c with
        | some (lag, true) => channelChange (setReg s .acq 0 (0x108 + 0x40 * c) (ofSigned 16 lag)) c
        | _ => s) x := by
  refine foldl_congr_of_keeps (P := fun s => s.acq.calResult = x.acq.calResult) (fun s c h => ?_) (fun s c h => ?_) l rfl
  · simp only [h, acO_lag]
  · split
    · rw [channelChange_calResult, setReg_acq, h]
    · exact h

/-- ACQ_SKEW_APPLY at a mask of channels. -/
theorem skewApply_act (x : State) (mask : Word) :
    (if mask.toNat < 0x1000000 then Act.ofBool x (skewApply x mask.toNat) else .done x rState []) =
      if 0x1000000 ≤ mask.toNat ∨ x.acq.cal.isSome = true then .done x rState []
      else .done
        ((bitsOf mask.toNat 24).foldl (fun s c => match findK x.acq.calResult c with
          | some (lag, true) => channelChange (setReg s .acq 0 (0x108 + 0x40 * c) (ofSigned 16 lag)) c
          | _ => s) x) rOk [] := by
  by_cases hm : mask.toNat < 0x1000000
  · rw [if_pos hm, skewApply, ofBool_ite]
    by_cases hc : x.acq.cal.isSome = true
    · rw [if_pos hc, if_pos (.inr hc)]
      rfl
    · rw [if_neg hc, if_neg (by rintro (h | h); exacts [absurd hm (by omega), hc h])]
      exact congrArg (Act.done · rOk []) (skewLoop_eq _ x)
  · rw [if_neg hm, if_pos (.inl (by omega))]

/-! ### Saves -/

/-- The header of a save's image, its CRC apart. -/
def saveHead (s : State) (r : Nat) : List Byte :=
  le 4 0x4752454E ++ le 4 (s.nrg.saveSeq + 1) ++ le 1 r ++ List.replicate 3 0 ++ le 2 (fld s .nrg 0x40 0 12) ++ le 2 0 ++
      labelBytes s.nrg.lastLabel ++ List.replicate 28 0

/-- The meters as the image holds them. -/
def saveMeters (s : State) : List Byte := ((List.range 67).map fun m => meterBytes s m).flatten

/-- The slot that a save takes: the one that does not hold the newest image. -/
def nextSlot (s : State) : Nat := match s.nrg.saveSlot with
  | some k => 1 - k
  | none => 0

/-- A save that reaches the MRAM: the image in its slot, and the unit's number and place of it. -/
theorem energySave_eq {s : State} (r : Nat) (hv : s.fuse.variant ≠ .s) (hm : isDown s .memory = false) :
    energySave s r = { wrBytes (wrBytes s (slotAddr (nextSlot s) + 64) (saveMeters s)) (slotAddr (nextSlot s))
        (saveHead s r ++ le 4 (crc32 (saveHead s r ++ saveMeters s))) with
      nrg := { s.nrg with saveSeq := s.nrg.saveSeq + 1, saveSlot := some (nextSlot s) } } := by
  unfold energySave
  rw [if_neg hv, if_neg (by rw [hm]; decide)]
  rfl
theorem energySave_reason {s : State} (r : Nat) (hv : s.fuse.variant ≠ .s) (hm : isDown s .memory = false) :
    rdByte (energySave s r) (slotAddr (nextSlot s) + 8) = BitVec.ofNat 8 r := by
  rw [energySave_eq r hv hm]
  refine (rdByte_wrBytes _ _ _ _).trans ?_
  rw [if_pos (by simp only [List.length_append, le_length, saveHead]; omega), Nat.add_sub_cancel_left]
  rfl

theorem nrgOn_parts {s : State} (h : nrgOn s = true) :
    s.fuse.variant ≠ .s ∧ enabled s .nrg = true ∧ isUp s .phasor = true := by
  simpa [nrgOn, and_assoc] using h

/-- A row that saves. -/
theorem row_saves {i : Instr} {s : State} {r : Nat} (hi : exec i s = runOn (fun s => energySave s r) s) (hr : r < 256)
    (hon : nrgOn s = true) (hm : isUp s .memory = true) (hw : Memory.wf s.mem = true) :
    ∃ t, exec i s = .next t ∧ t.nrg = { s.nrg with saveSeq := s.nrg.saveSeq + 1, saveSlot := some (nextSlot s) } ∧
      rdNum t (slotAddr (t.nrg.saveSlot.getD 0) + 8) 1 = r ∧ t.regs = s.regs ∧ t.phx = s.phx := by
  obtain ⟨hv, _, _⟩ := nrgOn_parts hon
  have heq := energySave_eq (s := s) r hv (isDown_of_up hm)
  have hbyte : rdByte (stepEnd s (energySave s r)) (slotAddr (nextSlot s) + 8) = BitVec.ofNat 8 r := by
    rw [rdByte_stepEnd hw (by rw [heq]; rfl), energySave_reason r hv (isDown_of_up hm)]
  have hnrg : (stepEnd s (energySave s r)).nrg =
      { s.nrg with saveSeq := s.nrg.saveSeq + 1, saveSlot := some (nextSlot s) } := by rw [stepEnd_nrg, heq]
  refine ⟨stepEnd s (energySave s r), by rw [hi, runOn_eq], hnrg, ?_, by rw [stepEnd_regs, heq]; rfl,
    by rw [stepEnd_phx, heq]; rfl⟩
  have hslot : (stepEnd s (energySave s r)).nrg.saveSlot.getD 0 = nextSlot s := by rw [hnrg]; rfl
  rw [hslot]
  simp only [rdNum, rdBytes, List.range_one, List.map_cons, List.map_nil, Nat.add_zero, hbyte, ofLe, BitVec.toNat_ofNat]
  omega

/-! ### Changes of registers alone -/

/-- The second state differs from the first in register words alone. -/
def regsOnly (s t : State) : Prop := ∃ r, t = { s with regs := r }

theorem regsOnly.refl (s : State) : regsOnly s s := ⟨s.regs, rfl⟩

theorem regsOnly.trans {s t u : State} (h : regsOnly s t) (g : regsOnly t u) : regsOnly s u := by
  obtain ⟨r, rfl⟩ := h
  obtain ⟨r', rfl⟩ := g
  exact ⟨r', rfl⟩

theorem regsOnly_setReg (s : State) (b : Blk) (i o v : Nat) : regsOnly s (setReg s b i o v) := ⟨_, rfl⟩

theorem regsOnly_setReg2 (s : State) (b : Blk) (i o v : Nat) : regsOnly s (setReg2 s b i o v) := ⟨_, rfl⟩

theorem regsOnly_cnt (s : State) (b : Blk) (i o : Nat) : regsOnly s (cnt s b i o) := ⟨_, rfl⟩

theorem regsOnly_irq (s : State) (b : Blk) (n : Nat) : regsOnly s (irq s b n) := by
  unfold irq irqI
  split
  · exact regsOnly_setReg ..
  · exact .refl s

theorem regsOnly_forEach {α : Type} (l : List α) {f : State → α → State} (s : State) (h : ∀ s a, regsOnly s (f s a)) :
    regsOnly s (forEach l s f) :=
  forEach_induction (P := regsOnly s) l (.refl s) fun t a ht => ht.trans (h t a)

/-! ### Snapshots -/

theorem reg_setReg_nrg (s : State) (o p v : Nat) :
    reg (setReg s .nrg 0 o v) .nrg 0 p = if o = p then v % 2 ^ 32 else reg s .nrg 0 p := by
  have hk (x : State) (o : Nat) : regKey x .nrg 0 o = Blk.base .nrg 0 + o := regKey_plain x 0 rfl
  split
  next h => rw [h, reg_setReg_same _ _ _ _ _ rfl]
  next h => rw [reg_setReg_ne _ _ _ _ _ _ _ _ (by rw [hk, hk]; omega) (by rw [hk, hk])]

theorem reg_irq_nrg (s : State) (n : Nat) {o : Nat} (h : 0x18 ≠ o) : reg (irq s .nrg n) .nrg 0 o = reg s .nrg 0 o := by
  unfold irq irqI
  split
  · rw [reg_setReg_nrg, if_neg h]
  · rfl

theorem reg_setReg_nrg_ne (s : State) {o p : Nat} (v : Nat) (h : o ≠ p) :
    reg (setReg s .nrg 0 o v) .nrg 0 p = reg s .nrg 0 p := by rw [reg_setReg_nrg, if_neg h]

theorem reg_nrg (s : State) (x : Nrg) (b : Blk) (i o : Nat) : reg { s with nrg := x } b i o = reg s b i o := (rfl)

/-- A value of two words written and read. -/
theorem reg2_setReg2_nrg (s : State) (o v : Nat) : reg2 (setReg2 s .nrg 0 o v) .nrg 0 o = v % 2 ^ 64 := by
  simp only [reg2, setReg2, reg_setReg_nrg, if_true]
  rw [if_neg (by omega)]
  omega

theorem reg2_setReg2_nrg_ne (s : State) {o p : Nat} (v : Nat) (h : o + 8 ≤ p ∨ p + 8 ≤ o) :
    reg2 (setReg2 s .nrg 0 o v) .nrg 0 p = reg2 s .nrg 0 p := by
  simp only [reg2, setReg2, reg_setReg_nrg]
  rw [if_neg (by omega), if_neg (by omega), if_neg (by omega), if_neg (by omega)]

/-- A row of values of two words, each read in its place. -/
theorem reg2_forEach_nrg (f : Nat → Nat) (c : Nat) (l : List Nat) (s : State) (i : Nat) :
    reg2 (forEach l s fun s i => setReg2 s .nrg 0 (c + 8 * i) (f i)) .nrg 0 (c + 8 * i) =
      if i ∈ l then f i % 2 ^ 64 else reg2 s .nrg 0 (c + 8 * i) := by
  unfold forEach
  induction l generalizing s with
  | nil => rfl
  | cons k l ih =>
    rw [List.foldl_cons, ih]
    by_cases hl : i ∈ l
    · rw [if_pos hl, if_pos (List.mem_cons_of_mem k hl)]
    · rw [if_neg hl]
      by_cases hk : i = k
      · rw [hk, reg2_setReg2_nrg, if_pos List.mem_cons_self]
      · rw [reg2_setReg2_nrg_ne _ _ (by omega), if_neg (by simp [hk, hl])]

/-- The registers of a snapshot, above those of its label. -/
theorem reg2_snapshot {s : State} {m i : Nat} (h : s.nrg.snapReq = some m) (hi : i < 10) :
    reg2 (snapshot s) .nrg 0 (0x80 + 8 * i) = (mtOf s m).acc.getD i 0 / 2 ^ 32 % 2 ^ 64 := by
  have hrow := reg2_forEach_nrg (fun i => (mtOf s m).acc.getD i 0 / 2 ^ 32) 0x80 (List.range 10) s i
  rw [if_pos (List.mem_range.mpr hi)] at hrow
  rw [snapshot, h]
  dsimp only
  rw [← hrow]
  split <;>
    simp (disch := omega) only [reg2, setReg2, reg_irq_nrg, reg_nrg, reg_setReg_nrg_ne]

/-- A snapshot changes registers, and in the unit the request and the number. -/
theorem snapshot_eq {s : State} {m : Nat} (h : s.nrg.snapReq = some m) :
    ∃ r, snapshot s =
      { s with regs := r, nrg := { s.nrg with snapReq := none, snapSeq := (s.nrg.snapSeq + 1) % 65536 } } := by
  have hwords (f : Nat → Nat) : regsOnly s (forEach (List.range 10) s fun s i => setReg2 s .nrg 0 (0x80 + 8 * i) (f i)) :=
    regsOnly_forEach _ _ fun t i => regsOnly_setReg2 t .nrg 0 _ _
  rw [snapshot, h]
  dsimp only
  split
  next l _ =>
    obtain ⟨r, hr⟩ : regsOnly s _ := (((((hwords _).trans (regsOnly_setReg _ .nrg 0 0xD0 (mtOf s m).miss)).trans
      (regsOnly_setReg2 _ .nrg 0 0x58 l.sec)).trans (regsOnly_setReg _ .nrg 0 0x60 (l.ns + l.quality * 2 ^ 30))).trans
      (regsOnly_setReg _ .nrg 0 0x64 l.frac))
    rw [hr]
    obtain ⟨r', hr'⟩ := regsOnly_irq { { s with regs := r } with
      nrg := { s.nrg with snapReq := none, snapSeq := (s.nrg.snapSeq + 1) % 65536 } } .nrg 6
    exact ⟨r', hr'⟩
  next =>
    obtain ⟨r, hr⟩ : regsOnly s _ := (((((hwords _).trans (regsOnly_setReg _ .nrg 0 0xD0 (mtOf s m).miss)).trans
      (regsOnly_setReg2 _ .nrg 0 0x58 0)).trans (regsOnly_setReg _ .nrg 0 0x60 0)).trans (regsOnly_setReg _ .nrg 0 0x64 0))
    rw [hr]
    obtain ⟨r', hr'⟩ := regsOnly_irq { { s with regs := r } with
      nrg := { s.nrg with snapReq := none, snapSeq := (s.nrg.snapSeq + 1) % 65536 } } .nrg 6
    exact ⟨r', hr'⟩

/-! ### Voltage events and intervals -/

@[simp] theorem voltKind_nrg (s : State) (m kind now ext : Nat) (low startC endC : Bool) (st : Option (Nat × Nat)) :
    (voltKind s m kind now ext low startC endC st).1.nrg = s.nrg := by
  unfold voltKind
  cases st with
  | none => cases startC <;> simp
  | some e => cases endC <;> simp

@[simp] theorem qringWrite_meters (s : State) (entry : Nat → List Byte) : (qringWrite s entry).nrg.meters = s.nrg.meters := by
  unfold qringWrite
  dsimp only
  repeat' split
  all_goals simp [wrNum, wrBytes]

/-- The meter after a comparison of its half-cycle values. -/
def compared (x : Meter) (e : VEvt) : Meter :=
  { x with evt := e, seen := x.seen || (e.intr.isSome || e.dip.isSome || e.swell.isSome) }

theorem mtOf_congr {s t : State} (h : t.nrg = s.nrg) (m : Nat) : mtOf t m = mtOf s m := by rw [mtOf, mtOf, h]

theorem setMt_compared {s t : State} {m : Nat} (h : t.nrg = s.nrg) (e : VEvt) :
    setMt t m { mtOf t m with
        evt := e, seen := (mtOf t m).seen || (e.intr.isSome || e.dip.isSome || e.swell.isSome) } =
      setMt t m (compared (mtOf s m) e) := by
  rw [mtOf_congr h]
  rfl

/-- A comparison that is made leaves the meter compared, whatever counters, interrupts and records it sets off. -/
theorem voltageEvent_made {s : State} {m : Nat} (hon : mtOn s m = true) (hf : (mtOf s m).fault = 0) (hq : mtF s m 0 3 1 = 1)
    (hall : ((mtV s m).all fun c => (halfRms s c
      (roundTiesUp 14400000000 (((f0Hz s * 1000000 : Nat) : Int) + clampInt
        (((findK s.phx.grpStat (mtVg s m)).bind fun t => t.dfreq).getD 0) (-(((f0Hz s * 1000000 : Nat) : Int) / 20))
        (((f0Hz s * 1000000 : Nat) : Int) / 20)).toNat).toNat).isSome) = true) :
    ∃ t e, t.nrg = s.nrg ∧ voltageEvent s m = setMt t m (compared (mtOf s m) e) := by
  unfold voltageEvent
  rw [if_neg (by simp [hon, hf, hq])]
  dsimp only
  rw [if_neg ?some]
  case some =>
    simp only [List.any_map, List.any_eq_true, Function.comp_apply, not_exists, not_and, Bool.not_eq_true, List.all_eq_true] at hall ⊢
    intro c hc
    rw [Option.isNone_eq_false_iff]
    exact hall c hc
  exact ⟨_, _, by simp, setMt_compared (by simp) _⟩

theorem voltageEvent_cases (s : State) (m : Nat) :
    voltageEvent s m = s ∨ ∃ t e, t.nrg = s.nrg ∧ voltageEvent s m = setMt t m (compared (mtOf s m) e) := by
  unfold voltageEvent
  split
  · exact .inl rfl
  dsimp only
  split
  · exact .inl rfl
  · exact .inr ⟨_, _, by simp, setMt_compared (by simp) _⟩

/-- A comparison leaves the meter's energy. -/
theorem voltageEvent_acc (s : State) (m : Nat) : (mtOf (voltageEvent s m) m).acc = (mtOf s m).acc := by
  rcases voltageEvent_cases s m with h | ⟨t, e, _, h⟩
  · rw [h]
  · rw [h, mtOf_setMt]
    rfl

/-- A ring write changes no meter. -/
theorem mtOf_qringWrite (s : State) (entry : Nat → List Byte) (m : Nat) : mtOf (qringWrite s entry) m = mtOf s m := by
  rw [mtOf, qringWrite_meters, mtOf]

/-- Fifteen basic intervals go into the interval of 150 or 180 cycles. -/
theorem mtOf_qualityInterval {s : State} {m : Nat} (hon : mtOn s m = true) (hq : mtF s m 0 3 1 = 1)
    (hlen : 15 ≤ (mtOf s m).basic.length)
    (hagg : (aggregate m ((mtOf s m).basic.take 15) (intervalFreq (mtOf s m) (mtOf s m).fDone)).isSome = true) :
    mtOf (qualityInterval s m 0) m = { mtOf s m with basic := (mtOf s m).basic.drop 15, fDone := [] } := by
  obtain ⟨q, hq'⟩ := Option.isSome_iff_exists.mp hagg
  unfold qualityInterval
  rw [if_neg (by simp [hon, hq])]
  dsimp only
  rw [if_pos rfl, if_neg (by omega), hq']
  dsimp only
  rw [mtOf_qringWrite, mtOf_setMt]

/-! ### The obligation -/

/-- Settles O23: the commands are the operations of their opcodes; the events are the lemmas of save, snapshot, comparison and
interval. -/
theorem timeAcqEnergyCommands : Obligations.TimeAcqEnergyCommands := by
  unfold Obligations.TimeAcqEnergyCommands
  refine ⟨⟨fun s c sec ns => ?set, fun s c => ?rough, fun s c mask => ?cal, fun s c mask => ?skew⟩,
    ⟨fun s c => ?save, fun s c mask => ?clear⟩, fun s hon => ⟨fun hmem hwf => ?saved, fun m hm => ?snap, fun m hmon hq => ?meter⟩⟩
  case set =>
    refine answers_of rfl (by decide) fun hu => (execute_2010 hu).trans ?_
    have hsec : numAt (le 8 sec.toNat ++ le 4 ns.toNat) 0 8 = sec.toNat := by simp
    have hns : numAt (le 8 sec.toNat ++ le 4 ns.toNat) 8 4 = ns.toNat := by simp
    rw [hsec, hns, timSet, ofOption_ite]
    rfl
  case rough =>
    refine answers_of rfl (by decide) fun hu => (execute_2011 hu).trans ?_
    rw [reroughen, ofOption_ite]
    rfl
  case cal =>
    refine answers_of rfl (by decide) fun hu => (execute_2020 hu).trans ?_
    rw [numAt_arg_only mask rfl]
    exact acqCal_act _ mask
  case skew =>
    refine answers_of rfl (by decide) fun hu => (execute_2021 hu).trans ?_
    rw [numAt_arg_only mask rfl]
    exact skewApply_act _ mask
  case save => exact answers_of rfl (by decide) fun hu => execute_2030 hu
  case clear =>
    refine answers_of rfl (by decide) fun hu => (execute_8010 hu).trans ?_
    have hmask : numAt (le 12 mask.toNat) 0 12 = mask.toNat := by simp
    rw [hmask]
    simp only [toNat_eq_zero_iff, BitVec.ofNat_toNat, BitVec.setWidth_eq]
  case saved =>
    refine ⟨row_saves ?_ (by decide) hon hmem hwf, fun hpf => row_saves ?_ (by decide) hon hmem hwf⟩
    · show runOn (fun s => if nrgOn s then energySave s 0 else s) s = _
      rw [runOn_eq, if_pos hon, runOn_eq]
    · show runOn (fun s => if nrgOn s && s.aon.pf then energySave s 1 else s) s = _
      rw [runOn_eq, if_pos (by rw [hon, hpf]; rfl), runOn_eq]
  case snap =>
    obtain ⟨r, hr⟩ := snapshot_eq hm
    refine ⟨stepEnd s (snapshot s), ?_, ?_, fun i hi => reg2_snapshot hm hi, ?_, ?_⟩
    · show runOn (fun s => if nrgOn s then snapshot s else s) s = _
      rw [runOn_eq, if_pos hon]
    · rw [stepEnd_nrg, hr]
    · rw [stepEnd_out, hr]
    · rw [stepEnd_phx, hr]
  case meter =>
    refine ⟨⟨stepEnd s (voltageEvent s m.val), rfl, voltageEvent_acc s m.val, fun hf hall => ?_⟩, fun hlen hagg => ?_⟩
    · obtain ⟨t, e, _, h⟩ := voltageEvent_made hmon hf hq hall
      have hmt : mtOf (stepEnd s (voltageEvent s m.val)) m.val = compared (mtOf s m.val) e := by
        show mtOf (voltageEvent s m.val) m.val = _
        rw [h, mtOf_setMt]
      rw [hmt]
      simp only [compared, Bool.or_assoc]
    · refine ⟨stepEnd s (qualityInterval s m.val 0), rfl, ?_⟩
      have h := mtOf_qualityInterval hmon hq hlen hagg
      exact ⟨congrArg Meter.basic h, congrArg Meter.fDone h⟩

end Sys2Proof.Machine

/-!
Commands of the record store (R240) and of the event log (R368, R369). The obligation O24.
-/

namespace Sys2Proof.Machine

theorem toNat_lt_one_iff {w : Nat} (v : BitVec w) : v.toNat < 1 ↔ v = 0 := by
  rw [Nat.lt_one_iff, toNat_eq_zero_iff]

theorem toNat_ne_zero_iff {w : Nat} (v : BitVec w) : v.toNat ≠ 0 ↔ v ≠ 0 := not_congr (toNat_eq_zero_iff v)

@[simp] theorem ofRes_mk (s : State) (r : Nat) (d : List Byte) : Act.ofRes (s, r, d) = .done s r d := rfl

theorem pageAddr_eq (s : State) (p : Nat) : pageAddr s p = storeBase s + 0x40000 + 4096 * p := by
  rw [pageAddr, Nat.mul_comm]

/-! ### Deletion from the store -/

/-- The records that a deletion of at most `k` takes: the oldest, up to the first that is RECORDING. -/
def deletable (k : Nat) (l : List Held) : List Held := (l.takeWhile fun h => !h.recording).take k

/-- The store without its first records: memory apart, nothing else changed. -/
def storeWithout (s t : State) (n : Nat) : Prop :=
  t.gge.recs = s.gge.recs.drop n ∧ t.gge.opened = s.gge.opened ∧ t.regs = s.regs

theorem deleteRecords_eq (k : Nat) (s : State) (d : Nat) :
    (deleteRecords k s d).2 = d + (deletable k s.gge.recs).length ∧
      storeWithout s (deleteRecords k s d).1 (deletable k s.gge.recs).length := by
  induction k generalizing s d with
  | zero => exact ⟨rfl, rfl, rfl, rfl⟩
  | succ k ih =>
    unfold deleteRecords
    cases hrecs : s.gge.recs with
    | nil => exact ⟨rfl, by rw [hrecs]; rfl, rfl, rfl⟩
    | cons h rest =>
      dsimp only
      cases hr : h.recording with
      | true =>
        have hnone : deletable (k + 1) (h :: rest) = [] := by simp [deletable, hr]
        rw [if_pos rfl, hnone]
        exact ⟨rfl, rfl, rfl, rfl⟩
      | false =>
        have hsome : deletable (k + 1) (h :: rest) = h :: deletable k rest := by simp [deletable, hr]
        have hdrop : (dropOldest s).gge.recs = rest ∧ (dropOldest s).gge.opened = s.gge.opened ∧
            (dropOldest s).regs = s.regs := by
          simp [dropOldest, hrecs, entryState, wrBytes]
        obtain ⟨hcount, hkept, hopened, hregs⟩ := ih (dropOldest s) (d + 1)
        rw [hdrop.1] at hcount hkept
        rw [if_neg (by decide), hsome]
        refine ⟨hcount.trans ?_, hkept.trans ?_, hopened.trans hdrop.2.1, hregs.trans hdrop.2.2⟩
        · rw [List.length_cons]
          omega
        · rw [hrecs]
          rfl

/-! ### The obligation -/

/-- Settles O24: each command is its operation; a deletion goes record by record from the oldest. -/
theorem recordAndLogCommands : Obligations.RecordAndLogCommands := by
  unfold Obligations.RecordAndLogCommands
  refine ⟨⟨fun s c first n => ?index, fun s c num off n => ?read, fun s c num part file off n => ?exported,
    fun s c => ?manual, fun s c n => ?delete⟩, fun k s => ?deleted,
    ⟨fun s c => answers_of rfl (by decide) fun hu => execute_1050 hu, fun s c first n => ?evrRead, fun s c n => ?evrClear⟩⟩
  case index =>
    have hfirst : numAt (le 4 first.toNat ++ le 2 n.toNat) 0 4 = first.toNat := by simp
    have hn : numAt (le 4 first.toNat ++ le 2 n.toNat) 4 2 = n.toNat := by simp
    refine answers_of rfl (by decide) fun hu => (execute_1020 hu).trans ?_
    simp only [hfirst, hn, ggeIndexOp, ofRes_ite, toNat_lt_one_iff, ofRes_mk]
    rfl
  case read =>
    have hnum : numAt (le 4 num.toNat ++ le 8 off.toNat ++ le 2 n.toNat) 0 4 = num.toNat := by simp
    have hoff : numAt (le 4 num.toNat ++ le 8 off.toNat ++ le 2 n.toNat) 4 8 = off.toNat := by simp
    have hn : numAt (le 4 num.toNat ++ le 8 off.toNat ++ le 2 n.toNat) 12 2 = n.toNat := by simp
    refine answers_of rfl (by decide) fun hu => (execute_1021 hu).trans ?_
    simp only [hnum, hoff, hn, ggeReadOp, heldRec]
    cases (opened s c 0x1021 (le 4 num.toNat ++ le 8 off.toNat ++ le 2 n.toNat)).gge.recs.find? fun h => h.num == num.toNat with
    | none => rfl
    | some h =>
      simp only [ofRes_ite, toNat_lt_one_iff, ofRes_mk, pageAddr_eq]
  case exported =>
    have hnum : numAt (le 4 num.toNat ++ le 1 part.toNat ++ le 1 file.toNat ++ le 8 off.toNat ++ le 2 n.toNat) 0 4 = num.toNat := by
      simp
    have hpart : numAt (le 4 num.toNat ++ le 1 part.toNat ++ le 1 file.toNat ++ le 8 off.toNat ++ le 2 n.toNat) 4 1 = part.toNat := by
      simp
    have hfile : numAt (le 4 num.toNat ++ le 1 part.toNat ++ le 1 file.toNat ++ le 8 off.toNat ++ le 2 n.toNat) 5 1 = file.toNat := by
      simp
    have hoff : numAt (le 4 num.toNat ++ le 1 part.toNat ++ le 1 file.toNat ++ le 8 off.toNat ++ le 2 n.toNat) 6 8 = off.toNat := by
      simp
    have hn : numAt (le 4 num.toNat ++ le 1 part.toNat ++ le 1 file.toNat ++ le 8 off.toNat ++ le 2 n.toNat) 14 2 = n.toNat := by simp
    refine answers_of rfl (by decide) fun hu => (execute_1022 hu).trans ?_
    simp only [hnum, hpart, hfile, hoff, hn, ggeExportOp, heldRec]
    generalize opened s c 0x1022 _ = x
    cases x.gge.recs.find? fun h => h.num == num.toNat with
    | none => rfl
    | some h =>
      simp only [ofRes_ite, toNat_lt_one_iff, toNat_eq_zero_iff, ofRes_mk, pageAddr_eq, hdr, Nat.add_zero]
      rw [← ite_or]
      simp only [or_assoc]
  case manual =>
    refine answers_of rfl (by decide) fun hu => (execute_2040 hu).trans ?_
    generalize opened s c 0x2040 [] = x
    rw [ggeManualOp, ofRes_ite]
    by_cases hoff : x.gge.state = .disarmed ∨ ggeOn x = false
    · rw [if_pos hoff, if_pos hoff]
      rfl
    · rw [if_neg hoff, if_neg hoff, manualFiring]
      simp only [if_neg fun h => hoff (.inl h)]
      rfl
  case delete =>
    refine answers_of rfl (by decide) fun hu => (execute_8020 hu).trans ?_
    have hall : n.toNat = 0xFFFFFFFF ↔ n = 0xFFFFFFFF := by rw [← BitVec.toNat_inj]; rfl
    rw [numAt_arg_only n rfl]
    simp only [ggeDeleteOp, hall]
    rfl
  case deleted =>
    have h := deleteRecords_eq k s 0
    rw [Nat.zero_add] at h
    exact h
  case evrRead =>
    have hfirst : numAt (le 4 first.toNat ++ le 2 n.toNat) 0 4 = first.toNat := by simp
    have hn : numAt (le 4 first.toNat ++ le 2 n.toNat) 4 2 = n.toNat := by simp
    refine answers_of rfl (by decide) fun hu => (execute_1051 hu).trans ?_
    simp only [hfirst, hn, evrReadOp, ofRes_ite, toNat_lt_one_iff, toNat_eq_zero_iff, ofRes_mk]
    rfl
  case evrClear =>
    refine answers_of rfl (by decide) fun hu => (execute_8030 hu).trans ?_
    rw [numAt_arg_only n rfl]
    simp only [evrClearOp, ofRes_ite, toNat_ne_zero_iff, ofRes_mk]

end Sys2Proof.Machine

/-!
The operations of a slice (R264, R273, R274, R276, R277, R280) and the rows and commands that run them (R283, R284).
-/

namespace Sys2Proof.Machine

/-- An operation that no operation in progress keeps back is looked up by its code. -/
theorem sliceOp_eq {s : State} {i op : Nat} {r : Bool}
    (h : ((slOf s i).busy && op != 2 && !(op == 1 && (slOf s i).state == .freezing)) = false) :
    sliceOp s i op r =
      if op = 1 then partStart s i false r
      else if op = 2 then partStart s i true r
      else if op = 3 then freezeStart s i
      else if op = 4 then resumeSlice s i
      else if op = 5 then logStart s i
      else if op = 6 then logSwap s i
      else if op = 7 then logStop s i
      else receiveStart s i := by
  simp only [sliceOp, h, Bool.false_eq_true, if_false]

theorem sliceOp_squash (s : State) (i : Nat) (r : Bool) : sliceOp s i 2 r = partStart s i true r :=
  sliceOp_eq (by simp)

theorem sliceOp_drain {s : State} {i : Nat} (r : Bool) (h : (slOf s i).busy = false ∨ (slOf s i).state = .freezing) :
    sliceOp s i 1 r = partStart s i false r :=
  sliceOp_eq (by rcases h with h | h <;> simp [h])

theorem sliceOp_refused {s : State} {i op : Nat} (r : Bool) (h : (slOf s i).busy = true) (h2 : op ≠ 2)
    (h1 : op = 1 → (slOf s i).state ≠ .freezing) : sliceOp s i op r = none := by
  have blocked : ((slOf s i).busy && op != 2 && !(op == 1 && (slOf s i).state == .freezing)) = true := by
    by_cases ho : op = 1
    · simp [h, ho, h1 ho]
    · simp [h, h2, ho]
  simp only [sliceOp, blocked, if_true]

/-- A parting that begins in ACTIVE, FREEZING or FROZEN (R273). -/
theorem partStart_running {s : State} {i : Nat} (q r : Bool)
    (h : ((slOf s i).state == .active || (slOf s i).state == .freezing || (slOf s i).state == .frozen) = true) :
    partStart s i q r =
      some (slGo (setSl s i
        (if q then { slOf s i with busy := true, log := false, swapping := false, squash := true, blocked := true, desc := none }
         else { slOf s i with busy := true, log := false, swapping := false, squash := false })) i .parting) := by
  rcases hst : (slOf s i).state with _ | _ | _ | _ | _ | _ <;> simp [hst] at h <;> cases q <;> simp [partStart, hst]

/-- Settles O25, state by state. -/
theorem sliceOperations : Obligations.SliceOperations := by
  unfold Obligations.SliceOperations
  intro s i r
  refine ⟨fun hr hb => ?_, fun hr => ?_, fun hst hb => ?_, fun hst => ?_, fun hst => ?_, fun hb op h2 h1 => ?_, fun hb => ?_⟩
  · rw [sliceOp_drain r hb, partStart_running false r hr]
    rfl
  · rw [sliceOp_squash, partStart_running true r hr]
    rfl
  · rw [sliceOp_drain r (.inl hb), sliceOp_squash]
    simp [partStart, hst]
  · constructor
    · cases hb : (slOf s i).busy with
      | true => exact sliceOp_refused r hb (by decide) (by simp [hst])
      | false => rw [sliceOp_drain r (.inl hb)]; simp [partStart, hst]
    · rw [sliceOp_squash]
      cases hq : (slOf s i).squash <;> simp [partStart, hst, hq]
  · constructor
    · cases hb : (slOf s i).busy with
      | true => exact sliceOp_refused false hb (by decide) (by simp [hst])
      | false => rw [sliceOp_drain false (.inl hb)]; simp [partStart, hst]
    · rw [sliceOp_squash]
      simp [partStart, hst]
  · exact sliceOp_refused r hb h2 h1
  · have op {k : Nat} : ((slOf s i).busy && k != 2 && !(k == 1 && (slOf s i).state == .freezing)) = false := by simp [hb]
    exact ⟨(sliceOp_eq op).trans (by simp [freezeStart, hb]), (sliceOp_eq op).trans (by simp [resumeSlice, hb]),
      sliceOp_eq op, sliceOp_eq op, sliceOp_eq op, sliceOp_eq op⟩

/-! ### The rows of S_OP and of the rings -/

/-- The fields of S_OP. -/
theorem opFields : ∀ i < 64, fieldsOf .slc (slOff i 0x64) =
    [fa 0x1064 64 0x80 0 4 .rw 0 (.en [1, 2, 3, 4, 5, 6, 7, 8] 3), fa 0x1064 64 0x80 31 1 .rw 0 .all] := by
  decide +kernel

/-- The values that the rows write to S_OP. -/
theorem opValues : ∀ op, op ≤ 8 → 1 ≤ op →
    [fa 0x1064 64 0x80 0 4 .rw 0 (.en [1, 2, 3, 4, 5, 6, 7, 8] 3), fa 0x1064 64 0x80 31 1 .rw 0 .all].all
        (plainField 0x8000000F (0x80000000 + op)) = true ∧
      getBits (Nat.land (0x80000000 + op) 0x8000000F) 0 4 = op ∧
      bit (Nat.land (0x80000000 + op) 0x8000000F) 31 = true := by
  decide +kernel

theorem slOff_slice (i : Nat) {o : Nat} (h : o < 0x80) : (slOff i o - 0x1000) / 0x80 = i ∧ (slOff i o - 0x1000) % 0x80 = o := by
  unfold slOff
  omega

/-- What a write to S_OP with GO sets off. -/
theorem slcWritten_op (s : State) (i old mask ones : Nat) (h : bit ones 31 = true) :
    (slcWritten s (slOff i 0x64) old mask ones).1 =
      (let t := setReg s .slc 0 (slOff i 0x64) (setBits (slReg s i 0x64) 31 1 0)
       (sliceOp t i (getBits (slReg s i 0x64) 0 4) (restoring t i)).getD t) := by
  have low : ¬ slOff i 0x64 < 0x1000 := by unfold slOff; omega
  obtain ⟨hi, ho⟩ := slOff_slice i (o := 0x64) (by decide)
  simp only [slcWritten, if_neg low, hi, ho, h, if_true]
  rw [if_neg (by decide), if_neg (by decide)]
  generalize setReg s .slc 0 (slOff i 0x64) (setBits (slReg s i 0x64) 31 1 0) = t
  cases sliceOp t i (getBits (slReg s i 0x64) 0 4) (restoring t i) <;> rfl

/-- S_OP with GO runs the operation, when it is legal. -/
theorem slcGo_eq {s : State} {q : Requester} {i : Nat} (op : Nat) (hi : i < 64) (ho : 1 ≤ op ∧ op ≤ 8)
    (h : accessible s q .slc 0 (slOff i 0x64) = true) :
    ∃ r, slcGo s q i op = (sliceOp { s with regs := r } i op (restoring s i)).getD { s with regs := r } ∧
      sameBut s r (Blk.base .slc 0 + slOff i 0x64) (Blk.base .slc 0 + 0x2C) := by
  obtain ⟨h1, h2, h3⟩ := opValues op ho.2 ho.1
  have hf := opFields i hi
  have hany : (fieldsOf .slc (slOff i 0x64)).any (fun f => getBits 0x8000000F f.lsb f.w != 0) = true := by rw [hf]; decide
  have hwo : ((fieldsOf .slc (slOff i 0x64)).any fun f => f.acc == .wo) = false := by rw [hf]; decide
  have hr : ∀ l a c, fieldRefused s .slc (slOff i 0x64) l a c = false := by
    intro l a c
    have low : ¬ slOff i 0x64 < 0x1000 := by unfold slOff; omega
    simp [fieldRefused, groupOpen, low, (slOff_slice i (o := 0x64) (by decide)).2]
  have hne : slOff i 0x64 ≠ 0x28 ∧ slOff i 0x64 ≠ 0x2C := by unfold slOff; omega
  unfold slcGo slcSet
  generalize 0x80000000 + op = v at *
  rw [← hf] at h1
  obtain ⟨w, hw⟩ := busWrite_plain (q := q) (i := 0) h (by decide) (fieldsAt_eq s .slc (slOff i 0x64) (by simp)) h1 hany hr
    (by simp [fieldKept]) hne.1 hwo (by decide)
  rw [hw]
  have hbits : getBits (putFields 0x8000000F v (fieldsOf .slc (slOff i 0x64)) w % 2 ^ 32) 0 4 = op := by
    rw [getBits_mod _ (by decide), ← h2]
    exact getBits_putFields _ _ (fa 0x1064 64 0x80 0 4 .rw 0 (.en [1, 2, 3, 4, 5, 6, 7, 8] 3)) _ (by rw [hf]; simp)
      (by rw [hf]; simp [apart, fa]) (by decide) _
  generalize putFields 0x8000000F v (fieldsOf .slc (slOff i 0x64)) w = W at hbits
  have hW := reg_wordPut s q .slc 0 (slOff i 0x64) W rfl rfl hne.2
  obtain ⟨r, e1, e2⟩ := sameBut_go (s := s) (q := q) (b := .slc) (i := 0) (o := slOff i 0x64) W
    (setBits (reg (wordPut s q .slc 0 (slOff i 0x64) W) .slc 0 (slOff i 0x64)) 31 1 0) rfl rfl
  refine ⟨r, ?_, e2⟩
  generalize (statusWord s .slc 0 (slOff i 0x64)).getD (reg s .slc 0 (slOff i 0x64)) = old
  have hafter (x : State) : (afterWrite x .slc 0 (slOff i 0x64) old 0x8000000F (Nat.land v 0x8000000F)).1 =
      (slcWritten x (slOff i 0x64) old 0x8000000F (Nat.land v 0x8000000F)).1 := by
    have : ¬ (slOff i 0x64 = 8 ∧ bit (Nat.land v 0x8000000F) 1 = true) := by unfold slOff; omega
    simp only [afterWrite, if_neg this]
  rw [hafter, slcWritten_op _ _ _ _ _ h3]
  dsimp only
  simp only [slReg]
  rw [e1, hW, hbits]
  rfl


/-- A word banked by SVS_SLC_SEL stands under the key of the slice selected. -/
theorem regKey_ring (s : State) {o : Nat} (h : o = 0x10C ∨ o = 0x11C) :
    regKey s .svs 0 o = bankKey .svs 0 o ((findK s.regs (Blk.base .svs 0 + 0x100)).getD 0).toNat := by
  rcases h with rfl | rfl <;> rfl

theorem ringFields (g : Bool) : (fieldsOf .svs (if g then 0x11C else 0x10C)).all (plainField 1 1) = true ∧
    f1 (if g then 0x11C else 0x10C) 0 1 .rw 0 .all ∈ fieldsOf .svs (if g then 0x11C else 0x10C) ∧
    (fieldsOf .svs (if g then 0x11C else 0x10C)).Pairwise apart ∧
    ((fieldsOf .svs (if g then 0x11C else 0x10C)).any fun f => f.acc == .wo) = false ∧
    (fieldsOf .svs (if g then 0x11C else 0x10C)).any (fun f => getBits 1 f.lsb f.w != 0) = true := by
  unfold apart
  cases g <;> decide +kernel

theorem selFields : fieldsOf .svs 0x100 = [f1 0x100 0 6 .rw 0 .all] := by decide +kernel

/-- The word of SVS_SLC_SEL that names a slice. -/
theorem ringSelect {s : State} {q : Requester} {i : Nat} (hi : i < 64) (h : accessible s q .svs 0 0x100 = true) :
    ∃ W, pageWrite s q .svs 0 0x100 0x3F i = wordPut s q .svs 0 0x100 W ∧ getBits W 0 6 = i := by
  have hall : ∀ i < 64, [f1 0x100 0 6 .rw 0 .all].all (plainField 0x3F i) = true ∧ getBits (Nat.land i 0x3F) 0 6 = i := by
    decide +kernel
  obtain ⟨h1, h2⟩ := hall i hi
  rw [← selFields] at h1
  obtain ⟨w, hw⟩ := busWrite_plain (q := q) (i := 0) h (by decide) (fieldsAt_eq s .svs 0x100 (by decide)) h1
    (by rw [selFields]; decide) (fun _ _ _ => rfl) rfl (by decide) (by rw [selFields]; decide) (by decide)
  refine ⟨putFields 0x3F i (fieldsOf .svs 0x100) w, hw, ?_⟩
  exact (getBits_putFields 0x3F i (f1 0x100 0 6 .rw 0 .all) (fieldsOf .svs 0x100) (by rw [selFields]; simp)
    (by rw [selFields]; simp) (by decide) w).trans h2

/-- What EN of a ring written 1 sets off. -/
theorem afterWrite_ring (x : State) (g : Bool) (old : Nat) :
    (afterWrite x .svs 0 (if g then 0x11C else 0x10C) old 1 (Nat.land 1 1)).1 = ringEnable x g (fld x .svs 0x100 0 6) := by
  have h0 : bit (Nat.land 1 1) 0 = true ∧ bit 1 0 = true := by decide
  cases g <;> simp [afterWrite, svsWritten, h0]

/-- EN of a ring written 1, on a state whose selector names the slice. -/
theorem ringEn {s : State} {q : Requester} (g : Bool) (h : accessible s q .svs 0 (if g then 0x11C else 0x10C) = true) :
    ∃ W, pageSet s q .svs 0 (if g then 0x11C else 0x10C) 1 =
        ringEnable (wordPut s q .svs 0 (if g then 0x11C else 0x10C) W) g
          (fld (wordPut s q .svs 0 (if g then 0x11C else 0x10C) W) .svs 0x100 0 6) ∧ bit W 0 = true := by
  obtain ⟨hall, hmem, hap, hwo, hany⟩ := ringFields g
  obtain ⟨w, hw⟩ := busWrite_plain (q := q) (i := 0) h (by decide) (fieldsAt_eq s .svs _ (by cases g <;> decide)) hall
    hany (fun _ _ _ => rfl) rfl (by cases g <;> decide) hwo (by decide)
  refine ⟨putFields 1 1 (fieldsOf .svs (if g then 0x11C else 0x10C)) w, hw.trans (afterWrite_ring _ g _), ?_⟩
  · have := getBits_putFields 1 1 _ _ hmem hap (by cases g <;> decide) w
    have h1 : getBits (putFields 1 1 (fieldsOf .svs (if g then 0x11C else 0x10C)) w) 0 1 = 1 :=
      this.trans (show getBits (Nat.land 1 1) 0 1 = 1 by decide)
    simpa [bit, getBits] using h1

/-- The words of a ring are reached where SVS_SLC_SEL is, whatever that says. -/
theorem accessible_ring {s : State} {q : Requester} (g : Bool) (W : Nat) (h : accessible s q .svs 0 0x100 = true) :
    accessible (wordPut s q .svs 0 0x100 W) q .svs 0 (if g then 0x11C else 0x10C) = true := by
  have hf : (fieldsOf .svs 0x10C).isEmpty = false ∧ (fieldsOf .svs 0x11C).isEmpty = false := by decide +kernel
  have hrch := accessible_reaches h
  obtain ⟨herr, -, -⟩ := accessible_bus h
  have hup : isDown s .switch = false ∧ isDown s .stream = false ∨ isDown s .stream = false := by
    simp [accessErr, fusedOff, Blk.island] at herr
    exact .inr herr.2.1
  have hd : isDown (wordPut s q .svs 0 0x100 W) .stream = false := hup.elim And.right id
  have hcls : q.cls ≠ .host ∧ q.cls ≠ .none ∧ q.cls ≠ .slice := by
    unfold reaches at hrch
    refine ⟨?_, ?_, ?_⟩ <;> intro hc <;> simp [hc, mailboxWord] at hrch
  have hr (o : Nat) : reaches q .svs 0 o = true := by
    obtain ⟨h1, h2, h3⟩ := hcls
    unfold reaches
    cases hc : q.cls <;> simp_all
  have ha : arrives (wordPut s q .svs 0 0x100 W) q = true := by simp [arrives, hcls.1]
  cases g <;> simp [accessible, hr, ha, accessErr, fusedOff, Blk.island, hd, hf, Blk.insts]

/-- The register file after a word was put. -/
theorem findK_wordPut (s : State) (q : Requester) (o W k : Nat) :
    findK (wordPut s q .svs 0 o W).regs k =
      if k = Blk.base .svs 0 + 0x2C then some (BitVec.ofNat 32 (ownerWord q))
      else if k = regKey s .svs 0 o then some (BitVec.ofNat 32 W) else findK s.regs k := by
  have hk (x : State) : regKey x .svs 0 0x2C = Blk.base .svs 0 + 0x2C := rfl
  unfold wordPut
  rw [setReg_regs, setReg_regs, hk]
  split
  · next h => rw [h, findK_putK_same]
  · next h =>
    rw [findK_putK_ne _ _ h]
    split
    · next h => rw [h, findK_putK_same]
    · next h => rw [findK_putK_ne _ _ h]

theorem ringRow {s : State} {q : Requester} {i : Nat} (g : Bool) (hi : i < 64) (h : accessible s q .svs 0 0x100 = true) :
    ∃ r, pageSet (pageWrite s q .svs 0 0x100 0x3F i) q .svs 0 (if g then 0x11C else 0x10C) 1 =
        ringEnable { s with regs := r } g i ∧
      fld { s with regs := r } .svs 0x100 0 6 = i ∧ flag { s with regs := r } .svs (if g then 0x11C else 0x10C) 0 = true ∧
      ∀ k, k ≠ Blk.base .svs 0 + 0x100 → k ≠ Blk.base .svs 0 + 0x2C →
        (∀ j, k ≠ bankKey .svs 0 (if g then 0x11C else 0x10C) j) → findK r k = findK s.regs k := by
  obtain ⟨W, e1, hW⟩ := ringSelect (q := q) hi h
  obtain ⟨V, e2, hV⟩ := ringEn g (accessible_ring g W h)
  have ho : (if g then 0x11C else 0x10C) = 0x10C ∨ (if g then 0x11C else 0x10C) = 0x11C := by cases g <;> simp
  generalize (if g then 0x11C else 0x10C) = o at *
  set t := wordPut s q .svs 0 0x100 W with ht
  set u := wordPut t q .svs 0 o V with hu
  have key (x : State) : regKey x .svs 0 0x100 = Blk.base .svs 0 + 0x100 := rfl
  have bank (j : Nat) : bankKey .svs 0 o j = Blk.base .svs 0 + o + j * 2 ^ 40 := rfl
  have sel : findK u.regs (Blk.base .svs 0 + 0x100) = some (BitVec.ofNat 32 W) := by
    rw [hu, findK_wordPut, if_neg (by omega), if_neg, ht, findK_wordPut, if_neg (by omega), key, if_pos rfl]
    rw [regKey_ring t ho, bank]
    omega
  have selT : findK t.regs (Blk.base .svs 0 + 0x100) = some (BitVec.ofNat 32 W) := by
    rw [ht, findK_wordPut, if_neg (by omega), key, if_pos rfl]
  have hfld : fld u .svs 0x100 0 6 = i := by
    rw [fld, reg, key, sel]
    exact (congrArg (getBits · 0 6) (BitVec.toNat_ofNat W 32)).trans ((getBits_mod W (by decide)).trans hW)
  refine ⟨u.regs, ?_, hfld, ?_, fun k h1 h2 h3 => ?_⟩
  · rw [e1, e2, hfld]
    rfl
  · have hreg : reg u .svs 0 o = V % 2 ^ 32 := by
      have hk : regKey u .svs 0 o = regKey t .svs 0 o := by rw [regKey_ring u ho, regKey_ring t ho, sel, selT]
      rw [reg, hk, hu, findK_wordPut, if_neg, if_pos rfl]
      · exact BitVec.toNat_ofNat V 32
      · rw [regKey_ring t ho, bank]
        omega
    show bit (reg u .svs 0 o) 0 = true
    rw [hreg, ← hV]
    simp [bit]
  · rw [hu, findK_wordPut, if_neg h2, if_neg (by rw [regKey_ring t ho]; exact h3 _), ht, findK_wordPut, if_neg h2,
      if_neg (by rw [key]; exact h1)]

/-! ### The commands -/

/-- Settles O26: a row writes its word and what the write sets off is the operation; a command is the operation under its checks. -/
theorem sliceRowsAndCommands : Obligations.SliceRowsAndCommands := by
  unfold Obligations.SliceRowsAndCommands
  refine ⟨fun s q i => ⟨fun h => ?ops, fun g h => ?ring⟩, fun s c i => ⟨fun mode tmo => ?part, ?freeze, ?resume, fun op => ?log,
    ?receive, fun d flags list count hp => ?send, fun addr n => ⟨?save, ?restore⟩⟩⟩
  case ops =>
    have row {k : Instr} (op : Nat) (ho : 1 ≤ op ∧ op ≤ 8) (hk : exec k s = topRun (fun s => slcGo s q i.val op) s) :=
      row_runs (op := fun t => (sliceOp t i.val op (restoring s i.val)).getD t) hk (slcGo_eq op i.isLt ho h)
    exact ⟨row 1 (by decide) rfl, row 2 (by decide) rfl, row 3 (by decide) rfl, row 4 (by decide) rfl, row 5 (by decide) rfl,
      row 6 (by decide) rfl, row 7 (by decide) rfl, row 8 (by decide) rfl⟩
  case ring =>
    obtain ⟨r, hrow, hrest⟩ := ringRow g i.isLt h
    refine ⟨r, ?_, hrest⟩
    rw [← hrow]
    exact topRun_after _ _
  case part =>
    have h0 : numAt (le 1 i.toNat ++ le 1 mode.toNat ++ le 2 tmo.toNat) 0 1 = i.toNat := by simp
    have h1 : numAt (le 1 i.toNat ++ le 1 mode.toNat ++ le 2 tmo.toNat) 1 1 = mode.toNat := by simp
    have h2 : numAt (le 1 i.toNat ++ le 1 mode.toNat ++ le 2 tmo.toNat) 2 2 = tmo.toNat := by simp
    refine answers_of rfl (by decide) fun hu => (execute_4001 hu).trans ?_
    rw [h0, h1, h2]
    rfl
  case freeze =>
    have h0 : numAt (le 1 i.toNat) 0 1 = i.toNat := by simp
    refine answers_of rfl (by decide) fun hu => (execute_4002 hu).trans ?_
    rw [h0]
    rfl
  case resume =>
    have h0 : numAt (le 1 i.toNat) 0 1 = i.toNat := by simp
    refine answers_of rfl (by decide) fun hu => (execute_4003 hu).trans ?_
    rw [h0]
    unfold sliceCmd
    cases (if 64 ≤ i.toNat || bgBusy (opened s c 0x4003 (le 1 i.toNat)) i.toNat then none
      else sliceOp (opened s c 0x4003 (le 1 i.toNat)) i.toNat 4 false) <;> rfl
  case log =>
    have h0 : numAt (le 1 i.toNat ++ le 1 op.toNat) 0 1 = i.toNat := by simp
    have h1 : numAt (le 1 i.toNat ++ le 1 op.toNat) 1 1 = op.toNat := by simp
    have ho : op.toNat = 1 ↔ op = 1 := ⟨fun h => BitVec.eq_of_toNat_eq h, fun h => by rw [h]; rfl⟩
    refine answers_of rfl (by decide) fun hu => (execute_4004 hu).trans ?_
    rw [h0, h1]
    generalize opened s c 0x4004 (le 1 i.toNat ++ le 1 op.toNat) = x
    have hcmd : (if 2 < op.toNat then none else sliceCmd x i.toNat (5 + op.toNat)) =
        if 2 < op.toNat || 64 ≤ i.toNat || bgBusy x i.toNat then none else sliceOp x i.toNat (5 + op.toNat) false := by
      by_cases h : 2 < op.toNat <;> simp [h, sliceCmd]
    rw [hcmd]
    cases (if 2 < op.toNat || 64 ≤ i.toNat || bgBusy x i.toNat then none else sliceOp x i.toNat (5 + op.toNat) false) with
    | none => rfl
    | some t => exact if_congr ho rfl rfl
  case receive =>
    have h0 : numAt (le 1 i.toNat) 0 1 = i.toNat := by simp
    refine answers_of rfl (by decide) fun hu => (execute_4005 hu).trans ?_
    rw [h0]
    unfold sliceCmd
    cases (if 64 ≤ i.toNat || bgBusy (opened s c 0x4005 (le 1 i.toNat)) i.toNat then none
      else sliceOp (opened s c 0x4005 (le 1 i.toNat)) i.toNat 8 false) <;> rfl
  case send =>
    have h0 : numAt (le 1 i.toNat ++ le 1 d.toNat ++ le 2 flags.toNat ++ le 8 list.toNat ++ le 4 count.toNat) 0 1 = i.toNat := by simp
    have h1 : numAt (le 1 i.toNat ++ le 1 d.toNat ++ le 2 flags.toNat ++ le 8 list.toNat ++ le 4 count.toNat) 1 1 = d.toNat := by simp
    have h2 : numAt (le 1 i.toNat ++ le 1 d.toNat ++ le 2 flags.toNat ++ le 8 list.toNat ++ le 4 count.toNat) 2 2 = flags.toNat := by
      simp
    have h3 : numAt (le 1 i.toNat ++ le 1 d.toNat ++ le 2 flags.toNat ++ le 8 list.toNat ++ le 4 count.toNat) 4 8 = list.toNat := by
      simp
    have h4 : numAt (le 1 i.toNat ++ le 1 d.toNat ++ le 2 flags.toNat ++ le 8 list.toNat ++ le 4 count.toNat) 12 4 = count.toNat := by
      simp
    refine answers_of rfl (by decide) fun hu => (execute_4006 hu hp).trans ?_
    rw [h0, h1, h2, h3, h4]
    rfl
  case save =>
    have h0 : numAt (le 1 i.toNat ++ le 8 addr.toNat ++ le 4 n.toNat) 0 1 = i.toNat := by simp
    have h1 : numAt (le 1 i.toNat ++ le 8 addr.toNat ++ le 4 n.toNat) 1 8 = addr.toNat := by simp
    have h2 : numAt (le 1 i.toNat ++ le 8 addr.toNat ++ le 4 n.toNat) 9 4 = n.toNat := by simp
    refine answers_of rfl (by decide) fun hu => (execute_4007 hu).trans ?_
    rw [h0, h1, h2]
    simp [or_assoc]
  case restore =>
    have h0 : numAt (le 1 i.toNat ++ le 8 addr.toNat ++ le 4 n.toNat) 0 1 = i.toNat := by simp
    have h1 : numAt (le 1 i.toNat ++ le 8 addr.toNat ++ le 4 n.toNat) 1 8 = addr.toNat := by simp
    have h2 : numAt (le 1 i.toNat ++ le 8 addr.toNat ++ le 4 n.toNat) 9 4 = n.toNat := by simp
    refine answers_of rfl (by decide) fun hu => (execute_4008 hu).trans ?_
    rw [h0, h1, h2]
    simp [or_assoc]

end Sys2Proof.Machine

/-!
What slices do of themselves: doorbells, completions, partings, freezing, background operations (R264 to R283). The obligation O27.
-/

namespace Sys2Proof.Machine

theorem slOf_congr {s t : State} (h : t.slc = s.slc) (i : Nat) : slOf t i = slOf s i := by
  unfold slOf
  rw [h]

theorem putK_putK {α : Type} (m : List (Nat × α)) (k : Nat) (x y : α) : putK (putK m k x) k y = putK m k y := by
  induction m with
  | nil => simp [putK]
  | cons e m ih =>
    obtain ⟨a, b⟩ := e
    by_cases h : a = k
    · simp [putK, h]
    · by_cases h' : k < a <;> simp [putK, h, h', ih]

/-- Of two values put under one key the later one stands. -/
theorem setSl_setSl (s : State) (i : Nat) (x y : Slice) : setSl (setSl s i x) i y = setSl s i y := by
  unfold setSl
  simp only [putK_putK]

theorem eq_fst {α β : Type} {p : α × β} {x : α} {y : β} (e : p = (x, y)) : x = p.1 := by rw [e]

/-! ### What the accesses of a slice leave -/

/-- Parts of the state that a slice's accesses leave alone. -/
def beside (s : State) : List Host.Cell × Cmd × Dec × Tim × Clk := (s.mem, s.cmd, s.dec, s.tim, s.clk)

/-- What accesses and interrupts of slice `i` leave of the state: memory, commands, decision words, time and clocks, the other slices,
EN of the slice, and its record but for the count of transactions. -/
def accessOnly (i : Nat) (s t : State) : Prop :=
  beside t = beside s ∧ (∃ n, slOf t i = { slOf s i with outst := n }) ∧ (∀ j, j ≠ i → slOf t j = slOf s j) ∧
    slReg t i 0 = slReg s i 0

theorem accessOnly.refl (i : Nat) (s : State) : accessOnly i s s := ⟨rfl, ⟨_, rfl⟩, fun _ _ => rfl, rfl⟩

theorem accessOnly.trans {i : Nat} {s t u : State} (h : accessOnly i s t) (g : accessOnly i t u) : accessOnly i s u := by
  obtain ⟨hb, ⟨n, hn⟩, ho, hr⟩ := h
  obtain ⟨gb, ⟨k, hk⟩, go, gr⟩ := g
  exact ⟨gb.trans hb, ⟨k, by rw [hk, hn]⟩, fun j hj => (go j hj).trans (ho j hj), gr.trans hr⟩

/-- A change that leaves these parts, every slice's record and EN. -/
theorem accessOnly_of {i : Nat} {s t : State} (hb : beside t = beside s) (hs : t.slc.s = s.slc.s)
    (hr : slReg t i 0 = slReg s i 0) : accessOnly i s t := by
  have ho (j : Nat) : slOf t j = slOf s j := by unfold slOf; rw [hs]
  exact ⟨hb, ⟨(slOf s i).outst, ho i⟩, fun j _ => ho j, hr⟩

/-- A register that is not EN of the slice. -/
theorem accessOnly_setReg (i : Nat) (s : State) {b : Blk} {j o : Nat} (v : Nat) (hb : bankSel b o = none)
    (h : b.base j + o ≠ Blk.base .slc 0 + slOff i 0) : accessOnly i s (setReg s b j o v) := by
  refine accessOnly_of rfl rfl (reg_setReg_ne s b .slc j 0 o (slOff i 0) v ?_ ?_)
  · rw [regKey_plain s j hb, regKey_plain s 0 rfl]
    exact h
  · rw [regKey_plain _ 0 rfl, regKey_plain s 0 rfl]

theorem accessOnly_setSl (i : Nat) (s : State) (n : Nat) : accessOnly i s (setSl s i { slOf s i with outst := n }) :=
  ⟨rfl, ⟨n, slOf_setSl _ _ _⟩, fun _ hj => slOf_setSl_ne _ _ _ hj, rfl⟩

theorem accessOnly_issued (i : Nat) (s : State) (k : Nat) : accessOnly i s (issued s i k) := accessOnly_setSl ..

theorem accessOnly_wrBytes (i : Nat) (s : State) (a : Nat) (bs : List Byte) : accessOnly i s (wrBytes s a bs) :=
  accessOnly_of rfl rfl rfl

theorem accessOnly_emit (i : Nat) (s : State) (o : Out) : accessOnly i s (emit s o) := accessOnly_of rfl rfl rfl

/-- A word of the IOMMU. -/
theorem accessOnly_ioReg (i : Nat) (s : State) {o : Nat} (v : Nat) (h : o < 0x1000) : accessOnly i s (setReg s .apc 0 (ioOff o) v) := by
  have hbase : Blk.base .slc 0 = Blk.base .apc 0 + 0x100000 := by decide
  refine accessOnly_setReg i s v rfl ?_
  rw [hbase]
  unfold ioOff slOff
  omega

theorem accessOnly_ioSet (i : Nat) (s : State) {o : Nat} (bits : Nat) (h : o < 0x1000) : accessOnly i s (ioSet s o bits) :=
  accessOnly_ioReg i s _ h

theorem accessOnly_faultQ {i : Nat} {s t : State} (q : List (Nat × Nat)) (h : accessOnly i s t) :
    accessOnly i s { t with slc := { t.slc with faultQ := q } } := h.trans (accessOnly_of rfl rfl rfl)

theorem accessOnly_ioPush (i : Nat) (s : State) (dev rec0 iova v : Nat) : accessOnly i s (ioPush s dev rec0 iova v).1 := by
  unfold ioPush
  dsimp only
  split
  · exact .refl i s
  · split
    · exact accessOnly_ioSet i s _ (by decide)
    · split
      · exact accessOnly_ioSet i s _ (by decide)
      · exact accessOnly_faultQ _ ((accessOnly_wrBytes i s _ _).trans (accessOnly_ioReg i _ (o := 0x34) _ (by decide)))

theorem accessOnly_ioMsi (i : Nat) (s : State) (n : Nat) : accessOnly i s (ioMsi s n).1 := by
  unfold ioMsi
  dsimp only
  split
  · exact accessOnly_of rfl rfl rfl
  · split
    · exact (accessOnly_wrBytes i s _ _).trans (accessOnly_emit i _ _)
    · exact accessOnly_ioPush ..

theorem accessOnly_ioFaultIrq (i : Nat) (s : State) : accessOnly i s (ioFaultIrq s) := by
  unfold ioFaultIrq
  split
  · exact (accessOnly_ioSet i s _ (by decide)).trans (accessOnly_ioMsi ..)
  · exact .refl i s

theorem accessOnly_iommuFault (i : Nat) (s : State) (dev : Nat) (pid : Option Nat) (iova : Nat) (w : Bool) (c v : Nat) :
    accessOnly i s (iommuFault s dev pid iova w c v) := by
  unfold iommuFault
  have h (rec0 : Nat) := accessOnly_ioPush i s dev rec0 iova v
  dsimp only
  split
  next t e => exact .trans (by rw [eq_fst e]; exact h _) (accessOnly_ioFaultIrq i t)
  next t e => rw [eq_fst e]; exact h _

theorem accessOnly_slFault (i : Nat) (s : State) (addr : Nat) (w : Bool) (x : Trans) : accessOnly i s (slFault s i addr w x) := by
  match x with
  | .fault c v => exact accessOnly_iommuFault ..
  | .at p g => exact .refl i s
  | .ended => exact .refl i s

theorem accessOnly_logDirty (i : Nat) (s : State) (addr : Nat) : accessOnly i s (logDirty s i addr) := by
  unfold logDirty
  dsimp only
  generalize (if (slOf s i).act then slReg2 s i 0x58 else slReg2 s i 0x50) = base
  split
  · exact .refl i s
  · split
    · split
      · exact (accessOnly_wrBytes i s _ _).trans (accessOnly_issued i _ 1)
      · exact .refl i s
    · exact accessOnly_setReg i s _ rfl (by unfold slOff; omega)

theorem accessOnly_dmaWrite (i : Nat) (s : State) (addr : Nat) (bs : List Byte) : accessOnly i s (dmaWrite s i addr bs).1 := by
  unfold dmaWrite
  generalize chunksOf addr bs.length = l
  suffices h : ∀ r : State × Bool, accessOnly i s r.1 → accessOnly i s (l.foldl (fun (r : State × Bool) c =>
      if !r.2 then r
      else match slTranslate r.1 i c.1 true with
        | .at p g => (logDirty (issued (wrBytes r.1 p (slice bs (c.1 - addr) c.2)) i 1) i g, true)
        | x => (slFault r.1 i c.1 true x, false)) r).1 from h (s, true) (.refl i s)
  induction l with
  | nil => exact fun r h => h
  | cons c l ih =>
    intro r h
    refine ih _ ?_
    dsimp only
    split
    · exact h
    · split
      · exact h.trans (((accessOnly_wrBytes i _ _ _).trans (accessOnly_issued i _ 1)).trans (accessOnly_logDirty i _ _))
      · exact h.trans (accessOnly_slFault i _ _ _ _)

theorem accessOnly_dmaRead (i : Nat) (s : State) (addr n : Nat) : accessOnly i s (dmaRead s i addr n).1 := by
  unfold dmaRead
  generalize chunksOf addr n = l
  suffices h : ∀ r : State × Option (List Byte), accessOnly i s r.1 →
      accessOnly i s (l.foldl (fun (r : State × Option (List Byte)) c =>
        match r.2 with
        | none => r
        | some bs =>
          match slTranslate r.1 i c.1 false with
          | .at p _ => (issued r.1 i 1, some (bs ++ rdBytes r.1 p c.2))
          | x => (slFault r.1 i c.1 false x, none)) r).1 from h (s, some []) (.refl i s)
  induction l with
  | nil => exact fun r h => h
  | cons c l ih =>
    intro r h
    refine ih _ ?_
    dsimp only
    split
    · exact h
    · split
      · exact h.trans (accessOnly_issued i _ 1)
      · exact h.trans (accessOnly_slFault i _ _ _ _)

theorem accessOnly_swIrq {i : Nat} (hi : i < 64) (s : State) (n : Nat) : accessOnly i s (swIrq s i n) := by
  have hirq : accessOnly i s (irqI s .sw i n) := by
    unfold irqI
    split
    · have hbase : Blk.base .slc 0 < 0x44000000 ∧ Blk.base .sw i = 0x48000000 + i * 0x10000 := ⟨by decide, rfl⟩
      exact accessOnly_setReg i s _ rfl (by unfold slOff; omega)
    · exact .refl i s
  unfold swIrq
  dsimp only
  split
  · exact hirq
  · have h (a : Nat) (bs : List Byte) := accessOnly_dmaWrite i (irqI s .sw i n) a bs
    split
    next t e => exact (hirq.trans (by rw [eq_fst e]; exact h _ _)).trans (accessOnly_emit i t _)
    next t e => exact hirq.trans (by rw [eq_fst e]; exact h _ _)

/-- A slice restored or received stands FROZEN. -/
theorem slFrozen_stands (s : State) {i : Nat} (hi : i < 64) :
    (slOf (slFrozen s i) i).state = .frozen ∧ (slOf (slFrozen s i) i).busy = false ∧ (slOf (slFrozen s i) i).blocked = false ∧
      bit (slReg (slFrozen s i) i 0) 0 = true ∧ (∀ j, j ≠ i → slOf (slFrozen s i) j = slOf s j) ∧ (slFrozen s i).mem = s.mem ∧
      (slFrozen s i).cmd = s.cmd ∧ (slFrozen s i).dec = s.dec := by
  let u := setSl s i { slOf s i with blocked := false, busy := false }
  let t := setReg u .slc 0 (slOff i 0) (setBits (slReg u i 0) 0 1 1)
  have hen : bit (slReg t i 0) 0 = true := by
    have h : slReg t i 0 = setBits (slReg u i 0) 0 1 1 % 2 ^ 32 := reg_setReg_same u .slc 0 (slOff i 0) _ rfl
    rw [h]
    simp only [bit, Nat.testBit_mod_two_pow, testBit_setBits]
    simp
  have hu : slOf t i = { slOf s i with blocked := false, busy := false } := slOf_setSl _ _ _
  have hv : slOf (setSl t i { slOf t i with state := .frozen }) i = { slOf s i with blocked := false, busy := false, state := .frozen } := by
    rw [slOf_setSl, hu]
  obtain ⟨hb, ⟨n, hn⟩, ho, hr⟩ := accessOnly_swIrq hi (setSl t i { slOf t i with state := .frozen }) 5
  have same : slFrozen s i = swIrq (setSl t i { slOf t i with state := .frozen }) i 5 := rfl
  rw [same, hn, hv]
  simp only [beside, Prod.mk.injEq] at hb
  obtain ⟨hm, hc, hd, -, -⟩ := hb
  refine ⟨rfl, rfl, rfl, ?_, fun j hj => ?_, hm, hc, hd⟩
  · rw [hr]
    exact hen
  · rw [ho j hj, slOf_setSl_ne _ _ _ hj]
    exact slOf_setSl_ne _ _ _ hj

/-! ### Frames -/

theorem beside_cnt (s : State) (b : Blk) (i o : Nat) : beside (cnt s b i o) = beside s := rfl

theorem beside_setSl (s : State) (i : Nat) (x : Slice) : beside (setSl s i x) = beside s := rfl

theorem beside_swIrq (s : State) (i n : Nat) : beside (swIrq s i n) = beside s := by
  have hirq : beside (irqI s .sw i n) = beside s := by
    unfold irqI
    split <;> rfl
  unfold swIrq
  dsimp only
  split
  · exact hirq
  · have h (a : Nat) (bs : List Byte) := (accessOnly_dmaWrite i (irqI s .sw i n) a bs).1.trans hirq
    split
    next t e => exact Eq.trans (b := beside t) rfl (by rw [eq_fst e]; exact h _ _)
    next t e => rw [eq_fst e]; exact h _ _

/-- A frame delivered to a slice leaves the timebase. -/
theorem beside_rqDeliver (s : State) (i : Nat) (f : Frame) (stamp : Stamp) : beside (rqDeliver s i f stamp) = beside s := by
  have hr (s : State) (a n : Nat) := (accessOnly_dmaRead i s a n).1
  have hw (s : State) (a : Nat) (bs : List Byte) := (accessOnly_dmaWrite i s a bs).1
  have hdrop (t : State) : beside (cnt t .sw i 0x64) = beside t := beside_cnt ..
  fun_cases rqDeliver s i f stamp
  case case1 => exact hdrop s
  case case2 t e =>
    rw [eq_fst e]
    exact (hdrop _).trans (hr _ _ _)
  case case3 t b e u e' =>
    rw [eq_fst e', eq_fst e]
    exact (hdrop _).trans ((hw _ _ _).trans (hr _ _ _))
  case case4 t b e u e' v e'' =>
    rw [eq_fst e'', eq_fst e', eq_fst e]
    exact (hdrop _).trans ((hw _ _ _).trans ((hw _ _ _).trans (hr _ _ _)))
  case case5 t b e u e' v e'' x =>
    refine (beside_swIrq ..).trans ((beside_setSl ..).trans ?_)
    rw [eq_fst e'', eq_fst e', eq_fst e]
    exact (hw _ _ _).trans ((hw _ _ _).trans (hr _ _ _))

theorem stampBefore_congr {s t : State} (h : beside t = beside s) (dt : Nat) : stampBefore t dt = stampBefore s dt := by
  simp only [beside, Prod.mk.injEq] at h
  obtain ⟨-, -, -, ht, hk⟩ := h
  unfold stampBefore stampAt cycleU
  rw [ht, hk]

/-! ### The obligation -/

theorem sliceRegsFree_slc (s : State) (i : Nat) : (sliceRegsFree s i).slc = s.slc := rfl

/-- A parting that has ended leaves the slice FREE. -/
theorem partComplete_eq {s : State} {i : Nat} (hu : isUp s .app = true) (h : partEnded (slOf s i) = true) :
    partComplete s i = evt (irq (sliceRegsFree (setSl (partWords s i) i { Slice.free with blocked := (slOf s i).blocked }) i) .slc 1)
        0x0F10 0 i (ofBit (slOf s i).escalated 0) 0 ∧ (slOf (partComplete s i) i).state = .free := by
  have heq : partComplete s i = evt (irq (sliceRegsFree (setSl (partWords s i) i
      { Slice.free with blocked := (slOf s i).blocked }) i) .slc 1) 0x0F10 0 i (ofBit (slOf s i).escalated 0) 0 := by
    simp only [partComplete, isDown_of_up hu, h, Bool.not_true, Bool.or_self, Bool.false_eq_true, if_false]
  refine ⟨heq, ?_⟩
  rw [heq, slOf_congr (evt_slc ..), slOf_congr (irq_slc ..), slOf_congr (sliceRegsFree_slc _ _), slOf_setSl]
  rfl

theorem descComplete_none {s : State} {i : Nat} (h : (slOf s i).desc = none) : descComplete s i = answered s i := by
  have hx : (slOf (answered s i) i).desc = none := by rw [answered, slOf_setSl]; exact h
  simp only [descComplete, hx]

/-- A descriptor that has ended, its transactions answered (R269). -/
theorem descComplete_some {s : State} {i : Nat} {d : Desc} (hu : isUp s .app = true) (hd : (slOf s i).desc = some d)
    (he : descEnded d = true) (hst : runsUnits (slOf s i) = true ∨ (slOf s i).state = .freezing) :
    descComplete s i =
      (let y := answered s i
       let x := slOf y i
       let depth := 2 ^ sqLog2 y i
       let e := le 8 d.tag.toNat ++ le 2 x.sqHead.toNat ++ le 1 d.status ++ le 1 ((x.sqHead.toNat / depth + 1) % 2) ++ le 4 d.done
       let z := (dmaWrite y i (slReg2 y i 0x18 + x.cqTail.toNat % depth * 16) e).1
       swIrq (cnt (setSl z i { slOf z i with
         desc := none, cqTail := (slOf z i).cqTail + 1, sqHead := (slOf z i).sqHead + 1 }) .slc 0 (slOff i 0x74)) i 1) := by
  have hx : slOf (answered s i) i = { slOf s i with outst := 0 } := slOf_setSl _ _ _
  have hdown : isDown (answered s i) .app = false := isDown_of_up hu
  have hdx : (slOf (answered s i) i).desc = some d := by rw [hx]; exact hd
  have hr : (runsUnits (slOf (answered s i) i) || (slOf (answered s i) i).state == .freezing) = true := by
    rw [hx, Bool.or_eq_true, beq_iff_eq]
    exact hst
  simp only [descComplete, hdx]
  rw [if_neg (by rw [hdown, he, hr]; decide)]

/-- A frame goes to the slices in ACTIVE that take it; the deliveries do not move its stamp. -/
theorem sliceFrame_eq {s : State} (f : Frame) (dt : Nat) (hu : isUp s .app = true) :
    sliceFrame s f (stampBefore s dt) =
      ((List.range 64).filter fun i => (slOf s i).state == .active &&
        (if isMulticast f.dst then bit (slReg s i 0) 5 else slMac s i == f.dst)).foldl
          (fun s i => rqDeliver s i f (stampBefore s dt)) s := by
  unfold sliceFrame
  rw [if_neg (by simp [isDown_of_up hu])]
  exact foldl_congr_of_keeps (P := fun t => beside t = beside s) (fun t i h => by rw [stampBefore_congr h])
    (fun t i h => (beside_rqDeliver ..).trans h) _ rfl

/-- Settles O27: each row is its operation on the branch that its premises take. -/
theorem sliceEvents : Obligations.SliceEvents := by
  unfold Obligations.SliceEvents
  refine ⟨fun s i hu => ⟨fun t => ?doorbell, fun h => ?cqHead, ?timeout, fun hst hd => ?freeze, fun hs => ?swap, fun he => ?parting⟩,
    fun s hu => ⟨fun hm => ?round, fun f dt => ?frame, fun i d hd he hst => ?desc⟩,
    fun s i b hb => ⟨fun addr n hk => ?save, fun addr n hk t r hr => ?restore, fun d flags list count sent errs hk ht h1 h2 => ?sent⟩,
    fun s i hi => slFrozen_stands s hi⟩
  case doorbell =>
    have hd := isDown_of_up hu
    show runOn (fun s => doorbell s i.val t) s = _
    rw [runOn_eq, doorbell, if_neg (by simp [hd])]
  case cqHead =>
    have hd := isDown_of_up hu
    show runOn (fun s => cqHeadWrite s i.val h) s = _
    rw [runOn_eq, cqHeadWrite]
    simp only [hd, Bool.false_eq_true, if_false, ← not_le, ite_not]
  case timeout =>
    show runOn (fun s => partTimeout s i.val) s = _
    simp only [runOn_eq, partTimeout, Bool.not_eq_true']
  case freeze =>
    have hd' := isDown_of_up hu
    refine (topRun_after (fun s => freezeDone s i.val) s).trans ?_
    simp only [freezeDone, hd', hst, descComplete_none hd, answered, slOf_setSl, setSl_setSl, bne_self_eq_false, Bool.or_self,
      Bool.false_eq_true, if_false]
  case swap =>
    refine (topRun_after (fun s => logSwapEnd s i.val) s).trans ?_
    simp only [logSwapEnd, isDown_of_up hu, hs, Bool.not_true, Bool.or_self, Bool.false_eq_true, if_false]
  case parting =>
    obtain ⟨heq, hfree⟩ := partComplete_eq hu he
    have hst : (slOf s i.val).state = .parting := by
      simp only [partEnded, Bool.and_eq_true, beq_iff_eq] at he
      exact he.1
    refine (topRun_after (fun s => partingComplete s i.val) s).trans ?_
    dsimp only [partingComplete]
    rw [if_pos ⟨hst, hfree⟩, heq]
  case round =>
    show runOn (fun s => schedulerRound s) s = _
    simp only [runOn_eq, schedulerRound, isDown_of_up hu, isDown_of_up hm, Bool.or_self, Bool.false_eq_true, if_false, forEach]
  case frame =>
    show runOn (fun s => sliceFrame s f (stampBefore s dt)) s = _
    rw [runOn_eq, sliceFrame_eq f dt hu]
  case desc =>
    show runOn (fun s => descComplete s i.val) s = _
    rw [runOn_eq, descComplete_some hu hd he hst]
    dsimp only
    rw [show slOf (answered s i.val) i.val = { slOf s i.val with outst := 0 } from slOf_setSl _ _ _]
    rfl
  case save =>
    refine (topRun_after (fun s => bgComplete s i.val) s).trans ?_
    simp only [bgComplete, hb, hk, saveEnd]
    split <;> rfl
  case restore =>
    refine (topRun_after (fun s => bgComplete s i.val) s).trans ?_
    simp only [bgComplete, hb, hk, hr]
  case sent =>
    refine (topRun_after (fun s => bgComplete s i.val) s).trans ?_
    simp only [bgComplete, hb, hk, ht, h1, h2, and_self, if_true]

end Sys2Proof.Machine

/-!
The commands of Spindle (R286, R289, R295, R300 to R302). The obligation O28.
-/

namespace Sys2Proof.Machine

/-- Of a mask merged with an older one the bits of the new one all stand. -/
theorem merge_mask (a m : BitVec 64) : (a ||| m) &&& m = m := by
  ext i hi
  simp only [BitVec.getElem_and, BitVec.getElem_or]
  cases a[i] <;> cases m[i] <;> rfl

/-- A value merged under a mask agrees with the new one there. -/
theorem merge_value (a v m : BitVec 64) : ((a &&& ~~~m) ||| (v &&& m)) &&& m = v &&& m := by
  ext i hi
  simp only [BitVec.getElem_and, BitVec.getElem_or, BitVec.getElem_not]
  cases a[i] <;> cases v[i] <;> cases m[i] <;> rfl

/-- A force added or merged: the entry that carries it, and the interrupt. -/
theorem forceSet_some {s t : State} {id : Word} {mask value : BitVec 64} (h : forceSet s id.toNat mask.toNat value.toNat = some t) :
    ∃ k f, t = irq { s with spn := { s.spn with force := putK s.spn.force k f } } .spn 4 ∧ f.id = id ∧ f.mask &&& mask = mask ∧
      f.value &&& mask = value &&& mask := by
  unfold forceSet at h
  dsimp only at h
  simp only [BitVec.ofNat_toNat, BitVec.setWidth_eq] at h
  split at h
  · cases h
  split at h
  next k f hf =>
    have hid : f.id = id := by
      have := List.find?_some hf
      exact BitVec.eq_of_toNat_eq (by simpa using this)
    exact ⟨k, _, (Option.some.inj h).symm, hid, merge_mask _ _, merge_value _ _ _⟩
  next =>
    split at h
    next k _ => exact ⟨k, _, (Option.some.inj h).symm, rfl, by simp, rfl⟩
    next => cases h

/-- Settles O28: a command is its operation, and a force that is taken stands in the table. -/
theorem spindleCommandsRun : Obligations.SpindleCommandsRun := by
  unfold Obligations.SpindleCommandsRun
  refine ⟨fun s c => ⟨fun id => ?read, ?switch, fun mode => ?run, ?stop, fun id mask value => ?force, fun id => ?unforce, ?clear,
    ?discard⟩, fun s c addr len => ?load, fun s t id mask value h => ?holds⟩
  case read =>
    have hid : numAt (le 4 id.toNat) 0 4 = id.toNat := by simp
    refine answers_of rfl (by decide) fun hu => (execute_1030 hu).trans ?_
    rw [hid]
    generalize opened s c 0x1030 (le 4 id.toNat) = x
    rw [readVar, ofRes_ite]
    refine if_congr Iff.rfl rfl ?_
    cases findVar (spnImg x) id.toNat with
    | some v => rfl
    | none => cases forceVar (spnImg x) id.toNat <;> rfl
  case switch =>
    refine answers_of rfl (by decide) fun hu => (execute_2050 hu).trans ?_
    simp only [Bool.not_eq_true']
  case run =>
    have hm : numAt (le 1 mode.toNat) 0 1 = mode.toNat := by simp
    have h1 : (mode.toNat == 1) = decide (mode = 1) := by
      rw [Bool.eq_iff_iff]
      simpa using ⟨fun h => BitVec.eq_of_toNat_eq h, fun h => by rw [h]; rfl⟩
    refine answers_of rfl (by decide) fun hu => (execute_2051 hu).trans ?_
    rw [hm, h1]
    generalize opened s c 0x2051 (le 1 mode.toNat) = x
    by_cases hmode : 1 < mode.toNat
    · simp [hmode]
    · rw [if_neg hmode]
      unfold spnRun
      cases hx : x.spn.state <;> simp [hmode]
  case stop =>
    refine answers_of rfl (by decide) fun hu => (execute_2052 hu).trans ?_
    unfold spnStop
    split
    · rfl
    · split <;> rfl
  case force =>
    have h0 : numAt (le 4 id.toNat ++ le 8 mask.toNat ++ le 8 value.toNat) 0 4 = id.toNat := by simp
    have h1 : numAt (le 4 id.toNat ++ le 8 mask.toNat ++ le 8 value.toNat) 4 8 = mask.toNat := by simp
    have h2 : numAt (le 4 id.toNat ++ le 8 mask.toNat ++ le 8 value.toNat) 12 8 = value.toNat := by simp
    refine answers_of rfl (by decide) fun hu => (execute_2053 hu).trans ?_
    simp only [h0, h1, h2, spnForce, BitVec.ofNat_toNat, BitVec.setWidth_eq]
    generalize opened s c 0x2053 _ = x
    cases forceSet x id.toNat mask.toNat value.toNat <;> rfl
  case unforce =>
    have hid : numAt (le 4 id.toNat) 0 4 = id.toNat := by simp
    refine answers_of rfl (by decide) fun hu => (execute_2054 hu).trans ?_
    simp only [hid, forceDel, BitVec.ofNat_toNat, BitVec.setWidth_eq]
    generalize opened s c 0x2054 (le 4 id.toNat) = x
    cases forceOf x id.toNat <;> rfl
  case clear =>
    exact answers_of rfl (by decide) fun hu => execute_2055 hu
  case discard =>
    refine answers_of rfl (by decide) fun hu => (execute_5011 hu).trans ?_
    simp only [spnDiscard, ofRes_ite, Bool.or_eq_true, Option.isNone_iff_eq_none, ofRes_mk]
  case load =>
    refine answers_of rfl (by decide) fun hu => (execute_5010 hu).trans ?_
    generalize opened s c 0x5010 (objArgs c addr.toNat len.toNat) = x
    cases objOf x (msgOf s c 0x5010 (objArgs c addr.toNat len.toNat)) with
    | none => rfl
    | some o =>
      obtain ⟨p, n⟩ := o
      simp only [spnLoad, imgW, ofRes_ite, Bool.not_eq_true']
      cases poolPlace (verifyKey x (fld x .chk 0x44 4 2)).1
        [(verifyKey x (fld x .chk 0x44 4 2)).1.nv.cfg, (verifyKey x (fld x .chk 0x44 4 2)).1.nv.spn] n with
      | none => rfl
      | some _ => rfl
  case holds =>
    obtain ⟨k, f, rfl, hid, hmask, hvalue⟩ := forceSet_some h
    refine ⟨⟨k, f, ?_, hid, hmask, hvalue⟩, ?_⟩
    · rw [irq_spn]
      exact findK_putK_same _ _ _
    · simp

end Sys2Proof.Machine

/-!
The commands of the safety island (R308, R309, R314, R317) and of the pair (R339 to R341). The obligation O29.
-/

namespace Sys2Proof.Machine

/-- A flag of one byte as the operations take it. -/
theorem byte_eq_one (v : BitVec 8) : (v.toNat == 1) = (v == 1) := by
  rw [Bool.eq_iff_iff, beq_iff_eq, beq_iff_eq]
  exact ⟨fun h => BitVec.eq_of_toNat_eq h, fun h => by rw [h]; rfl⟩

/-- Settles O29. -/
theorem safetyPairCommands : Obligations.SafetyPairCommands := by
  unfold Obligations.SafetyPairCommands
  refine ⟨fun s c => ⟨fun d dir => ?proof, ?ack, fun d => ?stop⟩, fun s c => ⟨?handover, ?takeback, fun force => ?withdraw, ?restore⟩⟩
  case proof =>
    have h0 : numAt (le 1 d.toNat ++ le 1 dir.toNat) 0 1 = d.toNat := by simp
    have h1 : numAt (le 1 d.toNat ++ le 1 dir.toNat) 1 1 = dir.toNat := by simp
    refine answers_of rfl (by decide) fun hu => (execute_2060 hu).trans ?_
    rw [h0, h1, byte_eq_one]
    generalize opened s c 0x2060 (le 1 d.toNat ++ le 1 dir.toNat) = x
    by_cases hargs : 3 < d.toNat ∨ 1 < dir.toNat
    · rw [if_pos hargs, if_pos (hargs.elim .inl fun h => .inr (.inl h))]
    · by_cases hst : (drOf x d.toNat).state = .proof
      · have hnot : ¬(3 < d.toNat ∨ 1 < dir.toNat ∨ (drOf x d.toNat).state ≠ .proof) := by tauto
        rw [if_neg hargs, if_neg hnot]
        have hp : sfiProof x d.toNat (dir == 1) =
            (sfiRequest x d.toNat (dir == 1) true false, sfiReason x d.toNat (dir == 1) true false == 0) :=
          if_neg (not_not.mpr hst)
        by_cases hr : sfiReason x d.toNat (dir == 1) true false = 0
        · rw [hp, if_pos hr, hr]
          rfl
        · rw [hp, if_neg hr, beq_false_of_ne hr]
      · have hyes : 3 < d.toNat ∨ 1 < dir.toNat ∨ (drOf x d.toNat).state ≠ .proof := by tauto
        rw [if_neg hargs, if_pos hyes]
        simp [sfiProof, hst]
  case ack =>
    refine answers_of rfl (by decide) fun hu => (execute_2061 hu).trans ?_
    generalize opened s c 0x2061 [] = x
    cases hf : faultPresent x <;> cases hst : x.sfi.state <;> simp [sfiAck, hf, hst, Act.ofBool]
    rfl
  case stop =>
    have h0 : numAt (le 1 d.toNat) 0 1 = d.toNat := by simp
    refine answers_of rfl (by decide) fun hu => (execute_2062 hu).trans ?_
    rw [h0]
    simp only [sfiStop, ofBool_ite, ite_or]
    rfl
  case handover => exact answers_of rfl (by decide) fun hu => execute_7001 hu
  case takeback =>
    refine answers_of rfl (by decide) fun hu => (execute_7002 hu).trans ?_
    simp only [takeback, ofOption_ite, Bool.and_eq_true, beq_iff_eq, Bool.not_eq_true', and_assoc]
    rfl
  case withdraw =>
    have h0 : numAt (le 1 force.toNat) 0 1 = force.toNat := by simp
    refine answers_of rfl (by decide) fun hu => (execute_7003 hu).trans ?_
    rw [h0]
    generalize opened s c 0x7003 (le 1 force.toNat) = x
    simp only [rdnWithdraw, ofOption_ite, ofOption_some, ofOption_none, Bool.and_eq_true, beq_iff_eq, toNat_eq_zero_iff,
      handoverLegal, offerToken]
  case restore => exact answers_of rfl (by decide) fun hu => execute_7004 hu

end Sys2Proof.Machine

/-!
The commands of Chuck: attestation and keys (R347, R350, R356, R357, R359), updates (R348, R349), firmware, sealing and debug
(R347, R352, R353, R358). The obligations O30, O32 and O33.
-/

namespace Sys2Proof.Machine

/-! ### Results of a command that may begin a commit -/

theorem ofUpd_ite {c : Prop} [Decidable c] (a b : Res) : Act.ofUpd (if c then a else b) = if c then .ofUpd a else .ofUpd b :=
  apply_ite Act.ofUpd c a b

@[simp] theorem ofUpd_state (s : State) (d : List Byte) : Act.ofUpd (s, rState, d) = .done s rState d := rfl
@[simp] theorem ofUpd_failed (s : State) (d : List Byte) : Act.ofUpd (s, rFailed, d) = .done s rFailed d := rfl
@[simp] theorem ofUpd_policy (s : State) (d : List Byte) : Act.ofUpd (s, rPolicy, d) = .done s rPolicy d := rfl

theorem ofUpd_begun (s : State) (o : Option State) :
    Act.ofUpd (begun s o) = match o with | some t => .waits t .commit | none => .done s rFailed [] := by
  cases o <;> rfl

/-! ### Attestation and keys -/

/-- Settles O30. -/
theorem chuckCommands : Obligations.ChuckCommands := by
  unfold Obligations.ChuckCommands
  refine ⟨fun s c => ⟨fun nonce => ?attest, ?pubkey, fun kind n => ?slotInfo⟩,
    fun s c kind n hd => ⟨fun id usage len value => ?write, ?erase⟩⟩
  case attest =>
    refine answers_of rfl (by decide) fun hu => (execute_1040 hu).trans ?_
    generalize opened s c 0x1040 nonce = x
    simp only [attest, ofRes_ite, ofRes_mk]
    split
    · rfl
    · rcases loadSym x (fld x .chk 0x40 8 6) 5 with ⟨y, _ | k⟩ <;> rfl
  case pubkey => exact answers_of rfl (by decide) fun hu => execute_1041 hu
  case slotInfo =>
    have h0 : numAt (le 1 kind.toNat ++ le 1 n.toNat) 0 1 = kind.toNat := by simp
    have h1 : numAt (le 1 kind.toNat ++ le 1 n.toNat) 1 1 = n.toNat := by simp
    have hk : (kind.toNat == 0) = (kind == 0) := by
      rw [Bool.eq_iff_iff, beq_iff_eq, beq_iff_eq, toNat_eq_zero_iff]
    refine answers_of rfl (by decide) fun hu => (execute_1042 hu).trans ?_
    rw [h0, h1]
    generalize opened s c 0x1042 (le 1 kind.toNat ++ le 1 n.toNat) = x
    simp only [slotInfo, ofRes_ite, Bool.not_eq_true', ofRes_mk, hk]
    split
    · rfl
    cases htest : x.fuse.debug && kind == 0 with
    | true =>
      cases hkey : findK x.chk.test n.toNat <;> simp
      cases (slotOf x kind.toNat n.toNat).inactive <;> rfl
    | false =>
      cases hkey : (slotOf x kind.toNat n.toNat).key <;> simp
      cases (slotOf x kind.toNat n.toNat).inactive <;> rfl
  case write =>
    intro args
    have h0 : numAt args 0 1 = kind.toNat := by simp [args]
    have h1 : numAt args 1 1 = n.toNat := by simp [args]
    have h2 : numAt args 2 4 = id.toNat := by simp [args]
    have h3 : numAt args 6 2 = usage.toNat := by simp [args]
    have h4 : numAt args 8 2 = len.toNat := by simp [args]
    have h5 : args.drop 10 = value := List.drop_left' (by simp)
    refine answers_of rfl (by decide) fun hu => (execute_6001 hu).trans ?_
    have hx : (opened s c 0x6001 args).fuse.debug = false := hd
    rw [h0, h1, h2, h3, h4, h5]
    generalize opened s c 0x6001 args = x at hx
    simp only [keyWrite, hx, Bool.false_eq_true, if_false, ofUpd_ite, ofUpd_policy, ofUpd_failed, Bool.not_eq_true', ofUpd_begun,
      toNat_eq_zero_iff, BitVec.ofNat_toNat, BitVec.setWidth_eq, Bool.or_eq_true, Bool.and_eq_true, decide_eq_true_eq, beq_iff_eq] <;> rfl
  case erase =>
    have h0 : numAt (le 1 kind.toNat ++ le 1 n.toNat) 0 1 = kind.toNat := by simp
    have h1 : numAt (le 1 kind.toNat ++ le 1 n.toNat) 1 1 = n.toNat := by simp
    refine answers_of rfl (by decide) fun hu => (execute_6002 hu).trans ?_
    have hx : (opened s c 0x6002 (le 1 kind.toNat ++ le 1 n.toNat)).fuse.debug = false := hd
    rw [h0, h1]
    generalize opened s c 0x6002 (le 1 kind.toNat ++ le 1 n.toNat) = x at hx
    simp only [keyErase, hx, Bool.false_eq_true, if_false, ofUpd_ite, ofUpd_policy, ofUpd_failed, Bool.not_eq_true', ofUpd_begun,
      toNat_eq_zero_iff] <;> rfl

/-! ### Updates -/

/-- An update, its form checked first. -/
theorem ofUpd_keyUpdate (x : State) (m : List Byte) :
    Act.ofUpd (keyUpdate x m) =
      if updForm m = false then .done (updRefused x) rFailed []
      else if (updApply x m).2.1 = rProgress then .waits (updApply x m).1 .commit
      else .done (updApply x m).1 (updApply x m).2.1 (updApply x m).2.2 := by
  cases h : updForm m <;> simp only [keyUpdate, h, Bool.false_eq_true, if_false, if_true, ofUpd_failed, reduceCtorEq]
  rfl

/-- Settles O32. -/
theorem keyUpdateCommands : Obligations.KeyUpdateCommands := by
  unfold Obligations.KeyUpdateCommands
  refine ⟨fun s c => ⟨fun m => ?direct, fun addr len => ?staged⟩, fun s m => ?checks⟩
  case direct => exact answers_of rfl (by decide) fun hu => (execute_6003 hu).trans (ofUpd_keyUpdate _ _)
  case staged =>
    refine answers_of rfl (by decide) fun hu => (execute_6004 hu).trans ?_
    generalize opened s c 0x6004 (objArgs c addr.toNat len.toNat) = x
    cases objOf x (msgOf s c 0x6004 (objArgs c addr.toNat len.toNat)) with
    | none => rfl
    | some o =>
      obtain ⟨p, n⟩ := o
      exact ofUpd_keyUpdate _ _
  case checks =>
    intro y n op k ctr good
    have hbegun (z : State) (o : Option State) :
        begun z o = match o with | some t => (t, rProgress, []) | none => (z, rFailed, []) := by cases o <;> rfl
    simp only [updApply, updRefused, Bool.not_eq_true', ite_or, apply_ite (begun (verifyKey s 0).1), hbegun] <;> rfl

/-! ### Firmware, sealing and debug -/

/-- Settles O33. -/
theorem firmwareSealDebugCommands : Obligations.FirmwareSealDebugCommands := by
  unfold Obligations.FirmwareSealDebugCommands
  refine ⟨fun s c => ⟨fun addr len => ?load, ?confirm⟩, fun s c => ⟨fun digest => ?sealing, fun on => ?debug⟩⟩
  case load =>
    intro args
    refine answers_of rfl (by decide) fun hu => (execute_5001 hu).trans ?_
    generalize opened s c 0x5001 args = x
    cases objOf x (msgOf s c 0x5001 args) with
    | none => rfl
    | some o =>
      obtain ⟨p, n⟩ := o
      simp only [fwLoad, ofRes_ite, ofRes_mk, Bool.not_eq_true'] <;> rfl
  case confirm =>
    refine answers_of rfl (by decide) fun hu => (execute_5002 hu).trans ?_
    simp only [fwConfirm, ofUpd_ite, ofUpd_state, ofUpd_begun, Bool.not_eq_true'] <;> rfl
  case sealing =>
    refine answers_of rfl (by decide) fun hu => (execute_6005 hu).trans ?_
    simp only [chkSeal, ofRes_ite, ofRes_mk, Bool.or_eq_true, Bool.not_eq_true', bne_iff_ne]
  case debug =>
    have h0 : numAt (le 1 on.toNat) 0 1 = on.toNat := by simp
    refine answers_of rfl (by decide) fun hu => (execute_6006 hu).trans ?_
    rw [h0]
    simp only [chkDebug, ofRes_ite, ofRes_mk, debugPend, byte_eq_one, apply_ite (Act.done · rOk [])]

end Sys2Proof.Machine

/-!
The commands of clocks, resets and power states (R377, R388, R389, R393, R394). The obligation O34.
-/

namespace Sys2Proof.Machine

theorem pwrSleep_eq (x : State) :
    pwrSleep x = if (List.range 64).all (fun i => (slOf x i).state == .free) then
      some { enterReset x .app with aon := { (enterReset x .app).aon with pwr := 1 } } else none := by
  have hany : (List.range 64).any (fun i => (slOf x i).state != .free) = !(List.range 64).all fun i => (slOf x i).state == .free :=
    List.not_all_eq_any_not.symm
  unfold pwrSleep
  rw [hany]
  cases (List.range 64).all fun i => (slOf x i).state == .free <;> rfl

/-- The bit of the Application island. -/
theorem appBit : BitVec.ofNat 13 (2 ^ islNum .app) = 0x100 := rfl

/-- PWR_DEEP at a ready processor: its response, and then deep sleep when it was OK. -/
theorem pwrDeep_runs {s : State} {c : CmdCtx} (h : ready s c 0x2084 [] = true) (hu : unitReady s 0x2084 = true) :
    exec (.pwrDeep c) s = .next (after s (if deepLegal (opened s c 0x2084 []) then deepEnter (ended s c 0x2084 [] (opened s c 0x2084 []) rOk [])
      else ended s c 0x2084 [] (opened s c 0x2084 []) rState [])) := by
  have hx := execute_2084 (args := []) (c := c) hu
  have hexec : exec (.pwrDeep c) s = topRun (fun s => direct s c 0x2084 []) s := rfl
  cases hl : deepLegal (opened s c 0x2084 []) with
  | true =>
    rw [hexec, topRun_done h (hx.trans (if_pos hl)), afterEnd, if_pos ⟨rfl, rfl⟩, if_pos rfl]
  | false =>
    rw [hexec, topRun_done h (hx.trans (if_neg (by rw [hl]; decide))), afterEnd, if_neg (fun e => absurd e.2 (by decide)),
      if_neg (by decide)]

/-- Settles O34. -/
theorem clockResetPowerCommands : Obligations.ClockResetPowerCommands := by
  unfold Obligations.ClockResetPowerCommands
  refine ⟨fun s c => ⟨?clock, ?module, fun n => ?island, ?sleep, ?run⟩, fun s c h hu => ?deep⟩
  case clock =>
    refine answers_of rfl (by decide) fun hu => (execute_2070 hu).trans ?_
    simp only [clkReturn, ofOption_ite, ofOption_none, ofOption_some, Bool.and_eq_true, Bool.not_eq_true']
  case module => exact answers_of rfl (by decide) fun hu => execute_2080 hu
  case island =>
    have h0 : numAt (le 1 n.toNat) 0 1 = n.toNat := by simp
    refine answers_of rfl (by decide) fun hu => (execute_2081 hu).trans ?_
    rw [h0, rstIsland]
    cases islands[n.toNat]? with
    | none => rfl
    | some i => simp only [ofOption_ite, ofOption_none, ofOption_some]
  case sleep =>
    refine answers_of rfl (by decide) fun hu => (execute_2082 hu).trans ?_
    rw [pwrSleep_eq, ofOption_ite]
    rfl
  case run =>
    refine answers_of rfl (by decide) fun hu => (execute_2083 hu).trans ?_
    simp only [pwrRun, ofOption_ite, ofOption_none, ofOption_some, appBit]
    rfl
  case deep =>
    intro x held dead
    have hlegal : deepLegal x = !(held || dead) := by
      simp only [deepLegal, held, dead, Bool.not_or]
    rw [pwrDeep_runs h hu]
    show Host.Outcome.next (after s (if deepLegal x = true then _ else _)) = _
    rw [hlegal]
    cases held || dead <;> rfl

end Sys2Proof.Machine

/-!
The commit of a key (R344, R350). The obligation O31 is refuted: it says of a slot's inactive copy that it stays, and that is the copy
that the commit writes.
-/

namespace Sys2Proof.Machine

/-- A commit of a key begins while Memory is up: the copy that it writes reads back. -/
theorem commitKey_begins {s : State} (kind n op ctr : Nat) (v : List Byte) (id : Word) (usage : BitVec 16)
    (h : isUp s .memory = true) : ∃ t, commitKey s kind n op ctr v id usage = some t := by
  unfold commitKey
  simp only [rdBytes_wrBytes, beq_self_eq_true, Bool.and_true]
  split <;> exact ⟨_, if_pos h⟩

/-- A slot never written has no copy. -/
theorem slotOf_runningModule : slotOf runningModule 0 1 = Slot.empty := by decide +kernel

/-- Refutes O31: the first part demands `y.inactive = x.inactive` besides the new content in that very copy. In `runningModule`, whose
symmetric slot 1 is empty, the commit of a key begins, and that copy is there afterwards where none was. -/
theorem not_keyCommitted : ¬ Obligations.KeyCommitted := by
  unfold Obligations.KeyCommitted
  rintro ⟨h, -⟩
  obtain ⟨t, ht⟩ := commitKey_begins (s := runningModule) 0 1 1 5 [1, 2, 3, 4] 7 0xFFFF (by decide +kernel)
  obtain ⟨-, -, hactive, -, -, ⟨k, u, hinactive, hcopy, -⟩, -⟩ := h runningModule t 0 1 1 5 [1, 2, 3, 4] 7 0xFFFF (by decide) ht
  rw [slotOf_runningModule] at hactive hinactive hcopy
  have hb : (slotOf t 0 1).b = some k := hcopy
  have hnone : (slotOf t 0 1).inactive = none := hinactive
  rw [Slot.inactive, hactive] at hnone
  exact absurd (hb.symm.trans hnone) (by simp)

end Sys2Proof.Machine

/-!
The arbiter: the arbitration frames that a module sends and accepts, and the arbiter's own procedures (R331 to R334).
-/

namespace Sys2Proof.Machine

/-- A row with everything that can follow, from the effect that its function has in this state. -/
theorem row_after {i : Instr} {f : State → State} {s t : State} (hi : exec i s = topRun f s) (hf : f s = t) :
    exec i s = .next (after s t) := by
  rw [hi, topRun_after, hf]

/-! ### What a key that is loaded leaves as it was -/

/-- Two states that differ in Chuck's slots, the event log, the registers and the bytes written in this step alone. -/
def keyCheck (s t : State) : Prop := ∃ c e r w, t = { s with chk := c, evr := e, regs := r, wr := w }

theorem keyCheck.refl (s : State) : keyCheck s s := ⟨s.chk, s.evr, s.regs, s.wr, rfl⟩

theorem keyCheck.trans {s t u : State} (h : keyCheck s t) (g : keyCheck t u) : keyCheck s u := by
  obtain ⟨_, _, _, _, rfl⟩ := h
  obtain ⟨_, _, _, _, rfl⟩ := g
  exact ⟨_, _, _, _, rfl⟩

theorem keyCheck_chk (s : State) (c : Chk) : keyCheck s { s with chk := c } := ⟨c, s.evr, s.regs, s.wr, rfl⟩

theorem keyCheck_setReg (s : State) (b : Blk) (i o v : Nat) : keyCheck s (setReg s b i o v) := ⟨s.chk, s.evr, _, s.wr, rfl⟩

theorem keyCheck_irq (s : State) (b : Blk) (n : Nat) : keyCheck s (irq s b n) := by
  unfold irq irqI
  split
  · exact keyCheck_setReg ..
  · exact keyCheck.refl s

theorem keyCheck_evt (s : State) (c v i a b : Nat) : keyCheck s (evt s c v i a b) := by
  obtain ⟨e, r, w, h⟩ := logOnly_evt s c v i a b
  exact ⟨s.chk, e, r, w, h⟩

theorem keyCheck_tagFailed (s : State) (kind n : Nat) : keyCheck s (tagFailed s kind n) := by
  have counted : keyCheck s (irq (cnt (setSlot s kind n { slotOf s kind n with bad := true }) .chk 0 0xB8) .chk 1) :=
    ((keyCheck_chk s _).trans (keyCheck_setReg ..)).trans (keyCheck_irq ..)
  unfold tagFailed
  dsimp only
  split
  · exact (counted.trans (keyCheck_chk ..)).trans (keyCheck_evt ..)
  · exact counted.trans (keyCheck_evt ..)

theorem keyCheck_checkSlot (s : State) (kind n : Nat) : keyCheck s (checkSlot s kind n).1 := by
  fun_cases checkSlot s kind n <;> first | exact keyCheck.refl s | exact keyCheck_tagFailed ..

theorem keyCheck_loadSym (s : State) (n u : Nat) : keyCheck s (loadSym s n u).1 := by
  unfold loadSym
  rcases h : checkSlot s 0 n with ⟨t, k⟩
  have ht : keyCheck s t := by simpa [h] using keyCheck_checkSlot s 0 n
  cases s.fuse.debug
  · cases k <;> exact ht
  · cases findK s.chk.test n <;> exact keyCheck.refl s

theorem keyCheck_loadPub (s : State) (kind n : Nat) : keyCheck s (loadPub s kind n).1 := by
  unfold loadPub
  rcases h : checkSlot s kind n with ⟨t, k⟩
  have ht : keyCheck s t := by simpa [h] using keyCheck_checkSlot s kind n
  cases k <;> exact ht

/-! ### Arbitration frames -/

theorem keyCheck_arbTag (s : State) (f : ArbFrame) : keyCheck s (arbTag s f).1 := by
  unfold arbTag
  rcases h : loadSym s (fld s .rdn 0x4C 0 6) 2 with ⟨t, k⟩
  have ht : keyCheck s t := by simpa [h] using keyCheck_loadSym s (fld s .rdn 0x4C 0 6) 2
  cases k <;> exact ht

/-- A frame that verifies has the pair's number, and its verification changes nothing but the check of the key. -/
theorem keyCheck_arbVerify (s : State) (f : ArbFrame) : keyCheck s (arbVerify s f).1 := by
  unfold arbVerify
  rcases h : arbTag s f with ⟨t, k⟩
  have ht : keyCheck s t := by simpa [h] using keyCheck_arbTag s f
  split
  · exact keyCheck.refl s
  · cases k <;> exact ht

theorem arbVerify_pair {s : State} {f : ArbFrame} (h : (arbVerify s f).2 = true) : f.pairId.toNat = reg s .rdn 0 0x48 := by
  by_contra hne
  simp [arbVerify, hne] at h

@[simp] theorem arbVerify_rdn (s : State) (f : ArbFrame) : (arbVerify s f).1.rdn = s.rdn := by
  obtain ⟨_, _, _, _, h⟩ := keyCheck_arbVerify s f
  rw [h]

@[simp] theorem sendOwn_rdn (s : State) (ip : Nat) (f : Frame) (q : Nat) : (sendOwn s ip f q).rdn = s.rdn := by
  obtain ⟨_, _, _, h⟩ := switchOnly_sendOwn s ip f q
  rw [h]

@[simp] theorem sendArb_rdn (s : State) (dst : Mac) (type code sender epoch echo : Nat) :
    (sendArb s dst type code sender epoch echo).1.rdn = s.rdn := by
  unfold sendArb
  dsimp only
  rw [sendOwn_rdn]
  obtain ⟨_, _, _, _, h⟩ := keyCheck_arbTag (nextCounter s).2
    { type := BitVec.ofNat 16 type, counter := BitVec.ofNat 64 (nextCounter s).1,
      pairId := BitVec.ofNat 32 (reg (nextCounter s).2 .rdn 0 0x48), sender := BitVec.ofNat 8 sender,
      code := BitVec.ofNat 8 code, flags := BitVec.ofNat 16 (arbFlags (nextCounter s).2), epoch := BitVec.ofNat 32 epoch,
      echo := BitVec.ofNat 64 echo, health := BitVec.ofNat 32 (healthBits (nextCounter s).2),
      lot := (nextCounter s).2.fuse.lot, die := BitVec.ofNat 24 (dieWord (nextCounter s).2),
      time := Stamp.bytes (nowStamp (nextCounter s).2), tag := [], src := 0 }
  rw [h]
  rfl

/-! ### The module's side (R332, R333) -/

/-- The module takes frames of the arbiter only as a member of the pair. -/
theorem arbAccept_off {s : State} (f : ArbFrame) (h : rdnOn s = false ∨ rdnRole s = true) : arbAccept s f = (s, false) := by
  rcases h with h | h <;> simp [arbAccept, h]

/-- An accepted frame comes from the arbiter of this pair and leaves member state and epoch as they were. -/
theorem arbAccept_true {s : State} {f : ArbFrame} (h : (arbAccept s f).2 = true) :
    f.sender = 0xFF ∧ f.pairId.toNat = reg s .rdn 0 0x48 ∧ (arbAccept s f).1.rdn.mstate = s.rdn.mstate ∧
      (arbAccept s f).1.rdn.epoch = s.rdn.epoch := by
  revert h
  fun_cases arbAccept s f <;> intro h
  case case1 => cases h
  case case2 hon t ok hv probe fresh hok c =>
    have ht : t.rdn = s.rdn := by simpa [hv] using arbVerify_rdn s f
    have hp : f.pairId.toNat = reg s .rdn 0 0x48 := arbVerify_pair (by simp_all)
    simp only [Bool.and_eq_true, beq_iff_eq] at hok
    refine ⟨hok.1.2, hp, ?_⟩
    split <;> exact ⟨by simp [ht], by simp [ht]⟩
  case case3 => cases h

/-- The epoch and the window that an accepted GRANT sets (R338). -/
def granted (t : State) (f : ArbFrame) : State :=
  if f.code = 0 then seeEpoch t f.epoch.toNat
  else { seeEpoch t f.epoch.toNat with
         rdn := { (seeEpoch t f.epoch.toNat).rdn with window := true, windowFrom := elapsedNs (seeEpoch t f.epoch.toNat) } }

theorem onGrant_eq {s : State} {f : ArbFrame} (h : (arbAccept s f).2 = true) :
    onGrant s f =
      if (granted (arbAccept s f).1 f).rdn.mstate ≠ .requesting then granted (arbAccept s f).1 f
      else if f.code = 2 then linkSend (rdnGo (granted (arbAccept s f).1 f) .taking) 1 6 (le 4 f.epoch.toNat)
      else rdnGo (granted (arbAccept s f).1 f) .taking := by
  have go : ∀ (u v : State) (m : MState), (if (m != .requesting) = true then u else v) = if m ≠ .requesting then u else v :=
    fun u v m => by simp
  exact (if_neg (c := (!(arbAccept s f).2) = true) (by simp [h])).trans (go ..)

/-- Settles O55: each answer is the model's function for it, split where the frame is accepted and where the member asks. -/
theorem arbiterAnswers : Obligations.ArbiterAnswers := by
  intro s f
  refine ⟨fun h => ?_, fun h => ⟨fun hm => ?_, fun hm => ?_, ?_, ?_, ?_⟩, arbAccept_off f, fun _ _ => arbAccept_true⟩
  · replace h : (arbAccept s f).2 = false := h
    exact ⟨row_after (f := fun s => onGrant s f) rfl (by simp [onGrant, h]),
      row_after (f := fun s => onDeny s f) rfl (by simp [onDeny, h]),
      row_after (f := fun s => onProbe s f) rfl (by simp [onProbe, h]),
      row_after (f := fun s => onRevoke s f) rfl (by simp [onRevoke, h])⟩
  all_goals replace h : (arbAccept s f).2 = true := h
  · replace hm : (granted (arbAccept s f).1 f).rdn.mstate ≠ .requesting := hm
    exact row_after (f := fun s => onGrant s f) rfl ((onGrant_eq h).trans (if_pos hm))
  · replace hm : (granted (arbAccept s f).1 f).rdn.mstate = .requesting := hm
    exact row_after (f := fun s => onGrant s f) rfl ((onGrant_eq h).trans (if_neg (not_not.mpr hm)))
  · exact row_after (f := fun s => onDeny s f) rfl (by simp [onDeny, h])
  · exact row_after (f := fun s => onProbe s f) rfl (by simp [onProbe, h])
  · exact row_after (f := fun s => onRevoke s f) rfl (by simp [onRevoke, h])

/-! ### The arbiter (R334) -/

@[simp] theorem arbSend_rdn (s : State) (m type code echo : Nat) : (arbSend s m type code echo).rdn = s.rdn := sendArb_rdn ..

theorem sideGet_sideSet {α : Type} (p : α × α) (m : Nat) (v : α) : sideGet (sideSet p m v) m = v := by
  unfold sideGet sideSet
  split <;> rfl

theorem arbHear_off {s : State} (f : ArbFrame) (dt : Nat) (h : isArb s = false) : arbHear s f dt = (s, false) := by
  simp [arbHear, h]

/-- What a verified frame with a new counter tells the arbiter. -/
theorem arbHear_true {s : State} {f : ArbFrame} {dt : Nat} (h : (arbHear s f dt).2 = true) :
    sideGet (arbHear s f dt).1.rdn.arb.last f.sender.toNat = f.counter.toNat ∧
      (arbHear s f dt).1.rdn.arb.epoch = max s.rdn.arb.epoch f.epoch.toNat ∧
      (arbHear s f dt).1.rdn.arb.holder = if bit f.flags.toNat 1 = true then some f.sender.toNat else s.rdn.arb.holder := by
  revert h
  fun_cases arbHear s f dt <;> intro h
  case case1 => cases h
  case case2 => cases h
  case case3 m hon t ok hv a hgood now tok alive a' =>
    have ht : t.rdn = s.rdn := by simpa [hv] using arbVerify_rdn s f
    refine ⟨sideGet_sideSet .., ?_, ?_⟩
    · simp [a', a, ht]
    · simp [a', a, tok, m, ht]

/-- Settles O56: each procedure is the model's function for it, split along the grounds of a denial. -/
theorem arbiterEvents : Obligations.ArbiterEvents := by
  intro s
  refine ⟨fun hoff => ⟨?_, ?_, fun f dt => ?_⟩, fun hon => ⟨?_, fun hp => ?_, fun f t0 alive hp => ?_, fun f dt => ?_⟩⟩
  · exact row_after (f := fun s => arbStart s) rfl (by simp [arbStart, hoff])
  · exact row_after (f := fun s => probeWaitEnd s) rfl (by simp [probeWaitEnd, hoff])
  · have hh := arbHear_off f dt hoff
    exact ⟨row_after (f := fun s => arbOnTake s f dt) rfl (by simp [arbOnTake, hh]),
      row_after (f := fun s => arbOnHold s f dt) rfl (by simp [arbOnHold, hh]),
      row_after (f := fun s => arbOnAbort s f dt) rfl (by simp [arbOnAbort, hh]),
      row_after (f := fun s => (arbHear s f dt).1) rfl (by simp [hh]),
      row_after (f := fun s => arbOnAlive s f dt) rfl (by simp [arbOnAlive, hh])⟩
  · exact row_after (f := fun s => arbStart s) rfl (by simp [arbStart, hon])
  · exact row_after (f := fun s => probeWaitEnd s) rfl (by simp [probeWaitEnd, hon, hp])
  · refine row_after (f := fun s => probeWaitEnd s) rfl ?_
    dsimp only [probeWaitEnd]
    rw [hon, hp]
    rfl
  · refine ⟨row_after (f := fun s => (arbHear s f dt).1) rfl rfl, row_after (f := fun s => arbOnAlive s f dt) rfl rfl,
      row_after (f := fun s => arbOnHold s f dt) rfl rfl, row_after (f := fun s => arbOnAbort s f dt) rfl rfl,
      fun h => ?_, fun h => ⟨fun hm => ?_, fun hm => ⟨fun hb => ?_, fun hb => ⟨fun hy => ?_, fun hy h3 h4 => ⟨fun ho => ?_,
        fun hn hp => ?_⟩⟩⟩, arbHear_true h⟩⟩
    all_goals have row {t : State} := row_after (i := .arbTake f dt) (f := fun s => arbOnTake s f dt) (s := s) (t := t) rfl
    · exact row (by simp [arbOnTake, h])
    · exact row (by simp [arbOnTake, h, hm])
    · exact row (by simp [arbOnTake, h, hm, hb])
    · exact row (by simp [arbOnTake, h, hm, hb, hy])
    · have hs : ¬1 - f.sender.toNat = f.sender.toNat := by simpa [ho] using hm
      have hlate := not_lt.mpr hy
      have hcode : ¬(f.code = 3#8 ∨ f.code = 4#8) := not_or.mpr ⟨h3, h4⟩
      exact ⟨arbOnTake s f dt, row rfl, by simp [arbOnTake, h, ho, hs, hb, hlate, hcode]⟩
    · have hlate := not_lt.mpr hy
      have hcode : ¬(f.code = 3#8 ∨ f.code = 4#8) := not_or.mpr ⟨h3, h4⟩
      exact row (by simp [arbOnTake, h, hb, hn, hp, hlate, hcode])

end Sys2Proof.Machine

/-!
The words of the register file after the writes that the module makes itself: a word, a counter, an interrupt and a record in the
event log each leave every other word as it was.
-/

namespace Sys2Proof.Machine

/-- Do two registers have no banks and stand at different addresses? -/
def otherWord (b : Blk) (i o : Nat) (c : Blk) (j p : Nat) : Bool :=
  (bankSel b o).isNone && (bankSel c p).isNone && decide (b.base i + o ≠ c.base j + p)

theorem reg_setReg_other {b c : Blk} {i j o p : Nat} (s : State) (v : Nat) (h : otherWord b i o c j p = true) :
    reg (setReg s b i o v) c j p = reg s c j p := by
  simp only [otherWord, Bool.and_eq_true, Option.isNone_iff_eq_none, decide_eq_true_eq] at h
  obtain ⟨⟨hb, hc⟩, hne⟩ := h
  exact reg_setReg_ne s b c i j o p v (by rwa [regKey_plain s i hb, regKey_plain s j hc])
    (by rw [regKey_plain _ j hc, regKey_plain _ j hc])

theorem reg_cntBy_other {b c : Blk} {i j o p : Nat} (s : State) (n : Nat) (h : otherWord b i o c j p = true) :
    reg (cntBy s b i o n) c j p = reg s c j p := reg_setReg_other s _ h

theorem reg_cnt_other {b c : Blk} {i j o p : Nat} (s : State) (h : otherWord b i o c j p = true) :
    reg (cnt s b i o) c j p = reg s c j p := reg_setReg_other s _ h

theorem reg_irqI_other {b c : Blk} {i j p : Nat} (s : State) (n : Nat) (h : otherWord b i 0x18 c j p = true) :
    reg (irqI s b i n) c j p = reg s c j p := by
  unfold irqI
  split
  · exact reg_setReg_other s _ h
  · rfl

theorem reg_irq_other {b c : Blk} {j p : Nat} (s : State) (n : Nat) (h : otherWord b 0 0x18 c j p = true) :
    reg (irq s b n) c j p = reg s c j p := reg_irqI_other s n h

/-- A counter saturates. -/
theorem reg_cntBy (s : State) (b : Blk) (i o n : Nat) (h : bankSel b o = none) :
    reg (cntBy s b i o n) b i o = min (reg s b i o + n) 0xFFFFFFFF := by
  unfold cntBy
  rw [reg_setReg_same _ _ _ _ _ h]
  omega

theorem reg_cnt (s : State) (b : Blk) (i o : Nat) (h : bankSel b o = none) :
    reg (cnt s b i o) b i o = min (reg s b i o + 1) 0xFFFFFFFF := reg_cntBy s b i o 1 h

/-- A word depends on the register file alone. -/
theorem reg_congr {s t : State} (b : Blk) (i o : Nat) (h : t.regs = s.regs) : reg t b i o = reg s b i o := by
  unfold reg regKey
  rw [h]

/-! ### A record in the event log -/

/-- Is a register none of those that the event recorder counts and interrupts by? -/
def besideLog (b : Blk) (i o : Nat) : Bool :=
  otherWord .evr 0 0x18 b i o && otherWord .evr 0 0x50 b i o && otherWord .evr 0 0x54 b i o

theorem reg_evrWriteOut (s : State) (b : Blk) (i o : Nat) : reg (evrWriteOut s) b i o = reg s b i o := reg_congr b i o rfl

section
variable {b : Blk} {i o : Nat} (h : besideLog b i o = true)
include h

theorem besideLog_parts :
    otherWord .evr 0 0x18 b i o = true ∧ otherWord .evr 0 0x50 b i o = true ∧ otherWord .evr 0 0x54 b i o = true := by
  simp only [besideLog, Bool.and_eq_true] at h
  exact ⟨h.1.1, h.1.2, h.2⟩

theorem reg_evrFlush (s : State) : reg (evrFlush s) b i o = reg s b i o := by
  obtain ⟨-, -, h54⟩ := besideLog_parts h
  unfold evrFlush
  split
  · rfl
  · rw [reg_cnt_other _ h54, reg_evrWriteOut]

theorem reg_evrPush (s : State) (t : Stamp) (r : EvRec) : reg (evrPush s t r) b i o = reg s b i o := by
  obtain ⟨h18, -, -⟩ := besideLog_parts h
  unfold evrPush
  dsimp only
  split
  · rw [reg_irq_other _ _ h18]
    exact reg_congr b i o rfl
  · exact reg_congr b i o rfl

/-- The high-water mark and its record. -/
theorem reg_evrHigh (s : State) (t : Stamp) :
    reg (if s.evr.high = false ∧ s.evr.count ≥ evrHighMark then
        if (irq { s with evr := { s.evr with high := true } } .evr 1).evr.count < evrMax then
          evrPush (irq { s with evr := { s.evr with high := true } } .evr 1) t
            { code := 0x1411, sev := 1, inst := 0, a := 0,
              b := BitVec.ofNat 64 (irq { s with evr := { s.evr with high := true } } .evr 1).evr.count }
        else irq { s with evr := { s.evr with high := true } } .evr 1
      else s) b i o = reg s b i o := by
  obtain ⟨h18, -, -⟩ := besideLog_parts h
  have hi : reg (irq { s with evr := { s.evr with high := true } } .evr 1) b i o = reg s b i o := by
    rw [reg_irq_other _ _ h18]
    exact reg_congr b i o rfl
  split
  · split
    · rw [reg_evrPush h, hi]
    · exact hi
  · rfl

theorem reg_evrAccept (s : State) (t : Stamp) (r : EvRec) : reg (evrAccept s t r) b i o = reg s b i o := by
  refine (reg_evrHigh h _ t).trans ((reg_evrPush h _ t r).trans ?_)
  split
  · rw [reg_evrPush h]
    exact reg_congr b i o rfl
  · rfl

theorem reg_evt (s : State) (code sev inst x y : Nat) : reg (evt s code sev inst x y) b i o = reg s b i o := by
  obtain ⟨h18, h50, -⟩ := besideLog_parts h
  unfold evt evtRec
  dsimp only
  split
  · exact reg_congr b i o rfl
  split
  · exact reg_congr b i o rfl
  split
  · rw [reg_irq_other _ _ h18, reg_cnt_other _ h50]
    exact reg_congr b i o rfl
  split
  · rw [reg_evrWriteOut, reg_evrAccept h]
  split
  · rw [reg_evrFlush h, reg_evrAccept h]
  · exact reg_evrAccept h ..

end

end Sys2Proof.Machine

/-!
The pair: pins and time-outs, and the Elade link (R320 to R330, R338, R339).
-/

namespace Sys2Proof.Machine

/-! ### Pins and time-outs -/

/-- A member state entered is the one that stands afterwards. -/
theorem rdnGo_headstock {s : State} (h : s.rdn.mstate = .taking) :
    rdnGo s .headstock = evt (irq { s with rdn := { s.rdn with mstate := .headstock } } .rdn 1) 0x1210 0 0 5 s.rdn.epoch := by
  simp [rdnGo, h, mCode]

theorem reg_rdnGo {s : State} {m : MState} {o : Nat} (h1 : otherWord .rdn 0 0x18 .rdn 0 o = true)
    (h2 : besideLog .rdn 0 o = true) : reg (rdnGo s m) .rdn 0 o = reg s .rdn 0 o := by
  unfold rdnGo
  dsimp only
  split
  · rfl
  · rw [reg_evt h2, reg_irq_other _ _ h1]
    exact reg_congr .rdn 0 o rfl

/-- The state in which the token is taken, before the gap of a failure is stated. -/
def tokenTaken (s : State) : State :=
  irq (cnt (rdnGo { s with rdn := { s.rdn with tokEpoch := s.rdn.epoch } } .headstock) .rdn 0 0xA0) .rdn 2

theorem tokenTaken_parts {s : State} (h : s.rdn.mstate = .taking) :
    (tokenTaken s).rdn = { s.rdn with tokEpoch := s.rdn.epoch, mstate := .headstock } ∧ (tokenTaken s).dec = s.dec ∧
      (tokenTaken s).spn = s.spn ∧ (tokenTaken s).tim = s.tim ∧
      reg (tokenTaken s) .rdn 0 0xA0 = min (reg s .rdn 0 0xA0 + 1) 0xFFFFFFFF := by
  have hgo := rdnGo_headstock (s := { s with rdn := { s.rdn with tokEpoch := s.rdn.epoch } }) h
  refine ⟨?_, ?_, ?_, ?_, ?_⟩
  · simp [tokenTaken, hgo, cnt]
  · simp [tokenTaken, hgo, cnt]
  · simp [tokenTaken, hgo, cnt]
  · simp [tokenTaken, hgo, cnt]
  · rw [tokenTaken, reg_irq_other _ _ (by decide), reg_cnt _ _ _ _ rfl, reg_rdnGo (by decide) (by decide)]
    exact congrArg (fun n => min (n + 1) 0xFFFFFFFF) (reg_congr .rdn 0 0xA0 rfl)

theorem takeToken_eq {s : State} (hon : rdnOn s = true) (hm : s.rdn.mstate = .taking) (hi : s.rdn.tokIn = false)
    (hh : s.rdn.healthy = true) :
    takeToken s = match s.rdn.gapFrom with
      | some g =>
        let t : State := { tokenTaken s with rdn := { (tokenTaken s).rdn with gapFrom := none } }
        if t.rdn.takeCode = 1 then
          evt (setReg t .rdn 0 0x9C (min (elapsedNs t - g) 0xFFFFFFFF)) 0x1211 1 0 0 (min (elapsedNs t - g) 0xFFFFFFFF)
        else t
      | none => tokenTaken s := by
  unfold takeToken
  rw [if_neg (by simp [hon, hm, hi, hh])]
  rfl

/-- What the taking of the token leaves: a Headstock of the epoch shown, the take counted, the gap stated. -/
theorem takeToken_parts {s : State} (hon : rdnOn s = true) (hm : s.rdn.mstate = .taking) (hi : s.rdn.tokIn = false)
    (hh : s.rdn.healthy = true) :
    (takeToken s).rdn = { s.rdn with tokEpoch := s.rdn.epoch, mstate := .headstock, gapFrom := none } ∧
      reg (takeToken s) .rdn 0 0xA0 = min (reg s .rdn 0 0xA0 + 1) 0xFFFFFFFF ∧
      (∀ g, s.rdn.gapFrom = some g → s.rdn.takeCode = 1 →
        reg (takeToken s) .rdn 0 0x9C = min (elapsedNs s - g) 0xFFFFFFFF) ∧
      (takeToken s).dec = s.dec ∧ (takeToken s).spn = s.spn := by
  obtain ⟨hrdn, hdec, hspn, htim, hreg⟩ := tokenTaken_parts hm
  rw [takeToken_eq hon hm hi hh]
  cases hg : s.rdn.gapFrom with
  | none => exact ⟨by simp [hrdn, hg], hreg, by simp, hdec, hspn⟩
  | some g =>
    dsimp only
    have ht : elapsedNs { tokenTaken s with rdn := { (tokenTaken s).rdn with gapFrom := none } } = elapsedNs s := by
      simp [elapsedNs, mono, htim]
    rw [hrdn]
    split
    next hc =>
      refine ⟨by simp, ?_, fun g' hg' _ => ?_, by simp [hdec], by simp [hspn]⟩
      · rw [reg_evt (by decide), reg_setReg_other _ _ (by decide), ← hreg]
        exact reg_congr .rdn 0 0xA0 rfl
      · cases hg'
        rw [reg_evt (by decide), reg_setReg_same _ _ _ _ _ rfl, hrdn.symm, ht]
        omega
    next hc =>
      refine ⟨rfl, ?_, fun _ _ h => absurd h hc, hdec, hspn⟩
      rw [← hreg]
      exact reg_congr .rdn 0 0xA0 rfl

/-- Settles O53: each pin's function, split along its guard. -/
theorem pairPinEvents : Obligations.PairPinEvents := by
  intro s
  refine ⟨?_, row_after (f := fun s => hbSupervisor s) rfl rfl, fun v => row_after (f := fun s => tokInChange s v) rfl rfl,
    fun v => row_after (f := fun s => cmdHealth s v) rfl rfl, ?_, ?_, row_after (f := fun s => hbLinkDead s) rfl rfl,
    row_after (f := fun s => windowEnd s) rfl rfl, row_after (f := fun s => sendToArb s 0x10 0) rfl rfl,
    fun hon => ⟨?_, ?_, ?_, fun h => ?_, fun hm hi hh => ?_⟩, ?_⟩
  · refine row_after (f := fun s => heartbeatToggle s) rfl ?_
    cases hu : isUp s .rt <;> cases hh : s.rdn.healthy <;> simp_all [heartbeatToggle, isUp]
  · refine row_after (f := fun s => hbInAlive s true) rfl ?_
    cases hu : isUp s .rt <;> simp_all [hbInAlive, isUp]
  · refine row_after (f := fun s => hbInAlive s false) rfl ?_
    cases hu : isUp s .rt <;> simp_all [hbInAlive, isUp]
  · refine row_after (f := fun s => startTakeWait s) rfl ?_
    unfold startTakeWait
    rw [← ite_not]
    exact if_congr (by simp [hon, and_assoc]) rfl rfl
  · refine row_after (f := fun s => takeRepeat s) rfl ?_
    by_cases hm : s.rdn.mstate = .requesting <;> simp [takeRepeat, hon, hm]
  · refine row_after (f := fun s => tokStuck s) rfl ?_
    by_cases hm : s.rdn.mstate = .taking <;> cases hi : s.rdn.tokIn <;> simp [tokStuck, hon, hm, hi]
  · refine row_after (f := fun s => takeToken s) rfl (if_pos ?_)
    rcases h with h | h | h <;> simp [h]
  · obtain ⟨hrdn, hreg, hgap, hdec, hspn⟩ := takeToken_parts hon hm hi hh
    exact ⟨takeToken s, row_after (f := fun s => takeToken s) rfl rfl, by rw [hrdn], by rw [hrdn], by rw [hrdn], by rw [hrdn],
      hreg, hgap, hdec, hspn⟩
  · refine row_after (f := fun s => takebackHoldoff s) rfl ?_
    simp only [takebackHoldoff, Bool.and_eq_true]

end Sys2Proof.Machine

/-!
The Elade link: frames, acknowledgements, retransmission, HELLO and the fall of the link (R325 to R328).
-/

namespace Sys2Proof.Machine

/-! ### Frames that come up to a link -/

theorem healthBits_lt (s : State) : healthBits s < 256 := by
  have ofBit_le (b : Bool) (n : Nat) : ofBit b n ≤ 2 ^ n := by cases b <;> simp [ofBit]
  unfold healthBits
  have h0 := ofBit_le (!blank s) 0
  have h1 := ofBit_le (isUp s .rt) 1
  have h2 := ofBit_le (!s.clk.forcing) 2
  have h3 := ofBit_le s.rdn.cmdOk 3
  have h4 := ofBit_le (isUp s .stream && enabled s .svs) 4
  have h5 := ofBit_le (decide (s.tim.quality ≤ 1)) 5
  have h6 := ofBit_le (isUp s .app && s.slc.s.any fun e => e.2.state == .active) 6
  have h7 := ofBit_le (s.rdn.notWithdrawn && !s.aon.pfWithdrew) 7
  norm_num at h0 h1 h2 h3 h4 h5 h6 h7
  omega

/-- The HB frame carries health, epoch and member state. -/
theorem hbTransmit_up {s : State} (hon : rdnOn s = true) (hup : s.rdn.elade.up = true) :
    ∃ h : HbFrame, h.health.toNat % 65536 = healthBits s ∧ h.epoch.toNat = s.rdn.epoch % 2 ^ 32 ∧
      h.mstate.toNat = mCode s.rdn.mstate ∧ hbTransmit s = emit s (.hb h) := by
  have hlt := healthBits_lt s
  have hm : mCode s.rdn.mstate < 256 := by cases s.rdn.mstate <;> decide
  have hst : ofBit s.aon.stuck 16 = 65536 * ofBit s.aon.stuck 0 := by cases s.aon.stuck <;> rfl
  have hst' : ofBit s.aon.stuck 0 ≤ 1 := by cases s.aon.stuck <;> decide
  refine ⟨_, ?_, ?_, ?_, if_neg (by simp [hon, hup])⟩
  · rw [BitVec.toNat_ofNat, hst]
    omega
  · exact BitVec.toNat_ofNat ..
  · rw [BitVec.toNat_ofNat]
    exact Nat.mod_eq_of_lt hm

theorem hbReceive_up {s : State} (h : HbFrame) (hon : rdnOn s = true) (hup : s.rdn.elade.up = true) :
    hbReceive s h = { s with rdn := { s.rdn with
      peer := { health := h.health, flags := h.flags, mstate := h.mstate.toNat, epoch := h.epoch.toNat, seen := true },
      elade := { s.rdn.elade with hbAlive := true }, epoch := max s.rdn.epoch h.epoch.toNat } } :=
  if_neg (by simp [hon, hup])

/-- The next frame of its class in order is taken and acknowledged; any other is answered with what the class has. -/
theorem linkReceive_class {s : State} {f : LinkFrame} (hon : rdnOn s = true) (hup : s.rdn.elade.up = true)
    (hc : linkCrcOk f = true) (h1 : 1 ≤ f.cls.toNat) (h3 : f.cls.toNat ≤ 3) (ht : f.cls = 1 → f.type ≠ 1 ∧ f.type ≠ 2) :
    linkReceive s f =
      if f.seq.toNat ≠ (linkCls s f.cls.toNat).nextRx then sendAck s f.cls.toNat 0
      else
        let r := linkAccepted (setLinkCls s f.cls.toNat
          { linkCls s f.cls.toNat with nextRx := ((linkCls s f.cls.toNat).nextRx + 1) % 2 ^ 32 }) f
        if r.1.rdn.elade.up = true then sendAck r.1 f.cls.toNat r.2 else r.1 := by
  have hhello (t : BitVec 8) (h : t = 1 ∨ t = 2) : ¬(f.cls.toNat = 1 ∧ f.type = t) := by
    rintro ⟨hcls, hty⟩
    have := ht (BitVec.eq_of_toNat_eq hcls)
    rcases h with rfl | rfl
    · exact this.1 hty
    · exact this.2 hty
  unfold linkReceive
  rw [if_neg (by simp [hon, hc]), if_neg (by omega), if_neg (by omega), if_neg (hhello 1 (.inl rfl)),
    if_neg (hhello 2 (.inr rfl)), if_neg (by simp [hup]; omega)]

theorem linkReceive_badCrc {s : State} {f : LinkFrame} (hc : linkCrcOk f = false) : linkReceive s f = s :=
  if_pos (by simp [hc])

/-! ### Acknowledgements and retransmission -/

/-- The frames after an acknowledged number, modulo 2^32. -/
theorem after_ack (a b : Word) :
    ((a.toNat + 2 ^ 32 - b.toNat % 2 ^ 32) % 2 ^ 32 != 0 && decide ((a.toNat + 2 ^ 32 - b.toNat % 2 ^ 32) % 2 ^ 32 < 2 ^ 31)) =
      (a != b && decide ((a - b).toNat < 2 ^ 31)) := by
  have hb : b.toNat % 2 ^ 32 = b.toNat := Nat.mod_eq_of_lt b.isLt
  have hd : (a.toNat + 2 ^ 32 - b.toNat % 2 ^ 32) % 2 ^ 32 = (a - b).toNat := by
    rw [hb, BitVec.toNat_sub]
    congr 1
    have := b.isLt
    omega
  have h0 : ((a - b).toNat != 0) = (a != b) := by
    rw [Bool.eq_iff_iff, bne_iff_ne, bne_iff_ne, not_iff_not]
    have ha := a.isLt
    have hb := b.isLt
    constructor
    · intro h
      rw [BitVec.toNat_sub] at h
      exact BitVec.eq_of_toNat_eq (by omega)
    · rintro rfl
      simp
  rw [hd, h0]

theorem ackTaken_class {s : State} {k : Nat} (seq : Word) (hon : rdnOn s = true) (hup : s.rdn.elade.up = true) (h1 : 1 ≤ k)
    (h3 : k ≤ 3) :
    let x := linkCls s k
    let rest := x.unacked.filter fun f => f.seq != seq && decide ((f.seq - seq).toNat < 2 ^ 31)
    ackTaken s k seq.toNat 0 =
      if rest.length = x.unacked.length then s else linkPump 65 (setLinkCls s k { x with unacked := rest, retries := 0 }) k := by
  dsimp only
  have hrest : (linkCls s k).unacked.filter (fun f => f.seq != seq && decide ((f.seq - seq).toNat < 2 ^ 31)) =
      (linkCls s k).unacked.filter fun f => (f.seq.toNat + 2 ^ 32 - seq.toNat % 2 ^ 32) % 2 ^ 32 != 0 &&
        decide ((f.seq.toNat + 2 ^ 32 - seq.toNat % 2 ^ 32) % 2 ^ 32 < 2 ^ 31) :=
    List.filter_congr fun f _ => (after_ack f.seq seq).symm
  have hack : ackTaken s k seq.toNat 0 = ackReceive s k seq.toNat := by simp [ackTaken, h1, h3]
  rw [hrest, hack]
  exact if_neg (by simp [hon, hup])

theorem retransmit_up {s : State} {k : Nat} (hon : rdnOn s = true) (hup : s.rdn.elade.up = true)
    (hne : (linkCls s k).unacked ≠ []) :
    retransmit s k =
      if 7 ≤ (linkCls s k).retries then eladeDown (cnt s .rdn 0 0xB0)
      else forEach (linkCls s k).unacked (setLinkCls (cnt s .rdn 0 0xB0) k { linkCls s k with retries := (linkCls s k).retries + 1 })
        fun s f => emit s (.link f) := by
  have h0 : ((linkCls s k).unacked == []) = false := by
    cases h : (linkCls s k).unacked with
    | nil => exact absurd h hne
    | cons f l => rfl
  exact if_neg (by simp [hon, hup, h0])

/-! ### The fall of the link and the exchange of HELLOs -/

theorem eladeDown_down {s : State} (h : s.rdn.elade.up = false) : eladeDown s = s := if_pos (by simp [h])

theorem eladeDown_rdn {s : State} (h : s.rdn.elade.up = true) :
    (eladeDown s).rdn = { s.rdn with
      elade := { s.rdn.elade with
        up := false, hbAlive := false, ctrl := LinkCls.reset, mirror := LinkCls.reset, mig := LinkCls.reset,
        ackSent := false, ackOk := false },
      mirrorOk := false } := by
  simp [eladeDown, h, cnt]

theorem keyCheck_helloTag (s : State) (h : Hello) : keyCheck s (helloTag s h).1 := by
  unfold helloTag
  rcases e : loadSym s (fld s .rdn 0x4C 8 6) 3 with ⟨t, k⟩
  have ht : keyCheck s t := by simpa [e] using keyCheck_loadSym s (fld s .rdn 0x4C 8 6) 3
  cases k <;> exact ht

@[simp] theorem helloOk_rdn (s : State) (h : Hello) : (helloOk s h).1.rdn = s.rdn := by
  have key : keyCheck s (helloOk s h).1 := by
    unfold helloOk
    rcases e : helloTag s h with ⟨t, k⟩
    have ht : keyCheck s t := by simpa [e] using keyCheck_helloTag s h
    cases k <;> exact ht
  obtain ⟨_, _, _, _, hk⟩ := key
  rw [hk]

@[simp] theorem sendHello_rdn (s : State) (type : Nat) (nonce : List Byte) : (sendHello s type nonce).rdn = s.rdn := by
  unfold sendHello
  dsimp only
  obtain ⟨_, _, _, _, hk⟩ := keyCheck_helloTag s
    { pairId := BitVec.ofNat 32 (reg s .rdn 0 0x48), side := BitVec.ofNat 8 (rdnSide s), lot := s.fuse.lot,
      die := BitVec.ofNat 24 (dieWord s), nonce := nonce, tag := [] }
  rw [hk]
  rfl

@[simp] theorem helloReject_rdn (s : State) : (helloReject s).rdn = s.rdn := by simp [helloReject, cnt]

/-- The mirror is sent only where the link comes up. -/
theorem withMirror_same {f : State → State} {s t : State} (hf : f s = t)
    (h : s.rdn.elade.up = true ∨ t.rdn.elade.up = false) : withMirror f s = t := by
  unfold withMirror
  rw [hf]
  exact if_neg (by rcases h with h | h <;> simp [h])

theorem eladeUp_waits {s : State} (h : Hello) (hw : s.rdn.elade.up = true ∨ s.rdn.elade.ackSent = false ∨
    s.rdn.elade.ackOk = false) : eladeUp s h = s := if_pos (by rcases hw with hw | hw | hw <;> simp [hw])

/-- The HELLO answered: the state in which the exchange goes on. -/
def helloAnswered (s : State) (h : Hello) : State :=
  let t := sendHello (eladeDown (helloOk s h).1) 2 h.nonce
  { t with rdn := { t.rdn with elade := { t.rdn.elade with peerNonce := h.nonce, ackSent := true } } }

theorem onHello_eq {s : State} {h : Hello} (hon : rdnOn s = true) :
    onHello s h = if (helloOk s h).2 = true then eladeUp (helloAnswered s h) h else helloReject (helloOk s h).1 := by
  unfold onHello
  rw [if_neg (by simp [hon])]
  dsimp only
  rw [← ite_not]
  exact if_congr (by simp) rfl rfl

/-- After the answer the link is down, and it stays so until its own HELLO is answered. -/
theorem helloAnswered_elade {s : State} {h : Hello} (hw : s.rdn.elade.up = true ∨ s.rdn.elade.ackOk = false) :
    (helloAnswered s h).rdn.elade.up = false ∧ (helloAnswered s h).rdn.elade.ackOk = false := by
  simp only [helloAnswered, sendHello_rdn]
  cases hup : s.rdn.elade.up
  · rw [eladeDown_down (by simpa using hup), helloOk_rdn]
    exact ⟨hup, by simpa [hup] using hw⟩
  · rw [eladeDown_rdn (by simpa using hup)]
    exact ⟨rfl, rfl⟩

theorem onHelloAck_down {s : State} {h : Hello} (hon : rdnOn s = true) (hup : s.rdn.elade.up = false) :
    onHelloAck s h =
      if (helloOk s h).2 = false ∨ padTo 16 h.nonce ≠ s.rdn.elade.nonce then helloReject (helloOk s h).1
      else eladeUp { (helloOk s h).1 with rdn := { (helloOk s h).1.rdn with elade :=
        { (helloOk s h).1.rdn.elade with ackOk := true } } } h := by
  unfold onHelloAck
  rw [if_neg (by simp [hon, hup])]
  dsimp only
  rw [helloOk_rdn]
  exact if_congr (by simp) rfl rfl

/-- Settles O54: each row's function, split where the link is up and where a frame or a HELLO is accepted. -/
theorem linkEvents : Obligations.LinkEvents := by
  intro s hon
  refine ⟨fun hd => ?down, fun hup => ⟨?_, fun h => ?_, fun c => ?_, fun f hc h1 h3 ht => ?_, ?_, ?_, ?_, ?_, fun k => ?_⟩,
    fun f hc => row_after (f := fun s => linkReceive s f) rfl (linkReceive_badCrc hc),
    fun l => ⟨?lock, row_after (f := fun s => laneDown s l.val) rfl rfl⟩,
    row_after (f := fun s => helloStart s) rfl rfl,
    fun h => ⟨fun hr => ?_, fun hr hw => ?_, fun hup => ?_, fun hup => ⟨fun hr => ?_, fun hr hn ha => ?_⟩⟩⟩
  case down =>
    refine ⟨row_after (f := fun s => hbTransmit s) rfl (by simp [hbTransmit, hd]),
      fun h => row_after (f := fun s => hbReceive s h) rfl (by simp [hbReceive, hd]),
      row_after (f := fun s => eladeDown s) rfl (eladeDown_down hd), fun c => ?_⟩
    exact row_after (f := fun s => retransmit s (c.val + 1)) rfl (by simp [retransmit, hd])
  case lock =>
    refine row_after (f := fun s => laneLock s l.val) rfl ?_
    unfold laneLock
    cases hf : s.clk.serdes.failed <;> simp [hon]
  · obtain ⟨h, hh, he, hm, ht⟩ := hbTransmit_up hon hup
    exact ⟨h, hh, he, hm, row_after (f := fun s => hbTransmit s) rfl ht⟩
  · exact row_after (f := fun s => hbReceive s h) rfl (hbReceive_up h hon hup)
  · refine ⟨fun he => ?_, fun hne hr => ?_, fun hne hr => ?_, fun seq => ?_⟩
    · exact row_after (f := fun s => retransmit s (c.val + 1)) rfl (if_pos (by simp [he]))
    · exact row_after (f := fun s => retransmit s (c.val + 1)) rfl ((retransmit_up hon hup hne).trans (if_pos hr))
    · exact row_after (f := fun s => retransmit s (c.val + 1)) rfl ((retransmit_up hon hup hne).trans (if_neg (not_le.mpr hr)))
    · exact row_after (f := fun s => ackTaken s (c.val + 1) seq.toNat (0 : BitVec 24).toNat) rfl
        (ackTaken_class seq hon hup (by omega) (by omega))
  · have hr := linkReceive_class hon hup hc h1 h3 ht
    exact ⟨fun hne => row_after (f := fun s => linkReceive s f) rfl (hr.trans (if_pos hne)),
      fun he => row_after (f := fun s => linkReceive s f) rfl (hr.trans (if_neg (not_not.mpr he)))⟩
  · exact row_after (f := fun s => eladeDown s) rfl rfl
  · rw [eladeDown_rdn hup]
  · rw [eladeDown_rdn hup]
  · rw [eladeDown_rdn hup]
  · rw [linkCls, eladeDown_rdn hup]
    dsimp only
    split_ifs <;> exact ⟨rfl, rfl, rfl⟩
  · replace hr : (helloOk s h).2 = false := hr
    have he : onHello s h = helloReject (helloOk s h).1 := (onHello_eq hon).trans (if_neg (by simp [hr]))
    refine row_after (f := withMirror fun s => onHello s h) rfl (withMirror_same he ?_)
    rw [helloReject_rdn, helloOk_rdn]
    exact Bool.eq_false_or_eq_true _
  · replace hr : (helloOk s h).2 = true := hr
    obtain ⟨hup, hack⟩ := helloAnswered_elade (h := h) hw
    have he : onHello s h = helloAnswered s h :=
      (onHello_eq hon).trans ((if_pos hr).trans (eladeUp_waits h (.inr (.inr hack))))
    exact row_after (f := withMirror fun s => onHello s h) rfl (withMirror_same he (.inr hup))
  · have he : onHelloAck s h = s := if_pos (by simp [hup])
    exact row_after (f := withMirror fun s => onHelloAck s h) rfl (withMirror_same he (.inl hup))
  · have he := (onHelloAck_down (h := h) hon hup).trans (if_pos hr)
    exact row_after (f := withMirror fun s => onHelloAck s h) rfl (withMirror_same he (.inr (by simpa using hup)))
  · replace hr : (helloOk s h).2 = true := hr
    have he := (onHelloAck_down (h := h) hon hup).trans (if_neg (by simp [hr, hn]))
    rw [eladeUp_waits h (.inr (.inl (by simpa using ha)))] at he
    exact row_after (f := withMirror fun s => onHelloAck s h) rfl (withMirror_same he (.inr (by simpa using hup)))

end Sys2Proof.Machine

/-!
Resets: what an island's reset leaves of the AON logic and the clocks, and the rows that are resets (R384 to R391). The obligation
O60.
-/

namespace Sys2Proof.Machine

/-! ### The AON logic and the clocks beside the units -/

/-- The state of the AON logic and of the clocks. -/
def ctl (s : State) : Aon × Clk := (s.aon, s.clk)

theorem ctl_of {s t : State} (ha : t.aon = s.aon) (hc : t.clk = s.clk) : ctl t = ctl s := by rw [ctl, ctl, ha, hc]

@[simp] theorem ctl_setReg (s : State) (b : Blk) (i o v : Nat) : ctl (setReg s b i o v) = ctl s := rfl
@[simp] theorem ctl_cntBy (s : State) (b : Blk) (i o n : Nat) : ctl (cntBy s b i o n) = ctl s := rfl
@[simp] theorem ctl_cnt (s : State) (b : Blk) (i o : Nat) : ctl (cnt s b i o) = ctl s := rfl
@[simp] theorem ctl_wrBytes (s : State) (a : Nat) (l : List Byte) : ctl (wrBytes s a l) = ctl s := rfl
@[simp] theorem ctl_crossDrop (s : State) (b : Blk) (i : Nat) : ctl (crossDrop s b i) = ctl s := rfl
@[simp] theorem ctl_resetBlk (s : State) (b : Blk) (i : Nat) : ctl (resetBlk s b i) = ctl s := rfl
@[simp] theorem ctl_dropCopies (s : State) (p : Copy → Bool) : ctl (dropCopies s p) = ctl s := rfl
@[simp] theorem ctl_irqI (s : State) (b : Blk) (i n : Nat) : ctl (irqI s b i n) = ctl s := by
  unfold irqI
  split <;> rfl
@[simp] theorem ctl_irq (s : State) (b : Blk) (n : Nat) : ctl (irq s b n) = ctl s := ctl_irqI ..
@[simp] theorem ctl_evt (s : State) (c v i a b : Nat) : ctl (evt s c v i a b) = ctl s := ctl_of (evt_aon ..) (evt_clk ..)
theorem ctl_forEach {α : Type} (l : List α) {f : State → α → State} (s : State) (h : ∀ s a, ctl (f s a) = ctl s) :
    ctl (forEach l s f) = ctl s := forEach_keeps ctl l s h

/-! ### What is saved before a reset -/

theorem ctl_energySave (s : State) (r : Nat) : ctl (energySave s r) = ctl s := by
  unfold energySave
  split
  · rfl
  split
  · simp
  · exact ctl_of rfl rfl

theorem ctl_evrFlush (s : State) : ctl (evrFlush s) = ctl s := by
  obtain ⟨_, _, _, h⟩ := logOnly_evrFlush s
  rw [h]
  rfl

theorem ctl_linkPump (n : Nat) (s : State) (c : Nat) : ctl (linkPump n s c) = ctl s := by
  induction n generalizing s with
  | zero => rfl
  | succ n ih =>
    unfold linkPump
    dsimp only
    split
    · rfl
    split
    · rfl
    · rw [ih]
      rfl

theorem ctl_linkSend (s : State) (c t : Nat) (p : List Byte) : ctl (linkSend s c t p) = ctl s := by
  unfold linkSend
  split
  · rfl
  · rw [ctl_linkPump]
    rfl

theorem ctl_mirrorSend (img data : List Byte) (n : Nat) (s : State) (ws : List Nat) : ctl (mirrorSend img data n s ws) = ctl s := by
  induction n generalizing s ws with
  | zero => cases ws <;> rfl
  | succ n ih =>
    cases ws with
    | nil => rfl
    | cons w ws => exact (ih ..).trans (ctl_linkSend ..)

theorem ctl_commitWords (s : State) (img : List Byte) (ws : List Nat) : ctl (commitWords s img ws) = ctl s := by
  unfold commitWords
  have hw : ctl (forEach ws s fun s o =>
      cnt { wrBytes s (retCopyAddr s img o) (slice s.spn.data o 8) with spn := { s.spn with
        committed := putK s.spn.committed o (monoNs s, false) } } .spn 0 0xBC) = ctl s := ctl_forEach _ _ fun _ _ => rfl
  split
  · exact ctl_forEach _ _ fun _ _ => rfl
  · dsimp only
    split
    · exact (ctl_mirrorSend ..).trans (ctl_forEach _ _ fun _ _ => rfl)
    · exact ctl_forEach _ _ fun _ _ => rfl

theorem ctl_writeNewHalf (s : State) : ctl (writeNewHalf s) = ctl s := by
  unfold writeNewHalf
  split <;> rfl

theorem ctl_spnFlush (s : State) : ctl (spnFlush s) = ctl s := by
  unfold spnFlush
  dsimp only
  split
  · rfl
  · rw [ctl_wrBytes, ctl_commitWords, ctl_wrBytes, ctl_writeNewHalf]
    rfl

theorem ctl_resetSaves (s : State) (i : Island) : ctl (resetSaves s i) = ctl s := by
  cases i
  case phasor =>
    simp only [resetSaves]
    split
    · exact ctl_energySave s 2
    · rfl
  case rt => exact ctl_spnFlush s
  case memory => exact ctl_evrFlush s
  all_goals rfl

/-! ### What the units lose -/

theorem ctl_portDown (s : State) (p : Nat) : ctl (portDown s p) = ctl s := by
  have hcnt (n : Nat) : ctl (flushCnt s p n) = ctl s := by
    unfold flushCnt
    split <;> rfl
  unfold portDown
  split
  · rfl
  · simp only [ctl_evt, ctl_irqI, ctl_cnt]
    exact hcnt _

theorem ctl_portsReset (s : State) (lo : Nat) : ctl (portsReset s lo) = ctl s :=
  ctl_forEach (List.range 32) s fun s k => ctl_portDown s (lo + k)

theorem ctl_eladeLanesDown (s : State) : ctl (eladeLanesDown s) = ctl s := ctl_of rfl rfl

theorem ctl_ggeLatch (s : State) : ctl (ggeLatch s) = ctl s := by
  unfold ggeLatch
  dsimp only
  split <;> rfl

theorem ctl_openEntry (s : State) (r : GRec) (st flags len : Nat) : ctl (openEntry s r st flags len) = ctl s := ctl_wrBytes ..

theorem ctl_gge (s : State) (g : Gge) : ctl { s with gge := g } = ctl s := rfl

theorem ctl_finishRecord (s : State) (r : GRec) (inc : Bool) : ctl (finishRecord s r inc) = ctl s := by
  unfold finishRecord
  extract_lets base from0 meas rows fl flags len pages s1 s2 s3 g s4 s5
  have written : ctl s3 = ctl s := (ctl_openEntry s2 ..).trans ((ctl_wrBytes ..).trans ((ctl_wrBytes s1 ..).trans (ctl_wrBytes s ..)))
  have taken : ctl s4 = ctl s3 := ctl_gge s3 _
  have logged : ctl s5 = ctl s4 := (ctl_evt ..).trans (ctl_irq s4 ..)
  exact (ctl_ggeLatch s5).trans (logged.trans (taken.trans written))

theorem ctl_ggeIslandReset (s : State) : ctl (ggeIslandReset s) = ctl s := by
  have habort : ctl (abortRecord s) = ctl s := by
    unfold abortRecord
    split
    · rfl
    · exact ctl_finishRecord ..
  unfold ggeIslandReset
  split
  · rfl
  · exact habort

theorem ctl_slcIslandReset (s : State) : ctl (slcIslandReset s) = ctl s := by
  unfold slcIslandReset
  dsimp only
  split
  · rfl
  · exact ctl_evt ..

theorem ctl_spnIslandReset (s : State) : ctl (spnIslandReset s) = ctl s := by
  unfold spnIslandReset
  dsimp only
  split
  · rfl
  · exact ctl_evt ..

theorem ctl_sfiIslandReset (s : State) : ctl (sfiIslandReset s) = ctl s := by
  unfold sfiIslandReset
  split <;> rfl

/-- No unit but the timebase, whose seconds the AON counter takes over, touches AON logic or clocks at its reset. -/
theorem ctl_unitsReset (s : State) {i : Island} (h : i ≠ .time) : ctl (unitsReset s i) = ctl s := by
  cases i
  case time => exact absurd rfl h
  case portA => exact ctl_portsReset s 0
  case portB => exact (ctl_eladeLanesDown _).trans (ctl_portsReset s 32)
  case acq => exact (ctl_ggeIslandReset { s with acq := Acq.reset, twv := Twv.reset }).trans rfl
  case app => exact ctl_slcIslandReset s
  case rt => exact (ctl_spnIslandReset (decIslandReset s)).trans rfl
  case safety => exact ctl_sfiIslandReset s
  all_goals rfl

/-- Which islands are held after the reset of one. -/
def heldAfter (s : State) (i : Island) : BitVec 13 :=
  if held s i || i == .aon then s.aon.inReset else s.aon.inReset ||| BitVec.ofNat 13 (2 ^ islNum i)

theorem inReset_unitsReset (s : State) (i : Island) : (unitsReset s i).aon.inReset = s.aon.inReset := by
  by_cases h : i = .time
  · rw [h]
    rfl
  · exact congrArg (fun x : Aon × Clk => x.1.inReset) (ctl_unitsReset s h)

theorem ctl_pagesReset (s : State) (i : Island) :
    ctl (forEach (islandPages i) s fun s p => resetBlk s p.1 p.2) = ctl s := ctl_forEach _ _ fun s p => ctl_resetBlk s p.1 p.2

theorem aon_of_ctl {s t : State} (h : ctl t = ctl s) : t.aon = s.aon := congrArg (fun x : Aon × Clk => x.1) h

theorem clk_of_ctl {s t : State} (h : ctl t = ctl s) : t.clk = s.clk := congrArg (fun x : Aon × Clk => x.2) h

theorem enterReset_inReset (s : State) (i : Island) : (enterReset s i).aon.inReset = heldAfter s i := by
  unfold enterReset heldAfter
  split
  · rfl
  · dsimp only
    rw [aon_of_ctl (ctl_pagesReset _ i), inReset_unitsReset]
    simp [setHeld, aon_of_ctl (ctl_resetSaves s i)]

/-- An island other than Time changes in the AON logic its own bit alone. -/
theorem enterReset_aon (s : State) {i : Island} (h : i ≠ .time) :
    (enterReset s i).aon = { s.aon with inReset := heldAfter s i } := by
  unfold enterReset heldAfter
  split
  · rfl
  · dsimp only
    rw [aon_of_ctl (ctl_pagesReset _ i), aon_of_ctl (ctl_unitsReset _ h)]
    simp [setHeld, aon_of_ctl (ctl_resetSaves s i)]

/-! ### Held islands -/

theorem testBit_or_island (w : BitVec 13) (i j : Island) :
    (w ||| BitVec.ofNat 13 (2 ^ islNum i)).toNat.testBit (islNum j) = (w.toNat.testBit (islNum j) || decide (i = j)) := by
  have hlt : 2 ^ islNum i < 2 ^ 13 := by cases i <;> decide
  have hinj : decide (islNum i = islNum j) = decide (i = j) := by cases i <;> cases j <;> rfl
  rw [BitVec.toNat_or, Nat.testBit_or, BitVec.toNat_ofNat, Nat.mod_eq_of_lt hlt, Nat.testBit_two_pow, hinj]

theorem held_enterReset (s : State) (i j : Island) :
    held (enterReset s i) j = (held s j || decide (i = j ∧ i ≠ .aon)) := by
  have hh : held (enterReset s i) j = (heldAfter s i).toNat.testBit (islNum j) := by rw [held, enterReset_inReset]
  rw [hh, heldAfter]
  by_cases hi : i = .aon
  · simp [hi, held]
  · by_cases he : held s i = true
    · rw [if_pos (by simp [he])]
      by_cases hj : i = j
      · subst hj
        simp [hi, held] at he ⊢
        exact he
      · simp [hj, held]
    · rw [if_neg (by simp [he, hi]), testBit_or_island]
      simp [hi, held]

/-- Resets of several islands hold each of them, and leave the start that is due. -/
theorem held_enterResets (l : List Island) (s : State) (j : Island) :
    held (forEach l s enterReset) j = (held s j || decide (j ∈ l ∧ j ≠ .aon)) := by
  unfold forEach
  induction l generalizing s with
  | nil => simp
  | cons i l ih =>
    rw [List.foldl_cons, ih, held_enterReset, Bool.or_assoc]
    congr 1
    by_cases hi : i = j
    · subst hi
      by_cases ha : i = .aon <;> simp [ha]
    · simp [hi, Ne.symm hi]

theorem starting_enterResets {l : List Island} (h : Island.time ∉ l) (s : State) :
    (forEach l s enterReset).aon.starting = s.aon.starting := by
  unfold forEach
  induction l generalizing s with
  | nil => rfl
  | cons i l ih =>
    rw [List.mem_cons, not_or] at h
    rw [List.foldl_cons, ih h.2, enterReset_aon s (Ne.symm h.1)]

/-- A module reset holds every island but AON and Time, and makes its start due. -/
theorem moduleReset_parts {s : State} (h : s.aon.starting = none) (k : Nat) :
    (moduleReset s k).aon.starting = some k ∧ (moduleReset s k).aon.rstDue = false ∧ (moduleReset s k).aon.pwr = 0 ∧
      ∀ i, i ≠ .aon → i ≠ .time → held (moduleReset s k) i = true := by
  refine ⟨?_, rfl, rfl, fun i ha ht => ?_⟩
  · change some ((forEach moduleIslands (ggeHalt s) enterReset).aon.starting.getD k) = some k
    rw [starting_enterResets (by simp [moduleIslands])]
    simp [ggeHalt, h]
  · have hm : i ∈ moduleIslands := by cases i <;> first | exact absurd rfl ha | exact absurd rfl ht | simp [moduleIslands]
    have hh : held (forEach moduleIslands (ggeHalt s) enterReset) i = true := by
      rw [held_enterResets]
      simp [hm, ha]
    exact hh

theorem held_powerOnReset (s : State) {i : Island} (h : i ≠ .aon) : held (powerOnReset s) i = true :=
  held_reset_of_ne_aon h

/-- Settles O60: each row's function, split along its guard; what is held after a reset is the AON logic's record of it. -/
theorem resetEvents : Obligations.ResetEvents := by
  intro s
  refine ⟨row_after (f := fun s => powerOnReset s) rfl rfl, rfl, rfl, rfl, rfl, fun i hi => held_powerOnReset s hi,
    row_after (f := fun s => powerOnRelease s) rfl rfl, row_after (f := fun s => startNow s) rfl rfl,
    fun h => if_pos (by simp [h]), fun i => ⟨row_after (f := fun s => islandReset s i) rfl rfl, fun hi => ?_, ?_,
      row_after (f := fun s => islandRelease s i) rfl rfl⟩, fun h => ?_, fun hl ha => ?_, ?_, fun h => ?_, fun h => ?_,
    row_after (f := fun s => watchdogReset s) rfl rfl, ?_, fun h k => moduleReset_parts h k⟩
  · rw [held_enterReset]
    simp [hi]
  · rw [held_enterReset]
    simp
  · exact row_after (f := fun s => pinReset s) rfl (if_pos (by rcases h with h | h <;> simp [h]))
  · exact row_after (f := fun s => pinReset s) rfl (if_neg (by simp [hl, ha]))
  · refine row_after (f := fun s => pinRelease s) rfl ?_
    simp only [pinRelease, Bool.not_not, Bool.and_eq_true, beq_iff_eq]
  · exact row_after (f := fun s => pinStuck s) rfl (if_pos (by simp [h]))
  · refine row_after (f := fun s => pinStuck s) rfl ((if_neg (by simp [h])).trans ?_)
    simp only [irq_aon, cnt, cntBy_aon, beq_iff_eq]
  · refine row_after (f := fun s => softwareReset s) rfl ?_
    simp only [softwareReset, Bool.and_eq_true]

end Sys2Proof.Machine

/-!
Clock sources, their monitors and the PLLs (R372, R374 to R378). The obligation O58.
-/

namespace Sys2Proof.Machine

/-! ### The sources beside their consumers -/

/-- The three sources. -/
def srcs (s : State) : ClkSrc × ClkSrc × ClkSrc := (s.clk.refclk, s.clk.serdes, s.clk.rc)

theorem srcOf_congr {s t : State} (x : Source) (h : srcs t = srcs s) : srcOf t x = srcOf s x := by
  obtain ⟨hr, hs, hc⟩ : t.clk.refclk = s.clk.refclk ∧ t.clk.serdes = s.clk.serdes ∧ t.clk.rc = s.clk.rc := by
    simpa [srcs] using h
  cases x <;> assumption

theorem srcs_of_ctl {s t : State} (h : ctl t = ctl s) : srcs t = srcs s := by rw [srcs, srcs, clk_of_ctl h]

theorem ctl_setQuality (s : State) (q : Nat) : ctl (setQuality s q) = ctl s := by
  have gate (was : Bool) (t : State) : ctl (ppsGate was t) = ctl t := by
    unfold ppsGate
    split
    · rfl
    split <;> rfl
  unfold setQuality
  extract_lets q was tim t
  have ht : ctl t = ctl s := by
    unfold t
    split <;> rfl
  split
  · rfl
  · exact (gate _ _).trans ((ctl_irq ..).trans ht)

theorem srcs_switchSys (s : State) (toRc : Bool) : srcs (switchSys s toRc) = srcs s := by
  unfold switchSys
  dsimp only
  split
  · exact (srcs_of_ctl (ctl_setQuality ..)).trans rfl
  · rfl

theorem srcs_aonStays (s : State) : srcs (aonStays s) = srcs s := rfl
theorem srcs_sysStays (s : State) : srcs (sysStays s) = srcs s := rfl

theorem srcs_aonMove (s : State) (b : Bool) : srcs (aonMove s b) = srcs s := by cases b <;> rfl

theorem srcs_sysMove (s : State) (b : Bool) : srcs (sysMove s b) = srcs s := by
  cases b
  · exact srcs_switchSys ..
  · rfl

theorem srcOf_setSrc (s : State) (x : Source) (v : ClkSrc) : srcOf (setSrc s x v) x = v := by cases x <;> rfl

/-- What a failure does to the consumers of a source other than the RC oscillator leaves every source as it is. -/
theorem srcs_failConsumers (s : State) {x : Source} (hx : x ≠ .rc) (b : Bool) : srcs (failConsumers s x b) = srcs s := by
  cases x with
  | rc => exact absurd rfl hx
  | serdes =>
    have hp : ctl (forEach (List.range 64) s portDown) = ctl s := ctl_forEach _ _ ctl_portDown
    exact srcs_of_ctl ((ctl_eladeLanesDown _).trans hp)
  | refclk =>
    have ha : srcs (if s.clk.aonOnRef && s.clk.rc.stable then aonMove s b else aonStays s) = srcs s := by
      split
      · exact srcs_aonMove ..
      · rfl
    unfold failConsumers
    dsimp only
    generalize (if (s.clk.aonOnRef && s.clk.rc.stable) = true then aonMove s b else aonStays s) = t at ha ⊢
    split
    · rw [srcs_sysStays, ha]
    split
    · exact ha
    · rw [srcs_sysMove, ha]

/-- A source that failed by its frequency stands so. -/
theorem srcOf_srcFail (s : State) {x : Source} (hx : x ≠ .rc) (b : Bool) :
    srcOf (srcFail s x b) x = { stable := false, failed := true, byFreq := b, dev := 0, good := 0 } := by
  unfold srcFail
  extract_lets s1 s2 s3
  have h2 : srcs s2 = srcs s1 := by
    unfold s2
    split <;> rfl
  have h3 : srcs s3 = srcs s2 := srcs_of_ctl ((ctl_irq ..).trans (ctl_cnt ..))
  rw [srcOf_congr x ((srcs_failConsumers _ hx _).trans ((srcs_of_ctl (ctl_evt ..)).trans (h3.trans h2)))]
  exact srcOf_setSrc ..

/-- A source judged stable stands so. -/
theorem srcOf_srcStable (s : State) {x : Source} (hx : x ≠ .rc) :
    srcOf (srcStable s x) x = { stable := true, failed := false, byFreq := false, dev := 0, good := 0 } := by
  unfold srcStable
  extract_lets s1 auto t
  have h1 : srcOf s1 x = { stable := true, failed := false, byFreq := false, dev := 0, good := 0 } := by
    rw [srcOf_congr x (srcs_of_ctl (ctl_irq ..)), srcOf_setSrc]
  cases x with
  | rc => exact absurd rfl hx
  | serdes => exact h1
  | refclk =>
    refine (srcOf_congr .refclk ?_).trans h1
    dsimp only
    have ha : srcs t = srcs s1 := by
      unfold t
      split
      · exact srcs_aonMove ..
      · rfl
    split
    · rw [srcs_sysStays, ha]
    split
    · rw [srcs_sysMove, ha]
    split
    · rw [srcs_sysMove, ha]
    · exact ha

/-! ### Frequency windows and locks -/

theorem freqWindow_armed {s : State} {x : Source} (ppm : Int) (hp : s.aon.por = false) (hr : (srcOf s (refOf x)).stable = true)
    (hx : x ≠ .rc) :
    freqWindow s x ppm =
      let c := srcOf s x
      let ok : Bool := decide (ppm.natAbs ≤ freqTol s x)
      if c.stable = true then
        if ok = true then setSrc s x { c with dev := 0 } else if c.dev = 0 then setSrc s x { c with dev := 1 } else srcFails s x true
      else if c.good = 0 then s
      else if ok = false then setSrc s x { c with good := 1 }
      else if c.good = 1 then setSrc s x { c with good := 2 }
      else srcStable s x := by
  unfold freqWindow
  rw [if_neg (by simp [hp, hr])]
  have hrc : ¬(x = .rc ∧ (srcOf s x).stable = true) := fun h => hx h.1
  simp [hrc]

theorem held_loseLock (s : State) {i : Island} (h : i ≠ .aon) : held (loseLock s i) i = true := by
  have hh : held (enterReset (irq { s with clk := { s.clk with lock := s.clk.lock &&& ~~~(BitVec.ofNat 13 (2 ^ islNum i)) } } .clk 6) i) i
      = true := by
    rw [held_enterReset]
    simp [h]
  exact hh

theorem rstLoss_loseLock (s : State) (i : Island) : (loseLock s i).aon.rstLoss.toNat.testBit (islNum i) = true := by
  unfold loseLock
  dsimp only
  rw [testBit_or_island]
  simp

/-- Settles O58: each monitor's function, split along its guard. -/
theorem clockEvents : Obligations.ClockEvents := by
  intro s
  refine ⟨fun x => ⟨fun hp => ?_, fun hp => ⟨?_, ?_, fun ppm => ⟨fun hr => ?_, fun hr hx => ⟨fun hs => ?_, fun hs => ?_⟩⟩⟩,
      fun hx => ?_⟩,
    row_after (f := fun s => forcedDone s true) rfl rfl, row_after (f := fun s => forcedDone s false) rfl rfl,
    fun i => ⟨fun h => ?_, fun hi he hp => ⟨fun hl => ?_, fun hl => ⟨?_, ?_, rstLoss_loseLock s i⟩, fun hr hq ho hl => ?_⟩⟩⟩
  · exact ⟨row_after (f := fun s => countDone s x) rfl (if_pos (by simp [hp])),
      row_after (f := fun s => missingEdge s x) rfl (if_pos hp),
      fun ppm => row_after (f := fun s => freqWindow s x ppm) rfl (if_pos (by simp [hp]))⟩
  · refine row_after (f := fun s => countDone s x) rfl ?_
    simp only [countDone, hp, Bool.false_or, Bool.and_eq_true]
  · exact row_after (f := fun s => missingEdge s x) rfl (if_neg (by simp [hp]))
  · exact row_after (f := fun s => freqWindow s x ppm) rfl (if_pos (by simp [hr]))
  · exact row_after (f := fun s => freqWindow s x ppm) rfl ((freqWindow_armed ppm hp hr hx).trans (if_pos hs))
  · exact row_after (f := fun s => freqWindow s x ppm) rfl
      ((freqWindow_armed ppm hp hr hx).trans (if_neg (Bool.not_eq_true _ ▸ hs)))
  · rw [srcOf_srcFail s hx, srcOf_srcStable s hx]
    exact ⟨rfl, rfl, rfl, rfl⟩
  · refine ⟨row_after (f := fun s => pllLock s i) rfl (if_pos ?_), row_after (f := fun s => pllLost s i) rfl (if_pos ?_)⟩ <;>
      rcases h with h | h | h <;> simp [-List.contains_eq_mem, h]
  · exact row_after (f := fun s => pllLost s i) rfl (if_pos (by simp [hl]))
  · exact row_after (f := fun s => pllLost s i) rfl (if_neg (by simp [-List.contains_eq_mem, hi, he, hp, hl]))
  · exact held_loseLock s (by rintro rfl; exact absurd hi (by decide))
  · refine row_after (f := fun s => pllLock s i) rfl ((if_neg (by simp [-List.contains_eq_mem, hi, he, hp, hr, hq])).trans ?_)
    simp [hl, ho]

end Sys2Proof.Machine

/-!
The Tool rest, waking and the power-fail warning (R379 to R381, R396, R398, R399). The obligation O59.
-/

namespace Sys2Proof.Machine

/-! ### The Tool rest -/

theorem toolCause_rail (s : State) {k : Nat} (h : k = 1 ∨ k = 2) (on : Bool) :
    toolCause s k on = { s with clk := { s.clk with
      cause := if on then s.clk.cause ||| BitVec.ofNat 8 (2 ^ k) else s.clk.cause &&& ~~~(BitVec.ofNat 8 (2 ^ k)) } } := if_pos h

theorem toolCause_other (s : State) {k : Nat} (h1 : k ≠ 1) (h2 : k ≠ 2) (on : Bool) : toolCause s k on = s :=
  if_neg (not_or.mpr ⟨h1, h2⟩)

/-- The release ends the forcing, and writes how long it lasted. -/
theorem toolRelease_parts {s : State} (hf : s.clk.forcing = true) (hc : s.clk.cause = 0) :
    (toolRelease s).clk = { s.clk with forcing := false } ∧
      reg (toolRelease s) .clk 0 0xB4 = min ((elapsedNs s - s.clk.forceFrom) / 1000) 0xFFFFFFFF ∧
      (toolRelease s).aon = s.aon ∧ (toolRelease s).dec = s.dec := by
  have he : toolRelease s = evt (irq (setReg { s with clk := { s.clk with forcing := false } } .clk 0 0xB4
      (min ((elapsedNs s - s.clk.forceFrom) / 1000) 0xFFFFFFFF)) .clk 5) 0x02FF 1 0 0 0 := if_neg (by simp [hf, hc])
  rw [he]
  refine ⟨by simp, ?_, by simp, by simp⟩
  rw [reg_evt (by decide), reg_irq_other _ _ (by decide), reg_setReg_same _ _ _ _ _ rfl]
  omega

/-- What the Tool rest takes over: the conditions now present, and the forcing from the first one on. -/
theorem settleTool_clk (s : State) :
    (settleTool s).clk.cause = BitVec.ofNat 8 (causeNow s) ∧
      (settleTool s).clk.forcing = (s.clk.forcing || decide (causeNow s ≠ 0)) := by
  unfold settleTool
  dsimp only
  split
  next h =>
    refine ⟨rfl, ?_⟩
    rcases h with h | h <;> simp [h]
  next h =>
    rw [not_or] at h
    exact ⟨by simp [cnt], by simp [cnt, h.1]⟩

/-! ### Power -/

theorem pfWarning_raised {s : State} (hp : s.aon.pf = false) (hr : s.aon.por = false) :
    pfWarning s =
      let t : State := { s with aon := { s.aon with pf := true, pfWithdrew := s.aon.pfWithdrew || flag s .aon 0x40 0 } }
      let u := evt (irq (cnt t .aon 0 0xB0) .aon 1) 0x0112 2 0 0 0
      let v : State := { u with nrg := { u.nrg with saveReq := if nrgOn u = true then some 1 else u.nrg.saveReq } }
      spnFlushSoon (if (v.chk.upd.any fun c => decide (1 ≤ c.phase)) = true then commitStep (commitStep v) else v) :=
  if_neg (by simp [hp, hr])

/-- Settles O59: the Tool rest follows its conditions; each row of power is split along its guard. -/
theorem toolRestAndPowerEvents : Obligations.ToolRestAndPowerEvents := by
  refine ⟨fun s => ⟨fun k => ⟨fun h => ?_, fun h1 h2 => ?_⟩, fun h => ?_, fun hf hc => ?_, fun h => ?_, fun h => ?_,
      (settleTool_clk s).1⟩,
    fun s => ⟨fun hp hn => ?_, fun h => ?_, fun h => ?_, fun hp hr => ?_, fun h => ?_, fun h => ?_,
      row_after (f := fun s => withdrawRestore s) rfl rfl, fun level => row_after (f := fun s => pciePerst s level) rfl rfl⟩⟩
  · exact ⟨row_after (f := fun s => toolCause s k.val true) rfl (toolCause_rail s h true),
      row_after (f := fun s => toolCause s k.val false) rfl (toolCause_rail s h false)⟩
  · exact ⟨row_after (f := fun s => toolCause s k.val true) rfl (toolCause_other s h1 h2 true),
      row_after (f := fun s => toolCause s k.val false) rfl (toolCause_other s h1 h2 false)⟩
  · exact row_after (f := fun s => toolRelease s) rfl (if_pos (by rwa [Bool.or_eq_true, Bool.not_eq_true', decide_eq_true_eq]))
  · exact ⟨toolRelease s, row_after (f := fun s => toolRelease s) rfl rfl, toolRelease_parts hf hc⟩
  · rw [(settleTool_clk s).2]
    simp [h]
  · rw [(settleTool_clk s).2]
    simp [h]
  · exact row_after (f := fun s => wakeTimer s) rfl (if_pos (by simp [hp, hn]))
  · exact row_after (f := fun s => wakeTimer s) rfl (if_neg (by rcases h with h | h <;> simp [h]))
  · exact row_after (f := fun s => pfWarning s) rfl (if_pos (by rcases h with h | h <;> simp [h]))
  · exact row_after (f := fun s => pfWarning s) rfl (pfWarning_raised hp hr)
  · exact row_after (f := fun s => pfClear s) rfl (if_pos (by simp [h]))
  · refine row_after (f := fun s => pfClear s) rfl ((if_neg (by simp [h])).trans ?_)
    unfold commitStopped
    rcases (evt (irq { s with aon := { s.aon with pf := false } } .aon 2) 0x01FF 1 0 0 0).chk.upd with _ | u <;> rfl

end Sys2Proof.Machine

/-!
Chuck's rows of its own, the boot and the event recorder (R344, R345, R352, R361, R364). The obligation O57.
-/

namespace Sys2Proof.Machine

/-- A row from which nothing else follows, from the effect that its function has in this state. -/
theorem row_alone {i : Instr} {f : State → State} {s t : State} (hi : exec i s = runOn f s) (hf : f s = t) :
    exec i s = .next (stepEnd s t) := by
  rw [hi, runOn_eq, hf]

/-! ### Remasking -/

/-- Masking twice with a mask that is long enough gives the bytes back. -/
theorem xorBytes_twice (v m : List Byte) (h : v.length ≤ m.length) : xorBytes (xorBytes v m) m = v := by
  unfold xorBytes
  induction v generalizing m with
  | nil => rfl
  | cons b v ih =>
    cases m with
    | nil => exact absurd h (by simp)
    | cons c m =>
      simp only [List.zipWith_cons_cons, BitVec.xor_assoc, BitVec.xor_self, BitVec.xor_zero]
      rw [ih m (by simpa using h)]

/-- The value of the active copy. -/
def copyValue (x : Slot) : Option (List Byte) := x.key.map fun k => k.value

/-- A copy under a fresh mask, of a symmetric slot alone. -/
def maskedKey (s : State) (kind : Nat) (k : Key) : State × Key :=
  if kind ≠ 0 then (s, k)
  else ((draw s k.share.length).2,
    { k with share := xorBytes k.value (draw s k.share.length).1, mask := (draw s k.share.length).1 })

/-- A slot whose active copy is masked anew. -/
def maskedSlot (s : State) (kind : Nat) (x : Slot) : State × Slot :=
  match x.key with
  | none => (s, x)
  | some k =>
    ((maskedKey s kind k).1,
      if x.active then { x with b := some (maskedKey s kind k).2 } else { x with a := some (maskedKey s kind k).2 })

/-- One entry of the table in its turn. -/
def remaskNext (a : State × List ((Nat × Nat) × Slot)) (e : (Nat × Nat) × Slot) : State × List ((Nat × Nat) × Slot) :=
  ((maskedSlot a.1 e.1.1 e.2).1, a.2 ++ [(e.1, (maskedSlot a.1 e.1.1 e.2).2)])

theorem remask_eq (s : State) :
    remask s = { (s.chk.slots.foldl remaskNext (s, [])).1 with
      chk := { (s.chk.slots.foldl remaskNext (s, [])).1.chk with slots := (s.chk.slots.foldl remaskNext (s, [])).2 } } := by
  have hf : (fun (a : State × List ((Nat × Nat) × Slot)) (e : (Nat × Nat) × Slot) =>
      let (s, x) := match e.2.key with
        | none => (a.1, e.2)
        | some k =>
          let (s, k) := if e.1.1 ≠ 0 then (a.1, k)
            else
              let (m, s) := draw a.1 k.share.length
              (s, { k with share := xorBytes k.value m, mask := m })
          (s, if e.2.active then { e.2 with b := some k } else { e.2 with a := some k })
      (s, a.2 ++ [(e.1, x)])) = remaskNext := by
    funext a e
    unfold remaskNext maskedSlot
    cases e.2.key with
    | none => rfl
    | some k =>
      unfold maskedKey
      by_cases h : e.1.1 ≠ 0
      · simp only [if_pos h]
      · simp only [if_neg h]
  unfold remask
  dsimp only
  exact congrArg (fun f => let r := s.chk.slots.foldl f (s, []); ({ r.1 with chk := { r.1.chk with slots := r.2 } } : State)) hf

theorem value_maskedKey (s : State) (kind : Nat) (k : Key) : (maskedKey s kind k).2.value = k.value := by
  unfold maskedKey
  split
  · rfl
  · refine xorBytes_twice k.value _ ?_
    have hl : (draw s k.share.length).1.length = k.share.length := le_length ..
    rw [hl, Key.value, xorBytes, List.length_zipWith]
    exact min_le_left ..

theorem copyValue_maskedSlot (s : State) (kind : Nat) (x : Slot) : copyValue (maskedSlot s kind x).2 = copyValue x := by
  unfold maskedSlot
  cases hk : x.key with
  | none => rfl
  | some k =>
    have hv : x.valid = true := by
      by_contra h
      simp [Slot.key, h] at hk
    have hx : copyValue x = some k.value := by rw [copyValue, hk]; rfl
    rw [hx]
    dsimp only
    split
    next ha => simp [copyValue, Slot.key, hv, ha, value_maskedKey]
    next ha => simp [copyValue, Slot.key, hv, ha, value_maskedKey]

theorem maskedSlot_state (s : State) (kind : Nat) (x : Slot) :
    ∃ r, (maskedSlot s kind x).1 = { s with chk := { s.chk with rbg := r } } := by
  have hkey (k : Key) : ∃ r, (maskedKey s kind k).1 = { s with chk := { s.chk with rbg := r } } := by
    unfold maskedKey
    split
    · exact ⟨s.chk.rbg, rfl⟩
    · exact ⟨s.chk.rbg + 1, rfl⟩
  unfold maskedSlot
  cases x.key with
  | none => exact ⟨s.chk.rbg, rfl⟩
  | some k => exact hkey k

/-- The pass over the table draws random bytes and gives each entry its own value again. -/
theorem remask_pass (l : List ((Nat × Nat) × Slot)) (a : State × List ((Nat × Nat) × Slot)) :
    ∃ r m, l.foldl remaskNext a = ({ a.1 with chk := { a.1.chk with rbg := r } }, a.2 ++ m) ∧
      List.Forall₂ (fun e f => f.1 = e.1 ∧ copyValue f.2 = copyValue e.2) l m := by
  induction l generalizing a with
  | nil => exact ⟨a.1.chk.rbg, [], by simp, .nil⟩
  | cons e l ih =>
    obtain ⟨q, hq⟩ := maskedSlot_state a.1 e.1.1 e.2
    obtain ⟨r, m, hm, hl⟩ := ih (remaskNext a e)
    refine ⟨r, (e.1, (maskedSlot a.1 e.1.1 e.2).2) :: m, ?_, .cons ⟨rfl, copyValue_maskedSlot ..⟩ hl⟩
    rw [List.foldl_cons, hm]
    simp [remaskNext, hq]

/-- The first entry of a key is found in its place. -/
theorem find_forall₂ {l m : List ((Nat × Nat) × Slot)} (k : Nat × Nat)
    (h : List.Forall₂ (fun e f => f.1 = e.1 ∧ copyValue f.2 = copyValue e.2) l m) :
    ((m.find? fun e => e.1 == k).map (·.2)).map copyValue = ((l.find? fun e => e.1 == k).map (·.2)).map copyValue := by
  induction h with
  | nil => rfl
  | cons hef _ ih =>
    obtain ⟨hk, hv⟩ := hef
    rw [List.find?_cons, List.find?_cons, hk]
    split
    · simp [hv]
    · exact ih

/-- The value of a slot depends on the values in the table. -/
theorem copyValue_slotOf {s t : State} (kind n : Nat)
    (h : ((t.chk.slots.find? fun e => e.1 == (kind, n)).map (·.2)).map copyValue =
      ((s.chk.slots.find? fun e => e.1 == (kind, n)).map (·.2)).map copyValue) :
    copyValue (slotOf t kind n) = copyValue (slotOf s kind n) := by
  unfold slotOf
  cases ht : (t.chk.slots.find? fun e => e.1 == (kind, n)).map (·.2) <;>
    cases hs : (s.chk.slots.find? fun e => e.1 == (kind, n)).map (·.2) <;> simp_all

theorem remask_keeps (s : State) :
    (remask s).regs = s.regs ∧ (remask s).nv = s.nv ∧
      ∀ kind n, copyValue (slotOf (remask s) kind n) = copyValue (slotOf s kind n) := by
  obtain ⟨r, m, hm, hl⟩ := remask_pass s.chk.slots (s, [])
  rw [remask_eq, hm]
  exact ⟨rfl, rfl, fun kind n => copyValue_slotOf kind n (find_forall₂ (kind, n) hl)⟩

/-! ### The scrub -/

theorem slotOf_setSlot (s : State) (kind n : Nat) (x : Slot) (k m : Nat) :
    slotOf (setSlot s kind n x) k m = if (k, m) = (kind, n) then x else slotOf s k m := by
  have hf : ((setSlot s kind n x).chk.slots.find? fun e => e.1 == (k, m)).map (·.2) =
      if (k, m) = (kind, n) then some x else (s.chk.slots.find? fun e => e.1 == (k, m)).map (·.2) := by
    unfold setSlot
    dsimp only
    rw [List.find?_cons]
    by_cases h : (k, m) = (kind, n)
    · rw [if_pos h, h]
      simp
    · rw [if_neg h, beq_eq_false_iff_ne.mpr (Ne.symm h), List.find?_filter]
      dsimp only
      congr 2
      funext e
      by_cases he : e.1 = (k, m)
      · simp [he, h]
      · simp [he]
  unfold slotOf
  rw [hf]
  split_ifs <;> rfl

/-- A slot with its key, and with a mark of a bad copy kept. -/
def slotStays (s t : State) : Prop :=
  ∀ kind n, (slotOf t kind n).key = (slotOf s kind n).key ∧ ((slotOf s kind n).bad = true → (slotOf t kind n).bad = true)

theorem slotStays.refl (s : State) : slotStays s s := fun _ _ => ⟨rfl, id⟩

theorem slotStays.trans {s t u : State} (h : slotStays s t) (g : slotStays t u) : slotStays s u := fun kind n =>
  ⟨(g kind n).1.trans (h kind n).1, (g kind n).2 ∘ (h kind n).2⟩

theorem slotStays_of {s t : State} (h : t.chk.slots = s.chk.slots) : slotStays s t := by
  intro kind n
  have : slotOf t kind n = slotOf s kind n := by unfold slotOf; rw [h]
  rw [this]
  exact ⟨rfl, id⟩

theorem slotStays_tagFailed (s : State) (kind n : Nat) : slotStays s (tagFailed s kind n) := by
  have marked : slotStays s (setSlot s kind n { slotOf s kind n with bad := true }) := by
    intro k m
    rw [slotOf_setSlot]
    split
    next h =>
      cases h
      exact ⟨rfl, fun _ => rfl⟩
    next => exact ⟨rfl, id⟩
  refine marked.trans (slotStays_of ?_)
  unfold tagFailed
  dsimp only
  split <;> simp [cnt]

theorem slotStays_checkSlot (s : State) (kind n : Nat) : slotStays s (checkSlot s kind n).1 := by
  fun_cases checkSlot s kind n <;> first | exact slotStays.refl s | exact slotStays_tagFailed s kind n

theorem slotStays_tagScrub (s : State) : slotStays s (tagScrub s) := by
  refine forEach_induction (P := slotStays s) _ (.refl s) fun t k ht => ht.trans ?_
  split
  · exact .refl t
  · exact slotStays_checkSlot t k.1 k.2

/-! ### The event recorder -/

theorem evrPush_count (s : State) (t : Stamp) (r : EvRec) : (evrPush s t r).evr.count = s.evr.count + 1 := by
  unfold evrPush
  dsimp only
  split
  · unfold irq irqI
    split <;> rfl
  · rfl

theorem evrAccept_count (s : State) (t : Stamp) (r : EvRec) : s.evr.count < (evrAccept s t r).evr.count := by
  unfold evrAccept
  extract_lets d e1 s1 s2 s3 e4 s4
  have h2 : s.evr.count ≤ s2.evr.count := by
    unfold s2
    split
    · rw [evrPush_count]
      exact Nat.le_succ _
    · exact le_rfl
  have h3 : s.evr.count < s3.evr.count := by
    unfold s3
    rw [evrPush_count]
    omega
  have h4 : s4.evr.count = s3.evr.count := by
    unfold s4
    rw [irq_evr]
  split
  · split
    · rw [evrPush_count, h4]
      omega
    · rw [h4]
      exact h3
  · exact h3

theorem evrFlush_evr (s : State) : (evrFlush s).evr = { s.evr with buf := [] } := by
  unfold evrFlush
  split
  next h => rw [← h]
  next => rfl

theorem evrFlush_nv (s : State) : (evrFlush s).nv = s.nv := by
  obtain ⟨_, _, _, h⟩ := logOnly_evrFlush s
  rw [h]

/-- A record that finds room takes the next number. -/
theorem evtRec_count {s : State} {r : EvRec} (hu : isUp s .memory = true) (hc : s.evr.count < 1048576)
    (hb : s.evr.buf.length < 8192) : s.evr.count < (evtRec s r).evr.count := by
  have h := evrAccept_count s (nowStamp s) r
  unfold evtRec
  dsimp only
  have hmax : ¬s.evr.count ≥ evrMax := not_le.mpr hc
  have hbuf : ¬s.evr.buf.length ≥ evrBufMax := not_le.mpr hb
  rw [if_neg (by simp [isDown_of_up hu]), if_neg hmax, if_neg hbuf]
  split
  · exact h
  split
  · rw [evrFlush_evr]
    exact h
  · exact h

/-- Settles O57: remasking goes entry by entry; a scrub is a check of every slot; a record takes the next number of the log. -/
theorem chuckRecorderEvents : Obligations.ChuckRecorderEvents := by
  intro s
  refine ⟨fun hd => ?_, fun hu => ⟨⟨remask s, ?_, ?_⟩, ⟨tagScrub s, ?_, slotStays_tagScrub s⟩, fun hb => ?_, fun hb => ?_⟩,
    fun r => ⟨row_after (f := fun s => evtRec s r) rfl rfl, evtRec_count, fun hu hc => ?_, fun hd => ?_⟩,
    row_after (f := fun s => if isUp s .memory then evrFlush s else s) rfl rfl, evrFlush_evr s, evrFlush_nv s⟩
  · have hdown := isDown_of_not_up hd
    exact ⟨row_alone (f := fun s => if isDown s .security then s else remask s) rfl (if_pos hdown),
      row_alone (f := fun s => if isDown s .security then s else tagScrub s) rfl (if_pos hdown),
      row_after (f := fun s => securityBoot s) rfl (if_pos (by simp [hdown]))⟩
  · exact row_alone (f := fun s => if isDown s .security then s else remask s) rfl (if_neg (by simp [isDown_of_up hu]))
  · exact remask_keeps s
  · exact row_alone (f := fun s => if isDown s .security then s else tagScrub s) rfl (if_neg (by simp [isDown_of_up hu]))
  · exact row_after (f := fun s => securityBoot s) rfl (if_pos (by simp [hb]))
  · exact row_after (f := fun s => securityBoot s) rfl (if_neg (by simp [hb, isDown_of_up hu]))
  · have he : evtRec s r = { s with evr := { s.evr with lost := min (s.evr.lost + 1) 0xFFFFFFFF } } :=
      (if_neg (by simp [isDown_of_up hu])).trans (if_pos (ge_of_eq hc))
    rw [he]
    exact ⟨rfl, rfl⟩
  · have he : evtRec s r = { s with evr := { s.evr with aonDrop := min (s.evr.aonDrop + 1) 0xFFFFFFFF } } :=
      if_pos (isDown_of_not_up hd)
    rw [he]

end Sys2Proof.Machine

/-!
The safety island's diagnostics, its self-test and the way of a fault (R306, R311 to R315). The obligation O52.
-/

namespace Sys2Proof.Machine

/-! ### What a fault of class A leaves -/

theorem outOff_parts (s : State) (d : Nat) :
    (outOff s d).sfi.cmd = s.sfi.cmd &&& ~~~(BitVec.ofNat 8 (3 * 2 ^ (2 * d))) ∧ (outOff s d).sfi.fault1 = s.sfi.fault1 ∧
      (outOff s d).sfi.fault2 = s.sfi.fault2 := by
  unfold outOff
  dsimp only
  split <;> exact ⟨rfl, rfl, rfl⟩

/-- A drive on the way to SAFE: its outputs off, its operation over. -/
def driveSafe (s : State) (d : Nat) : State :=
  if (drOf (outOff s d) d).state = .moving then
    setDr (outOff s d) d { drOf (outOff s d) d with state := .halted, faulted := true }
  else outOff s d

theorem sfiSafe_eq (s : State) : sfiSafe s = sfiGo (driveSafe (driveSafe (driveSafe (driveSafe s 0) 1) 2) 3) .safe := rfl

theorem driveSafe_parts (s : State) (d : Nat) :
    (driveSafe s d).sfi.cmd = s.sfi.cmd &&& ~~~(BitVec.ofNat 8 (3 * 2 ^ (2 * d))) ∧
      (driveSafe s d).sfi.fault1 = s.sfi.fault1 ∧ (driveSafe s d).sfi.fault2 = s.sfi.fault2 := by
  unfold driveSafe
  split <;> exact outOff_parts s d

theorem sfiGo_sfi (s : State) (st : SfiState) : (sfiGo s st).sfi = { s.sfi with state := st } := by
  unfold sfiGo
  split
  next h => rw [← h]
  next => simp

/-- SAFE: the island's state, every output off, the codes as they were. -/
theorem sfiSafe_parts (s : State) :
    (sfiSafe s).sfi.state = .safe ∧ (sfiSafe s).sfi.cmd = 0 ∧ (sfiSafe s).sfi.fault1 = s.sfi.fault1 ∧
      (sfiSafe s).sfi.fault2 = s.sfi.fault2 := by
  have off (c : BitVec 8) : c &&& ~~~(BitVec.ofNat 8 (3 * 2 ^ (2 * 0))) &&& ~~~(BitVec.ofNat 8 (3 * 2 ^ (2 * 1))) &&&
      ~~~(BitVec.ofNat 8 (3 * 2 ^ (2 * 2))) &&& ~~~(BitVec.ofNat 8 (3 * 2 ^ (2 * 3))) = 0 := by
    simp only [BitVec.and_assoc]
    exact BitVec.and_zero
  rw [sfiSafe_eq, sfiGo_sfi]
  obtain ⟨c0, f0, g0⟩ := driveSafe_parts s 0
  obtain ⟨c1, f1, g1⟩ := driveSafe_parts (driveSafe s 0) 1
  obtain ⟨c2, f2, g2⟩ := driveSafe_parts (driveSafe (driveSafe s 0) 1) 2
  obtain ⟨c3, f3, g3⟩ := driveSafe_parts (driveSafe (driveSafe (driveSafe s 0) 1) 2) 3
  refine ⟨rfl, ?_, ?_, ?_⟩
  · rw [c3, c2, c1, c0, off]
  · rw [f3, f2, f1, f0]
  · rw [g3, g2, g1, g0]

/-- A fault of class A that the island meets in RUN or SELFTEST takes it to SAFE. -/
theorem sfiFault_classA {s : State} {code : Nat} (d : Nat) (hc : code < 16) (hs : s.sfi.state = .run ∨ s.sfi.state = .selftest) :
    (sfiFault s code d).sfi = (sfiSafe { s with sfi := { s.sfi with fault1 := (code, d), fault2 := (code, d) } }).sfi := by
  have hb : decide (16 ≤ code) = false := by simpa using hc
  unfold sfiFault
  rcases hs with hs | hs <;> simp [hb, hs, sfiLatch, cnt]

/-! ### Self-test and proof -/

theorem drivesProof_aon (s : State) : (drivesProof s).aon = s.aon := by
  refine forEach_keeps State.aon _ s fun t d => ?_
  have hp : (posTake t d).aon = t.aon := by
    unfold posTake
    dsimp only
    split <;> rfl
  exact hp

theorem selftest_passed {s : State} (hu : isUp s .safety = true) (hs : s.sfi.state = .selftest) (ht : s.sfi.tested = false)
    (hl : ∀ l, s.aon.safety = some l → l.state ≠ .degraded ∧ l.state ≠ .safe) :
    selftest s true = drivesProof { s with sfi := { s.sfi with tested := true } } := by
  unfold selftest
  rw [if_neg (by simp [isDown_of_up hu, hs, ht]), if_neg (by simp)]
  dsimp only
  rw [drivesProof_aon]
  cases h : s.aon.safety with
  | none => rfl
  | some l =>
    obtain ⟨hd, hf⟩ := hl l h
    exact if_neg (by simp [hd, hf])

/-- Settles O52: each diagnostic's function, split along its guard; a fault of class A goes through SAFE. -/
theorem safetyDiagnostics : Obligations.SafetyDiagnostics := by
  intro s hu
  have hd := isDown_of_up hu
  refine ⟨fun o => ⟨?_, ?_, fun hn => ?_, fun hn => ?_⟩, ?_, fun n bad => ?_, fun dev hst => ?_, fun dev hst => ?_,
    fun pass => ⟨fun h => ?_, fun hs ht => ⟨fun hp => ?_, fun hp hl => ?_⟩⟩, fun hs ht hf hb => ?_, fun hs => ⟨?_, ?_⟩,
    fun hs => ⟨?_, ?_⟩, fun code d hc _ hs => ?_⟩
  · refine row_after (f := fun s => testPulse s o.val) rfl ?_
    unfold testPulse
    rw [← ite_not]
    exact if_congr (by simp [hd]) rfl rfl
  · refine row_after (f := fun s => testPulseEnd s o.val) rfl ?_
    unfold testPulseEnd
    exact if_congr (by simp [hd]) rfl rfl
  · exact row_after (f := fun s => rbMismatch s o.val) rfl (if_pos (by simp [hn]))
  · refine row_after (f := fun s => rbMismatch s o.val) rfl ((if_neg (by simp [hd, hn])).trans ?_)
    exact if_congr (by rw [Bool.and_eq_true, decide_eq_true_eq]; exact Iff.rfl) rfl rfl
  · exact row_after (f := fun s => sfiWatchdog s) rfl (if_neg (by simp [hd]))
  · exact row_after (f := fun s => eccScrub s n bad) rfl (if_neg (by simp [hd]))
  · refine row_after (f := fun s => clockCompare s dev) rfl ((if_neg (by simp [hd])).trans ((if_neg (by simp [hst])).trans ?_))
    cases dev <;> simp
  · refine row_after (f := fun s => clockCompare s dev) rfl ((if_neg (by simp [hd])).trans ((if_pos (by simp [hst])).trans ?_))
    exact if_congr (by simp [hd, hst]) rfl rfl
  · exact row_after (f := fun s => selftest s pass) rfl (if_pos (by rcases h with h | h <;> simp [h]))
  · subst hp
    exact row_after (f := fun s => selftest s false) rfl ((if_neg (by simp [hd, hs, ht])).trans (if_pos rfl))
  · subst hp
    exact row_after (f := fun s => selftest s true) rfl (selftest_passed hu hs ht hl)
  · exact row_after (f := fun s => paramCheck s) rfl (if_neg (by simp [hd, hs, ht, hf, hb]))
  · exact row_after (f := fun s => degWarning s) rfl (if_neg (by simp [hd, hs]))
  · exact row_after (f := fun s => degExpired s) rfl (if_neg (by simp [hd, hs]))
  · exact row_after (f := fun s => degWarning s) rfl (if_pos (by simp [hs]))
  · exact row_after (f := fun s => degExpired s) rfl (if_pos (by simp [hs]))
  · rw [sfiFault_classA d hc hs]
    exact sfiSafe_parts _

end Sys2Proof.Machine

/-!
The safety island's inputs: requests, positions and encoder edges of the drives (R305, R308 to R310). The obligation O51.
-/

namespace Sys2Proof.Machine

/-! ### A drive read and written -/

theorem modAt_modAt {α : Type} (l : List α) (n : Nat) (f g : α → α) : modAt (modAt l n f) n g = modAt l n (g ∘ f) := by
  unfold modAt
  apply List.ext_getElem?
  intro i
  simp only [List.getElem?_mapIdx, Option.map_map]
  congr 1
  funext a
  by_cases h : i = n <;> simp [h]

@[simp] theorem setDr_setDr (s : State) (d : Nat) (x y : Drive) : setDr (setDr s d x) d y = setDr s d y := by
  simp only [setDr, modAt_modAt]
  rfl

theorem drOf_setDr {s : State} {d : Nat} (x : Drive) (h : d < s.sfi.drive.length) : drOf (setDr s d x) d = x := by
  simp [drOf, setDr, modAt, List.getD_eq_getElem?_getD, h]

/-! ### Positions -/

theorem posDecode_toNat (n : BitVec 2) :
    posDecode n.toNat = if n = 1 then posOpen else if n = 2 then posClosed else if n = 0 then posInter else posBad := by
  revert n
  decide

/-- The contacts as they stand at the inputs. -/
def contactsSet (s : State) (k : Nat) (n : BitVec 2) : State :=
  { s with sfi := { s.sfi with si := BitVec.ofNat 16 (setBits s.sfi.si.toNat (4 * k) 2 n.toNat) } }

/-- A drive at another position. -/
def atPosition (x : Drive) (pos : Nat) : Drive :=
  { x with pos := pos, startLeft := true, cnt := if pos = posOpen then 0 else x.cnt }

theorem positionChange_same {s : State} {k : Nat} {n : BitVec 2} (hu : isUp s .safety = true)
    (h : drEn s k = false ∨ posDecode n.toNat = (drOf s k).pos) : positionChange s k n.toNat = contactsSet s k n := by
  unfold positionChange
  rw [if_neg (by simp [isDown_of_up hu])]
  by_cases he : drEn s k = true
  · exact (if_neg (c := (!drEn s k) = true) (by simp [he])).trans (if_pos (h.resolve_left (by simp [he])))
  · exact if_pos (c := (!drEn s k) = true) (by simp [he])

theorem match_observed {o : Option Bool} {c : Bool} (f : Bool → State) (u : State) :
    o = some c → (match o with | some c => f c | none => u) = f c := by
  rintro rfl
  rfl

theorem match_unobserved {o : Option Bool} (f : Bool → State) (u : State) :
    o = none → (match o with | some c => f c | none => u) = u := by
  rintro rfl
  rfl

/-- The target of an observed or commanded motion. -/
def atTarget (pos : Nat) (closing : Bool) : Bool := pos == if closing then posClosed else posOpen

theorem positionChange_moved {s : State} {k : Nat} {n : BitVec 2} (hu : isUp s .safety = true) (he : drEn s k = true)
    (hp : posDecode n.toNat ≠ (drOf s k).pos) :
    positionChange s k n.toNat =
      let u := setDr (contactsSet s k n) k (atPosition (drOf s k) (posDecode n.toNat))
      if (drOf s k).state = .moving then
        if atTarget (posDecode n.toNat) (drOf s k).closing then driveArrival u k else u
      else match (drOf s k).observed with
        | some c =>
          if atTarget (posDecode n.toNat) c then
            let y := { drOf u k with observed := none, idleEdges := 0 }
            setDr u k (if y.faulted then y else provenBy y c)
          else u
        | none => u := by
  unfold positionChange
  rw [if_neg (by simp [isDown_of_up hu])]
  exact (if_neg (c := (!drEn s k) = true) (by simp [he])).trans (if_neg hp)

/-! ### The encoder -/

/-- The levels of the tracks as they stand at the inputs. -/
def tracksSet (s : State) (k : Nat) (n : BitVec 2) : State :=
  { s with sfi := { s.sfi with si := BitVec.ofNat 16 (setBits s.sfi.si.toNat (4 * k + 2) 2 n.toNat) } }

/-- Does a single step of the tracks go in the closing direction? -/
def stepsClosing (old n : BitVec 2) : Bool :=
  (if old = 0 then 1 else if old = 1 then 3 else if old = 3 then 2 else (0 : BitVec 2)) == n

theorem stepsClosing_eq (old n : BitVec 2) :
    ((if old.toNat = 0 then 1 else if old.toNat = 1 then 3 else if old.toNat = 3 then 2 else 0) == n.toNat) =
      stepsClosing old n := by
  revert old n
  decide

theorem xor_toNat_eq_three (a b : BitVec 2) : Nat.xor a.toNat b.toNat = 3 ↔ b ^^^ a = 3 := by
  revert a b
  decide

theorem encoderEdge_still {s : State} {k : Nat} {n : BitVec 2} (us : Nat) (hu : isUp s .safety = true)
    (h : drEn s k = false ∨ n = (drOf s k).tracks) :
    encoderEdge s k n.toNat us = setDr (tracksSet s k n) k { drOf s k with tracks := n } := by
  unfold encoderEdge
  rw [if_neg (by simp [isDown_of_up hu])]
  have hn : BitVec.ofNat 2 n.toNat = n := by simp
  refine (if_pos ?_).trans (by rw [hn]; rfl)
  rw [Bool.or_eq_true, Bool.not_eq_true', beq_iff_eq]
  rcases h with h | h
  · exact .inl h
  · exact .inr (by rw [h]; rfl)

theorem encoderEdge_both {s : State} {k : Nat} {n : BitVec 2} (us : Nat) (hu : isUp s .safety = true) (he : drEn s k = true)
    (h : n ^^^ (drOf s k).tracks = 3) :
    encoderEdge s k n.toNat us = sfiFault (setDr (tracksSet s k n) k { drOf s k with tracks := n }) 20 k := by
  have hne : (drOf s k).tracks.toNat ≠ n.toNat := by
    intro e
    rw [BitVec.eq_of_toNat_eq e, BitVec.xor_self] at h
    exact absurd h (by decide)
  unfold encoderEdge
  rw [if_neg (by simp [isDown_of_up hu])]
  have hn : BitVec.ofNat 2 n.toNat = n := by simp
  exact (if_neg (c := (!drEn s k || (drOf s k).tracks.toNat == n.toNat) = true) (by simp [he, hne])).trans
    ((if_pos ((xor_toNat_eq_three ..).mpr h)).trans (by rw [hn]; rfl))

/-- What a single step in a direction does to a drive and its island (R305, R307, R310). -/
def stepTaken (t : State) (k us : Nat) (closing : Bool) : State :=
  let x := drOf t k
  let t := setDr t k { x with cnt := wrapS 32 (x.cnt + (if closing then 1 else -1)) }
  let x := drOf t k
  let busy := x.state == .moving || afterFall t k
  let x := if !busy && !tokenOk t && x.observed.isNone then
      { x with observed := some closing, edges := 0, rev := 0, faulted := false } else x
  let dir : Option Bool := if busy then some x.closing else x.observed
  match dir with
  | some c =>
    let fast := decide (1 ≤ x.edges) && decide (us < sdF t k 0x14 0 16 * 100)
    let rev := if c = closing then x.rev else x.rev + 1
    let t := setDr t k { x with edges := x.edges + 1, rev := rev }
    let t := if c ≠ closing ∧ sdF t k 0x10 24 4 < rev then sfiFault t 21 k else t
    if fast then sfiFault t 22 k else t
  | none =>
    let t := setDr t k { x with idleEdges := x.idleEdges + 1 }
    if sdF t k 0x10 24 4 < x.idleEdges + 1 then sfiFault t 25 k else t

theorem encoderEdge_step {s : State} {k : Nat} {n : BitVec 2} (us : Nat) (hu : isUp s .safety = true) (he : drEn s k = true)
    (hn : n ≠ (drOf s k).tracks) (hx : n ^^^ (drOf s k).tracks ≠ 3) :
    encoderEdge s k n.toNat us =
      stepTaken (setDr (tracksSet s k n) k { drOf s k with tracks := n }) k us (stepsClosing (drOf s k).tracks n) := by
  have hne : (drOf s k).tracks.toNat ≠ n.toNat := fun e => hn (BitVec.eq_of_toNat_eq e.symm)
  have hof : BitVec.ofNat 2 n.toNat = n := by simp
  unfold encoderEdge
  rw [if_neg (by simp [isDown_of_up hu])]
  refine (if_neg (c := (!drEn s k || (drOf s k).tracks.toNat == n.toNat) = true) (by simp [he, hne])).trans
    ((if_neg (mt (xor_toNat_eq_three ..).mp hx)).trans ?_)
  rw [← stepsClosing_eq, hof]
  rfl

theorem stepTaken_moving {t : State} {k us : Nat} (closing : Bool) (hk : k < t.sfi.drive.length)
    (hm : (drOf t k).state = .moving) :
    stepTaken t k us closing =
      let x := drOf t k
      let rev := if x.closing = closing then x.rev else x.rev + 1
      let v := setDr t k { x with cnt := wrapS 32 (x.cnt + (if closing then 1 else -1)), edges := x.edges + 1, rev := rev }
      let w := if x.closing ≠ closing ∧ sdF t k 0x10 24 4 < rev then sfiFault v 21 k else v
      if 1 ≤ x.edges ∧ us < sdF t k 0x14 0 16 * 100 then sfiFault w 22 k else w := by
  have hsd (y : Drive) (o l w : Nat) : sdF (setDr t k y) k o l w = sdF t k o l w := rfl
  unfold stepTaken
  simp only [drOf_setDr _ hk, setDr_setDr, hm, hsd, beq_self_eq_true, Bool.true_or, Bool.not_true, Bool.false_and,
    Bool.false_eq_true, if_false, if_true, Bool.and_eq_true, decide_eq_true_eq]

theorem encoderEdge_moving {s : State} {k : Nat} {n : BitVec 2} (us : Nat) (hu : isUp s .safety = true) (he : drEn s k = true)
    (hk : k < s.sfi.drive.length) (hn : n ≠ (drOf s k).tracks) (hx : n ^^^ (drOf s k).tracks ≠ 3)
    (hm : (drOf s k).state = .moving) :
    encoderEdge s k n.toNat us =
      let x := drOf s k
      let closing := stepsClosing x.tracks n
      let rev := if x.closing = closing then x.rev else x.rev + 1
      let v := setDr (setDr (tracksSet s k n) k { x with tracks := n }) k { x with
        tracks := n, cnt := wrapS 32 (x.cnt + (if closing then 1 else -1)), edges := x.edges + 1, rev := rev }
      let w := if x.closing ≠ closing ∧ sdF s k 0x10 24 4 < rev then sfiFault v 21 k else v
      if 1 ≤ x.edges ∧ us < sdF s k 0x14 0 16 * 100 then sfiFault w 22 k else w := by
  have hd : drOf (setDr (tracksSet s k n) k { drOf s k with tracks := n }) k = { drOf s k with tracks := n } := drOf_setDr _ hk
  have hl : k < (setDr (tracksSet s k n) k { drOf s k with tracks := n }).sfi.drive.length := by
    simpa [setDr, modAt, tracksSet] using hk
  rw [encoderEdge_step us hu he hn hx, stepTaken_moving _ hl (by rw [hd]; exact hm), hd]
  rfl

/-- Settles O51: each input's function, split along its guard; the drive after a step is the one written last. -/
theorem driveEvents : Obligations.DriveEvents := by
  intro s d hu hl
  have hk : d.val < s.sfi.drive.length := by rw [hl]; exact d.isLt
  refine ⟨row_after (f := fun s => islandCycle s) rfl (if_neg (by simp [isDown_of_up hu])), fun n => ?_, fun he => ?_, ?_, ?_,
    fun n us => ⟨fun h => ?_, fun he hx => ?_, fun he hn hx hm => ?_⟩⟩
  · rw [← posDecode_toNat]
    have row {t : State} := row_after (i := .positionChange d n) (f := fun s => positionChange s d.val n.toNat) (s := s) (t := t) rfl
    refine ⟨fun h => row (positionChange_same hu h), fun he hp hm => row ?_, fun he hp hm ho => row ?_,
      fun c he hp hm ho => row ?_⟩
    · rw [positionChange_moved hu he hp]
      exact (if_pos hm).trans (if_congr (by rw [atTarget, beq_iff_eq]) rfl rfl)
    · rw [positionChange_moved hu he hp]
      exact (if_neg hm).trans (match_unobserved _ _ ho)
    · rw [positionChange_moved hu he hp]
      refine (if_neg hm).trans ((match_observed _ _ ho).trans ?_)
      have hd : drOf (setDr (contactsSet s d.val n) d.val (atPosition (drOf s d.val) (posDecode n.toNat))) d.val =
          atPosition (drOf s d.val) (posDecode n.toNat) := drOf_setDr _ hk
      dsimp only
      rw [hd]
      exact if_congr (by rw [atTarget, beq_iff_eq]) rfl rfl
  · refine row_after (f := fun s => positionFault s d.val) rfl ((if_neg (by simp [isDown_of_up hu, he])).trans ?_)
    simp only [Bool.not_eq_true']
  · refine row_after (f := fun s => travelTimeout s d.val) rfl ?_
    simp only [travelTimeout, hu, true_and]
  · refine row_after (f := fun s => speedTimeout s d.val) rfl ?_
    simp only [speedTimeout, hu, true_and]
  · exact row_after (f := fun s => encoderEdge s d.val n.toNat us) rfl (encoderEdge_still us hu h)
  · exact row_after (f := fun s => encoderEdge s d.val n.toNat us) rfl (encoderEdge_both us hu he hx)
  · exact row_after (f := fun s => encoderEdge s d.val n.toNat us) rfl (encoderEdge_moving us hu he hk hn hx hm)

end Sys2Proof.Machine

/-!
Decision words, the trip matrix, binary inputs and GOOSE publications (R242 to R258). The obligation O48.
-/

namespace Sys2Proof.Machine

/-! ### Bits summed into a word -/

/-- A word of bits, one for each number below `n`. -/
def bitsWord (f : Nat → Bool) (n : Nat) : Nat := (List.range n).foldl (fun a o => a + ofBit (f o) o) 0

theorem bitsWord_succ (f : Nat → Bool) (n : Nat) : bitsWord f (n + 1) = bitsWord f n + ofBit (f n) n := by
  simp [bitsWord, List.range_succ]

theorem bitsWord_lt (f : Nat → Bool) (n : Nat) : bitsWord f n < 2 ^ n := by
  induction n with
  | zero => exact Nat.one_pos
  | succ n ih =>
    rw [bitsWord_succ, pow_succ]
    cases f n <;> simp [ofBit] <;> omega

theorem testBit_bitsWord (f : Nat → Bool) {n o : Nat} (h : o < n) : (bitsWord f n).testBit o = f o := by
  induction n with
  | zero => omega
  | succ n ih =>
    have hlt := bitsWord_lt f n
    rw [bitsWord_succ]
    by_cases ho : o = n
    · subst ho
      cases f o
      · simpa [ofBit] using Nat.testBit_lt_two_pow hlt
      · rw [ofBit, if_pos rfl, Nat.add_comm, Nat.testBit_two_pow_add_eq, Nat.testBit_lt_two_pow hlt]
        rfl
    · have hon : o < n := by omega
      rw [← ih hon]
      cases f n
      · rfl
      · rw [ofBit, if_pos rfl, Nat.add_comm, Nat.testBit_two_pow_add_gt hon]

/-! ### Words and the matrix -/

theorem decWord_put {s t : State} (w n : Nat) (h : t.dec.word = modAt s.dec.word w fun _ => BitVec.ofNat 32 n)
    (hl : w < s.dec.word.length) (hn : n < 2 ^ 32) :
    decWord t w = n ∧ ∀ j, j ≠ w → decWord t j = decWord s j := by
  refine ⟨?_, fun j hj => ?_⟩
  · simpa [decWord, h, modAt, List.getD_eq_getElem?_getD, hl] using hn
  · simp only [decWord, h, modAt, List.getD_eq_getElem?_getD, List.getElem?_mapIdx]
    cases s.dec.word[j]? <;> simp [hj]

/-- A word of the matrix depends on the decision words and the registers of its row. -/
theorem termOf_congr {s t : State} (o : Nat) (hw : t.dec.word = s.dec.word)
    (hr : ∀ i < 4, reg t .dec 0 (0x400 + o * 0x20 + 4 * i) = reg s .dec 0 (0x400 + o * 0x20 + 4 * i)) : termOf t o = termOf s o := by
  have hb (n : Nat) : decBit t n = decBit s n := by rw [decBit, decWord, hw]; rfl
  unfold termOf
  simp only [hb]
  rw [Bool.eq_iff_iff, List.any_eq_true, List.any_eq_true]
  refine exists_congr fun i => and_congr_right fun hi => ?_
  rw [hr i (List.mem_range.mp hi)]

/-- The trip outputs looked at again: each is the term of its row; a new output behind a gate raises interrupt 3. -/
theorem decRefresh_cases {s : State} (hu : isUp s .rt = true) :
    ∃ d : Dec, d.word = s.dec.word ∧ d.pub = s.dec.pub ∧ d.term = BitVec.ofNat 32 (bitsWord (termOf s) 32) ∧
      (decRefresh s = { s with dec := d } ∨ decRefresh s = irq { s with dec := d } .dec 3) := by
  unfold decRefresh
  rw [if_neg (by simp [isDown_of_up hu])]
  extract_lets t rise h d u g g'
  by_cases hg : g' = u.dec.gated.toNat
  · exact ⟨u.dec, rfl, rfl, rfl, .inl (if_pos hg)⟩
  · exact ⟨{ u.dec with gated := BitVec.ofNat 32 g' }, rfl, rfl, rfl, .inr (if_neg hg)⟩

theorem decRefresh_parts {s : State} (hu : isUp s .rt = true) :
    (decRefresh s).dec.word = s.dec.word ∧ (decRefresh s).dec.pub = s.dec.pub ∧
      ∀ o, o < 32 → bit (decRefresh s).dec.term.toNat o = termOf (decRefresh s) o := by
  have hreg (t : State) (n o i : Nat) :
      reg (irq t .dec n) .dec 0 (0x400 + o * 0x20 + 4 * i) = reg t .dec 0 (0x400 + o * 0x20 + 4 * i) := by
    refine reg_irq_other t n ?_
    rw [otherWord, Bool.and_eq_true, decide_eq_true_eq]
    exact ⟨rfl, by omega⟩
  have hterm (t : State) (h : t.dec.term = BitVec.ofNat 32 (bitsWord (termOf s) 32)) (hw : t.dec.word = s.dec.word)
      (hr : ∀ o i, reg t .dec 0 (0x400 + o * 0x20 + 4 * i) = reg s .dec 0 (0x400 + o * 0x20 + 4 * i)) (o : Nat) (ho : o < 32) :
      bit t.dec.term.toNat o = termOf t o := by
    rw [h, BitVec.toNat_ofNat, Nat.mod_eq_of_lt (bitsWord_lt ..), bit, testBit_bitsWord _ ho]
    exact (termOf_congr o hw fun i _ => hr o i).symm
  obtain ⟨d, hw, hp, ht, h | h⟩ := decRefresh_cases hu
  · rw [h]
    exact ⟨hw, hp, hterm _ ht hw fun _ _ => reg_congr .dec 0 _ rfl⟩
  · rw [h]
    refine ⟨by simpa using hw, by simpa using hp, hterm _ (by simpa using ht) (by simpa using hw) fun o i => ?_⟩
    rw [hreg]
    exact reg_congr .dec 0 _ rfl

/-- No publication that is enabled, nothing to compare. -/
theorem gpCompareAll_none {s : State} (h : ∀ e ∈ s.dec.pub, e.2.state ≠ 1) : gpCompareAll s = s := by
  have hp (p : Nat) : (gpOf s p).state ≠ 1 := by
    unfold gpOf
    generalize s.dec.pub = l at h
    induction l with
    | nil => exact (by decide : GPub.new.state ≠ 1)
    | cons e l ih =>
      unfold findK
      split
      · exact h e List.mem_cons_self
      · exact ih fun e he => h e (List.mem_cons_of_mem _ he)
  have hf : ((List.range 128).filter fun p => (gpOf s p).state == 1) = [] :=
    List.filter_eq_nil_iff.mpr fun p _ => by simpa using hp p
  rw [gpCompareAll, hf]
  rfl

/-- A word set is seen at once, at the words and at the outputs. -/
theorem wordsSet_one {s : State} {w n : Nat} (hu : isUp s .rt = true) (hl : w < s.dec.word.length) (hn : n < 2 ^ 32)
    (hp : ∀ e ∈ s.dec.pub, e.2.state ≠ 1) :
    decWord (wordsSet s [(w, n)]) w = n ∧ (∀ j, j ≠ w → decWord (wordsSet s [(w, n)]) j = decWord s j) ∧
      ∀ o, o < 32 → bit (wordsSet s [(w, n)]).dec.term.toNat o = termOf (wordsSet s [(w, n)]) o := by
  obtain ⟨hw, hpub, hterm⟩ := decRefresh_parts
    (s := { s with dec := { s.dec with word := modAt s.dec.word w fun _ => BitVec.ofNat 32 n } }) hu
  have he : wordsSet s [(w, n)] =
      decRefresh { s with dec := { s.dec with word := modAt s.dec.word w fun _ => BitVec.ofNat 32 n } } :=
    gpCompareAll_none fun e he => hp e (hpub ▸ he)
  rw [he]
  obtain ⟨hsame, hother⟩ := decWord_put w n hw hl hn
  exact ⟨hsame, hother, hterm⟩

/-! ### Stores -/

theorem dwStore_closed {s : State} {i w k v : Nat}
    (h : isUp s .rt = false ∨ isUp s .app = false ∨ windowClosed (slOf s i) = true) :
    dwStore s i w k v = emit s (.accessFault i (dwAddr i w k)) := by
  refine if_pos ?_
  rcases h with h | h | h
  · simp [isDown_of_not_up h]
  · simp [isDown_of_not_up h]
  · simp [h]

theorem dwStore_open {s : State} {i w k v : Nat} (hr : isUp s .rt = true) (ha : isUp s .app = true)
    (hc : windowClosed (slOf s i) = false) :
    dwStore s i w k v = if wordOwner s w ≠ i then dwDenied s i w (dwAddr i w k)
      else wordsSet s [(w, if k = 0 then v else if k = 1 then Nat.lor (decWord s w) v
        else Nat.land (decWord s w) (Nat.xor v 0xFFFFFFFF))] :=
  if_neg (by simp [isDown_of_up hr, isDown_of_up ha, hc])

/-- A store by its kind: the word's owner writes, any other is refused, a closed window faults. -/
theorem store_row {s : State} {e : Instr} {i w k v new : Nat} (he : exec e s = runOn (fun s => dwStore s i w k v) s)
    (hn : (if k = 0 then v else if k = 1 then Nat.lor (decWord s w) v
      else Nat.land (decWord s w) (Nat.xor v 0xFFFFFFFF)) = new) :
    (isUp s .rt = true → isUp s .app = true → windowClosed (slOf s i) = false →
      (wordOwner s w = i → exec e s = .next (stepEnd s (wordsSet s [(w, new)]))) ∧
      (wordOwner s w ≠ i → exec e s = .next (stepEnd s (dwDenied s i w (dwAddr i w k))))) ∧
    (isUp s .rt = false ∨ isUp s .app = false ∨ windowClosed (slOf s i) = true →
      exec e s = .next (stepEnd s (emit s (.accessFault i (dwAddr i w k))))) := by
  refine ⟨fun hr ha hc => ⟨fun ho => row_alone he ?_, fun ho => row_alone he ?_⟩, fun h => row_alone he (dwStore_closed h)⟩
  · rw [dwStore_open hr ha hc, if_neg (not_not.mpr ho), hn]
  · rw [dwStore_open hr ha hc, if_pos ho]

/-- Settles O48: a store by its kind; the outputs after a store are the terms of their rows. -/
theorem decisionEvents : Obligations.DecisionEvents := by
  intro s
  refine ⟨fun i w v => ⟨store_row rfl rfl, store_row rfl rfl, store_row rfl rfl⟩, fun w n hu hl hn hp => ?_, fun o => ?_,
    fun p g hg hs ha ht hr hst => ?_, fun i level dt => ⟨fun hd => ?_, fun hu => ?_⟩⟩
  · exact wordsSet_one hu (by rw [hl]; exact w.isLt) hn hp
  · exact row_alone (f := fun s => holdExpire s o.val) rfl rfl
  · refine row_alone (f := fun s => gpPump (gpRetransmit s p.val) p.val) rfl ?_
    have he : gpRetransmit s p.val = gpSend s p.val (gpOf s p.val).stNum
        (if 0xFFFFFFFF ≤ (gpOf s p.val).sqNum then 1 else (gpOf s p.val).sqNum + 1) g := by
      unfold gpRetransmit
      dsimp only
      rw [hg]
      exact if_pos (by simp [hs, ha, ht, hr, hst])
    rw [he]
  · exact row_alone (f := fun s => biAccept s i.val level dt) rfl (if_pos (isDown_of_not_up hd))
  · refine row_alone (f := fun s => biAccept s i.val level dt) rfl ((if_neg (by simp [isDown_of_up hu])).trans ?_)
    rfl

end Sys2Proof.Machine

/-!
The Spindle cycle: input and output phase, the watchdog, GOOSE inputs (R290 to R294). The obligation O49.
-/

namespace Sys2Proof.Machine

/-! ### What publications and words leave of Spindle -/

@[simp] theorem sendOwn_spn (s : State) (ip : Nat) (f : Frame) (q : Nat) : (sendOwn s ip f q).spn = s.spn := by
  obtain ⟨_, _, _, h⟩ := switchOnly_sendOwn s ip f q
  rw [h]

@[simp] theorem gpSend_spn (s : State) (p n q : Nat) (g : GooseState) : (gpSend s p n q g).spn = s.spn := by
  simp only [gpSend, sendOwn_spn, cnt, cntBy_spn, setGp_spn]

@[simp] theorem gpPump_spn (s : State) (p : Nat) : (gpPump s p).spn = s.spn := by
  unfold gpPump
  dsimp only
  split
  · rfl
  · simp only [apply_ite State.spn, gpSend_spn, setGp_spn, ite_self]

@[simp] theorem linkPump_spn (n : Nat) (s : State) (c : Nat) : (linkPump n s c).spn = s.spn := by
  induction n generalizing s with
  | zero => rfl
  | succ n ih =>
    unfold linkPump
    dsimp only
    split
    · rfl
    split
    · rfl
    · rw [ih]
      rfl

@[simp] theorem linkSend_spn (s : State) (c t : Nat) (p : List Byte) : (linkSend s c t p).spn = s.spn := by
  unfold linkSend
  split
  · rfl
  · rw [linkPump_spn]
    rfl

@[simp] theorem gpNew_spn (s : State) (p : Nat) (st : Option Nat) : (gpNew s p st).spn = s.spn := by
  unfold gpNew
  dsimp only
  split
  · rfl
  split
  · simp [cnt]
  · simp

@[simp] theorem decRefresh_spn (s : State) : (decRefresh s).spn = s.spn := by
  by_cases hu : isUp s .rt = true
  · obtain ⟨d, -, -, -, h | h⟩ := decRefresh_cases hu <;> simp [h]
  · rw [decRefresh, if_pos (isDown_of_not_up (by simpa using hu))]

@[simp] theorem gpCompareAll_spn (s : State) : (gpCompareAll s).spn = s.spn :=
  forEach_keeps State.spn _ s fun s p => by
    unfold gpCompare
    dsimp only
    split
    · exact gpNew_spn ..
    · rfl

@[simp] theorem wordsSet_spn (s : State) (l : List (Nat × Nat)) : (wordsSet s l).spn = s.spn := by
  rw [wordsSet, gpCompareAll_spn, decRefresh_spn]
  exact forEach_keeps State.spn _ s fun _ _ => rfl

/-- A halt leaves the state it names. -/
theorem spnHalt_state (s : State) (st : SpnState) : (spnHalt s st).spn.state = st := by
  unfold spnHalt
  split
  · assumption
  · dsimp only
    rw [forEach_keeps State.spn _ _ fun s k => gpNew_spn ..]
    split
    · exact congrArg Spn.state (wordsSet_spn ..)
    · rfl

/-! ### A flush leaves the program's state -/

@[simp] theorem mirrorSend_spn (img data : List Byte) (n : Nat) (s : State) (l : List Nat) :
    (mirrorSend img data n s l).spn = s.spn := by
  induction n generalizing s l with
  | zero => cases l <;> rfl
  | succ n ih =>
    cases l with
    | nil => rfl
    | cons w l => exact (ih ..).trans (linkSend_spn ..)

theorem commitWords_state (s : State) (img : List Byte) (ws : List Nat) : (commitWords s img ws).spn.state = s.spn.state := by
  have written : (forEach ws s fun t o =>
      cnt { wrBytes t (retCopyAddr t img o) (slice t.spn.data o 8) with spn := { t.spn with
        committed := putK t.spn.committed o (monoNs s, false) } } .spn 0 0xBC).spn.state = s.spn.state :=
    forEach_keeps (fun t => t.spn.state) _ s fun _ _ => rfl
  unfold commitWords
  split
  · exact forEach_keeps (fun t => t.spn.state) _ s fun _ _ => rfl
  · dsimp only
    split
    · rw [mirrorSend_spn]
      exact written
    · exact written

theorem spnFlush_state (s : State) : (spnFlush s).spn.state = s.spn.state := by
  have half (t : State) : (writeNewHalf t).spn.state = t.spn.state := by
    unfold writeNewHalf
    split <;> rfl
  unfold spnFlush
  dsimp only
  split
  · rfl
  · rw [wrBytes_spn, commitWords_state, wrBytes_spn, half]

/-- The watchdog stops the program in FAULT. -/
theorem spnWatchdog_fault {s : State} (hon : spnOn s = true) (hr : s.spn.state = .running) (hc : s.spn.inCycle = true) :
    (spnWatchdog s).spn.state = .fault := by
  unfold spnWatchdog
  rw [if_neg (by simp [hon, hr, hc])]
  dsimp only
  split
  · rw [spnFlush_state, spnHalt_state]
  · rw [spnHalt_state]

/-! ### The input phase -/

/-- The state in which the tasks run: mirrored words applied, the times of the cycle in the registers. -/
def cycleBegun (s : State) : State :=
  let now := monoNs s
  let s := applyMirror s
  let gap := if s.spn.firstSwitch then now - s.spn.gapFrom else 0
  let s := if s.spn.firstSwitch then setReg s .spn 0 0x9C gap else s
  match s.spn.cycleStart with
  | none => s
  | some t =>
    let c := min (now - t - gap) 0xFFFFFFFF
    let s := setReg s .spn 0 0x90 c
    let s := setReg s .spn 0 0x94 (min (reg s .spn 0 0x94) c)
    setReg s .spn 0 0x98 (max (reg s .spn 0 0x98) c)

theorem cycleBegun_parts (s : State) :
    (cycleBegun s).spn.force = s.spn.force ∧ (cycleBegun s).dec = s.dec ∧ (cycleBegun s).svs = s.svs ∧
      reg (cycleBegun s) .spn 0 0x8C = reg s .spn 0 0x8C := by
  unfold cycleBegun
  extract_lets now s1 gap s2
  have h1 : reg s1 .spn 0 0x8C = reg s .spn 0 0x8C := reg_congr .spn 0 0x8C rfl
  have h2 : s2.spn.force = s.spn.force ∧ s2.dec = s.dec ∧ s2.svs = s.svs ∧ reg s2 .spn 0 0x8C = reg s .spn 0 0x8C := by
    unfold s2
    split
    · exact ⟨rfl, rfl, rfl, (reg_setReg_other _ _ (by decide)).trans h1⟩
    · exact ⟨rfl, rfl, rfl, h1⟩
  obtain ⟨hf, hd, hs, hr⟩ := h2
  split
  · exact ⟨hf, hd, hs, hr⟩
  · refine ⟨hf, hd, hs, ?_⟩
    rw [reg_setReg_other _ _ (by decide), reg_setReg_other _ _ (by decide), reg_setReg_other _ _ (by decide), hr]

theorem inputPhase_begins {s : State} (hon : spnOn s = true) (hr : s.spn.state = .running) (hc : s.spn.inCycle = false) :
    ∃ d, inputPhase s =
      let t := setReg (cycleBegun s) .spn 0 0x8C ((reg (cycleBegun s) .spn 0 0x8C + 1) % 2 ^ 32)
      { t with spn := { t.spn with
          data := d, errq := [], biSeen := 0, firstStart := false, firstSwitch := false, inCycle := true,
          cycleStart := some (monoNs s) } } :=
  ⟨_, if_neg (by simp [hon, hr, hc])⟩

/-! ### GOOSE inputs -/

/-- A property that every pass of a loop over members of its list keeps. -/
theorem forEach_induction_mem {α : Type} {P : State → Prop} (l : List α) {f : State → α → State} {s : State} (hs : P s)
    (hf : ∀ s, ∀ a ∈ l, P s → P (f s a)) : P (forEach l s f) := by
  unfold forEach
  induction l generalizing s with
  | nil => exact hs
  | cons a l ih => exact ih (hf s a List.mem_cons_self hs) fun s b hb => hf s b (List.mem_cons_of_mem a hb)

/-- What the decoding of a state of a subscription leaves as it was: the inputs of other stations too. -/
def decoded (es : List InEnt) (st : List Nat) (g : Nat) (s t : State) : Prop :=
  t.spn.inbox = s.spn.inbox ∧ t.spn.data = s.spn.data ∧ t.dec = s.dec ∧
    ∀ k e, es[k]? = some e → st.getD e.station 4096 ≠ g → findK t.spn.staged k = findK s.spn.staged k

theorem decoded.refl (es : List InEnt) (st : List Nat) (g : Nat) (s : State) : decoded es st g s s :=
  ⟨rfl, rfl, rfl, fun _ _ _ _ => rfl⟩

theorem decoded.trans {es : List InEnt} {st : List Nat} {g : Nat} {s t u : State} (h : decoded es st g s t)
    (h' : decoded es st g t u) : decoded es st g s u := by
  obtain ⟨hi, hd, hc, hk⟩ := h
  obtain ⟨hi', hd', hc', hk'⟩ := h'
  exact ⟨hi'.trans hi, hd'.trans hd, hc'.trans hc, fun k e he hg => (hk' k e he hg).trans (hk k e he hg)⟩

theorem decoded_error (es : List InEnt) (st : List Nat) (g : Nat) (s : State) (x m : Nat) :
    decoded es st g s (decodeError s x m) := by
  unfold decodeError
  dsimp only
  split
  · exact ⟨by simp [cnt], by simp [cnt], by simp [cnt], fun _ _ _ _ => by simp [cnt]⟩
  · exact ⟨by simp [cnt], by simp [cnt], by simp [cnt], fun _ _ _ _ => by simp [cnt]⟩

theorem decoded_ite {es : List InEnt} {st : List Nat} {g : Nat} {s t : State} (c : Prop) [Decidable c] (h : decoded es st g s t) :
    decoded es st g s (if c then t else s) := by
  split
  · exact h
  · exact .refl es st g s

/-- Another entry staged, of the station's own. -/
theorem decoded_staged {es : List InEnt} {st : List Nat} {g k : Nat} {e : InEnt} (s : State)
    (v : Option (List Byte) × Option (BitVec 16)) (he : es[k]? = some e) (hg : st.getD e.station 4096 = g) :
    decoded es st g s { s with spn := { s.spn with staged := putK s.spn.staged k v } } := by
  refine ⟨rfl, rfl, rfl, fun j f hf hn => findK_putK_ne _ _ ?_⟩
  rintro rfl
  rw [he] at hf
  cases hf
  exact hn hg

theorem decoded_decodeState (s : State) (g : Nat) (all : List Byte) :
    decoded (inMap (spnImg s)) (stations (spnImg s)) g s (decodeState s g all) := by
  unfold decodeState
  split
  · exact .refl ..
  · dsimp only
    generalize inMap (spnImg s) = es
    generalize stations (spnImg s) = st
    refine forEach_induction_mem (P := decoded es st g s) _ (.refl ..) fun t k hk ht => ht.trans ?_
    have hmem := (List.mem_filter.mp hk).2
    cases he : es[k]? with
    | none => exact .refl ..
    | some e =>
      rw [he] at hmem
      have hg : st.getD e.station 4096 = g := by simpa using hmem
      exact ((decoded_ite _ (decoded_error ..)).trans (decoded_ite _ (decoded_error ..))).trans (decoded_staged _ _ he hg)

theorem gooseDecode_next {s : State} {m : Nat × List Byte} {l : List (Nat × List Byte)} (hu : isUp s .rt = true)
    (h : s.spn.inbox = m :: l) : gooseDecode s = decodeState { s with spn := { s.spn with inbox := l } } m.1 m.2 := by
  unfold gooseDecode
  rw [h]
  exact if_neg (by simp [isDown_of_up hu])

/-- Settles O49: the phases by their guard; what a phase leaves is read off its last state. -/
theorem spindleEvents : Obligations.SpindleEvents := by
  intro s
  refine ⟨fun h => ?_, fun hon hr => ⟨fun hc => ?_, fun hc => ⟨?_, ?_, ?_⟩, fun hc => ⟨?_, ?_, spnWatchdog_fault hon hr hc⟩⟩,
    fun h => ?_, fun m l hu h => ?_⟩
  · have hi : inputPhase s = s := if_pos (by rcases h with h | h <;> simp [h])
    have ho : outputPhase s = s := if_pos (by rcases h with h | h <;> simp [h])
    have hw : spnWatchdog s = s := if_pos (by rcases h with h | h <;> simp [h])
    refine ⟨row_alone (f := fun s => inputPhase s) rfl hi, row_after (f := fun s => outputBoundary s) rfl ?_,
      row_after (f := fun s => spnWatchdog s) rfl hw⟩
    simp [outputBoundary, ho]
  · exact row_alone (f := fun s => inputPhase s) rfl (if_pos (by simp [hc]))
  · have ho : outputPhase s = s := if_pos (by simp [hc])
    exact row_after (f := fun s => outputBoundary s) rfl (by simp [outputBoundary, ho])
  · exact row_after (f := fun s => spnWatchdog s) rfl (if_pos (by simp [hc]))
  · obtain ⟨hf, hd, hs, hreg⟩ := cycleBegun_parts s
    obtain ⟨d, ht⟩ := inputPhase_begins hon hr hc
    refine ⟨_, row_alone (f := fun s => inputPhase s) rfl ht, rfl, rfl, rfl, rfl, rfl, rfl, ?_, hf, hd, hs⟩
    have hw := reg_setReg_same (cycleBegun s) .spn 0 0x8C ((reg (cycleBegun s) .spn 0 0x8C + 1) % 2 ^ 32) rfl
    rw [Nat.mod_mod, hreg] at hw
    rw [← hw]
    dsimp only
    rw [hreg]
    exact reg_congr .spn 0 0x8C rfl
  · refine row_after (f := fun s => outputBoundary s) rfl ?_
    cases ho : (outputPhase s).spn.inCycle <;> simp [outputBoundary, hc, ho]
  · exact row_after (f := fun s => spnWatchdog s) rfl rfl
  · refine row_alone (f := fun s => gooseDecode s) rfl ?_
    unfold gooseDecode
    rcases h with h | h
    · cases s.spn.inbox with
      | nil => rfl
      | cons m l => exact if_pos (isDown_of_not_up h)
    · rw [h]
  · have hd := gooseDecode_next hu h
    obtain ⟨hi, hdata, hdec, hst⟩ := decoded_decodeState { s with spn := { s.spn with inbox := l } } m.1 m.2
    refine ⟨_, row_alone (f := fun s => gooseDecode s) rfl hd, hi, hdata, hdec, fun hc => ?_, hst⟩
    exact if_pos (by simp [hc])

end Sys2Proof.Machine

/-!
A save of the energy unit whose accumulators overrun their place in the image (R196). The obligation O45.
-/

namespace Sys2Proof.Machine

/-- A meter that holds 2800 full accumulators in place of its ten: its record is longer than a slot. -/
def overlongMeter : Meter := { Meter.new with acc := List.replicate 2800 (2 ^ 96 - 1) }

/-- A running module with such a meter in place of meter 0. -/
def overlongModule : State := { runningModule with nrg := { runningModule.nrg with meters := [(0, overlongMeter)] } }

/-- The record of the meter begins with the bytes of its accumulators, all of them ones. -/
theorem meterBytes_overlong :
    ∃ l, meterBytes overlongModule 0 = List.replicate 33600 0xFF ++ l := by
  have hacc : (overlongMeter.acc.map accBytes).flatten = List.replicate 33600 0xFF := by
    have hone : accBytes (2 ^ 96 - 1) = List.replicate 12 0xFF := by decide
    rw [overlongMeter, List.map_replicate, hone, List.flatten_replicate_replicate]
  refine ⟨le 4 overlongMeter.miss ++ le 4 (mtF overlongModule 0 0 1 1 + 2 * mtF overlongModule 0 0 0 1), ?_⟩
  unfold meterBytes
  rw [show mtOf overlongModule 0 = overlongMeter from rfl]
  dsimp only
  rw [hacc, List.append_assoc]

theorem saveMeters_overlong : ∃ l, saveMeters overlongModule = List.replicate 33600 0xFF ++ l := by
  obtain ⟨l, h⟩ := meterBytes_overlong
  unfold saveMeters
  rw [show List.range 67 = 0 :: (List.range 66).map Nat.succ from List.range_succ_eq_map, List.map_cons, List.flatten_cons, h,
    List.append_assoc]
  exact ⟨_, rfl⟩

/-- Meters that take more bytes than a slot has behind its header go on behind the slot. -/
theorem rdByte_energySave_behind {s : State} (r : Nat) (hv : s.fuse.variant ≠ .s) (hm : isDown s .memory = false)
    (hl : (labelBytes s.nrg.lastLabel).length = 16) (hlong : 32704 < (saveMeters s).length) :
    rdByte (energySave s r) (slotAddr (nextSlot s) + 0x8000) = (saveMeters s).getD 32704 0 := by
  have hhead : (saveHead s r ++ le 4 (crc32 (saveHead s r ++ saveMeters s))).length = 64 := by
    simp [saveHead, hl]
  rw [energySave_eq r hv hm]
  refine (rdByte_wrBytes _ _ _ _).trans ?_
  rw [if_neg (by rw [hhead]; omega)]
  refine (rdByte_wrBytes _ _ _ _).trans ?_
  rw [if_pos (by omega)]
  congr 1
  omega

theorem energySave_overlong : rdByte (energySave overlongModule 0) (slotAddr 0 + 0x8000) = 0xFF := by
  obtain ⟨l, h⟩ := saveMeters_overlong
  have hlong : 32704 < (saveMeters overlongModule).length := by
    rw [h, List.length_append, List.length_replicate]
    omega
  refine (rdByte_energySave_behind 0 (by decide) (by decide) rfl hlong).trans ?_
  rw [h, List.getD_append _ _ _ _ (by rw [List.length_replicate]; omega)]
  rw [List.getD_eq_getElem?_getD, List.getElem?_replicate, if_pos (by omega)]
  rfl

/-- Refutes O45: the save of a module whose meter 0 holds more accumulators than its record has room for touches a byte outside
its slot. -/
theorem not_energyEvents : ¬ Obligations.EnergyEvents := by
  intro h
  obtain ⟨-, -, -, hsave, -, -⟩ := h overlongModule
  obtain ⟨hup, -⟩ := hsave (by decide) 0 (by decide)
  obtain ⟨-, -, -, hout⟩ := hup (by decide)
  have hsame : rdByte (energySave overlongModule 0) (slotAddr 0 + 0x8000) = rdByte overlongModule (slotAddr 0 + 0x8000) :=
    hout _ (.inr le_rfl)
  rw [energySave_overlong] at hsame
  exact absurd hsame (by decide)

end Sys2Proof.Machine

/-!
Gouge: firings, records opened and closed, rearming (R224, R227 to R232, R237). The obligation O47.
-/

namespace Sys2Proof.Machine

/-! ### A firing at the controller -/

theorem insertFiring_length (l : List Firing) (f : Firing) : (insertFiring l f).length = l.length + 1 := by
  induction l with
  | nil => rfl
  | cons g l ih =>
    unfold insertFiring
    split
    · rfl
    · rw [List.length_cons, ih, List.length_cons]

/-- A firing in RECORDING that finds room in the list: one more of it, the end of the record no earlier. -/
theorem listFiring_room {s : State} {r : GRec} (f : Firing) (h : r.firings.length < 16) :
    ∃ q, (listFiring s r f).gge = { s.gge with opened := some q } ∧ q.firings.length = r.firings.length + 1 ∧ q.num = r.num ∧
      r.last ≤ q.last ∧ (flag s .gge 0x40 2 = false → q.last = r.last) := by
  have hlist (g : Firing) : listOf r.firings g = (insertFiring r.firings g, false) := if_pos h
  unfold listFiring
  simp only [hlist, Bool.false_eq_true, if_false]
  refine ⟨_, rfl, insertFiring_length .., rfl, ?_, fun hf => ?_⟩
  · dsimp only
    split
    next hm =>
      rw [Bool.and_eq_true, decide_eq_true_eq] at hm
      exact hm.2.le
    next => exact le_rfl
  · simp [hf]

/-- A firing in REARM is counted for the next record. -/
theorem suppressFiring_parts (s : State) (u : Nat) :
    (suppressFiring s u).gge.suppSince = s.gge.suppSince + 1 ∧ (suppressFiring s u).gge.state = s.gge.state ∧
      (suppressFiring s u).gge.recs = s.gge.recs := by
  unfold suppressFiring
  extract_lets s1 s2 g s3 x
  have h2 : s2.gge = s.gge := by
    unfold s2 s1
    split <;> simp [cnt]
  have h3 : s3.gge = { s.gge with suppSince := s.gge.suppSince + 1 } := by
    unfold s3 g
    rw [h2]
  split
  · rw [h3]
    exact ⟨rfl, rfl, rfl⟩
  · rw [evt_gge]
    exact ⟨show s3.gge.suppSince = _ by rw [h3], show s3.gge.state = _ by rw [h3], show s3.gge.recs = _ by rw [h3]⟩

/-! ### The transfer of a record -/

theorem copyRows_gge (n : Nat) (s : State) (r : GRec) (k : Int) : (copyRows n s r k).1.gge = s.gge := by
  induction n generalizing s r with
  | zero => rfl
  | succ n ih =>
    unfold copyRows
    dsimp only
    split
    · rfl
    · rw [ih]
      split <;> rfl

theorem copyFrames_gge (n : Nat) (s : State) (r : GRec) (k : Nat) : (copyFrames n s r k).1.gge = s.gge := by
  fun_induction copyFrames n s r k
  case case1 => rfl
  case case2 => rfl
  case case3 s r n h at0 s1 r1 s2 ih =>
    rw [ih]
    simp only [s2, s1, apply_ite State.gge, openEntry, wrBytes_gge, ite_self]

/-- The transfer moves the open record's counts alone. -/
theorem ggeTransfer_cases (s : State) : ggeTransfer s = s ∨ ∃ t q, t.gge = s.gge ∧ ggeTransfer s = setRec t (some q) := by
  unfold ggeTransfer
  split
  next => exact .inl rfl
  next r _ =>
    split
    next => exact .inl rfl
    next =>
      have hrows := copyRows_gge 60000 s r (twTaken s)
      generalize copyRows 60000 s r (twTaken s) = a at hrows ⊢
      obtain ⟨t, q⟩ := a
      dsimp only at hrows ⊢
      have hframes := copyFrames_gge 6144 t q (min (((t.gge.frames.head?.map fun f => f.label.n).getD 0) - 2048) q.last)
      generalize copyFrames 6144 t q (min (((t.gge.frames.head?.map fun f => f.label.n).getD 0) - 2048) q.last) = b at hframes ⊢
      obtain ⟨u, q'⟩ := b
      exact .inr ⟨u, q', hframes.trans hrows, rfl⟩

theorem ggeTransfer_gge (s : State) : ∃ o, (ggeTransfer s).gge = { s.gge with opened := o } := by
  rcases ggeTransfer_cases s with h | ⟨t, q, ht, h⟩
  · exact ⟨s.gge.opened, by rw [h]⟩
  · exact ⟨some q, by rw [h, setRec, ht]⟩

/-- A record that finds its place: the state, its entry, and nothing suppressed before it any more. -/
theorem openRecord_placed {s : State} {f : Firing} {g : GFrame} {off : Nat} (hg : grainAt s f.instant = some g)
    (hk : flag s .gge 0x40 1 = false)
    (hp : storePlace s (reservePages s (min (reg s .gge 0 0x44) (g.label.n - s.gge.histFrom))) = some off) :
    (openRecord s f).gge.state = .recording ∧ (openRecord s f).gge.nextNum = nextRec s.gge.nextNum ∧
      (openRecord s f).gge.recs = s.gge.recs ++
        [{ num := s.gge.nextNum, off := off, recording := true,
           pages := reservePages s (min (reg s .gge 0 0x44) (g.label.n - s.gge.histFrom)) }] ∧
      (openRecord s f).gge.suppSince = 0 := by
  unfold openRecord
  rw [hg]
  dsimp only
  rw [hk, if_neg (by decide)]
  dsimp only
  rw [hp]
  dsimp only
  obtain ⟨o, ho⟩ := ggeTransfer_gge (setRec (irq (cnt _ .gge 0 0xA0) .gge 1) (some _))
  rw [ho]
  split <;> simp [setRec, openEntry, cnt]

theorem finishRecord_opened (s : State) (r : GRec) (inc : Bool) : (finishRecord s r inc).gge.opened = none := by
  have latched (t : State) : (ggeLatch t).gge.opened = t.gge.opened := by
    unfold ggeLatch
    dsimp only
    split <;> rfl
  unfold finishRecord
  extract_lets base from0 meas rows fl flags len pages s1 s2 s3 g s4 s5
  have h5 : s5.gge = s4.gge := (evt_gge ..).trans (irq_gge ..)
  rw [latched, h5]

/-! ### The close of a record -/

theorem recordClose_none {s : State} (h : (ggeFill s).gge.opened = none) : recordClose s = ggeFill s := by
  rw [recordClose]
  split
  next => rfl
  next q hq => rw [h] at hq; cases hq

theorem recordClose_open {s : State} {r : GRec} (h : (ggeFill s).gge.opened = some r)
    (hc : ggeOn (ggeFill s) = false ∨ recComplete (ggeFill s) r = false) : recordClose s = ggeFill s := by
  rw [recordClose]
  split
  next => rfl
  next q hq =>
    obtain rfl : r = q := Option.some.inj (h.symm.trans hq)
    rw [if_pos (by rcases hc with hc | hc <;> simp [hc])]

/-- A complete record: its rows and frames copied to the end, then closed. -/
theorem recordClose_done {s : State} {r : GRec} (h : (ggeFill s).gge.opened = some r) (hon : ggeOn (ggeFill s) = true)
    (hc : recComplete (ggeFill s) r = true) :
    recordClose s =
      let a := copyRows 60000 (ggeFill s) r r.twLast
      let b := copyFrames 600000 a.1 a.2 a.2.last
      let u := finishRecord b.1 b.2 false
      { u with gge := { u.gge with state := .rearm } } := by
  rw [recordClose]
  generalize copyRows 60000 = rows
  generalize copyFrames 600000 = frames
  split
  next hq => rw [h] at hq; cases hq
  next q hq =>
    obtain rfl : r = q := Option.some.inj (h.symm.trans hq)
    rw [hon, hc]
    generalize rows (ggeFill s) r r.twLast = a
    obtain ⟨t, q⟩ := a
    generalize finishRecord = fin
    dsimp only
    generalize frames t q q.last = b
    rfl

/-! ### The units -/

theorem triggerUnit_on {s : State} (u : Nat) (h : ggeOn s = true) :
    triggerUnit s u =
      let t := ggeFill s
      let c0 := trigCfg t u
      let c := if c0.src = 1 ∧ t.fuse.variant = .s then { c0 with cond := 0 } else c0
      forEach (trigSamples t c (tuOf t u).cursor) t fun s e =>
        let r := unitSample c (tuOf s u) e.x
        let v := if c.src = 1 ∧ c.cond = 5 then e.det else r.2
        let fires := v.isSome && s.gge.state != .disarmed
        let x := { r.1 with cursor := e.no, fireCnt := if fires then (r.1.fireCnt + 1) % 65536 else r.1.fireCnt }
        let s := markFrame (setTu s u x) u e.grain (x.inState && e.x.isSome) fires
        match v with
        | some v => firingArrives s
            { unit := u, cond := c.cond, src := c.src, instant := e.instant, stamp := e.stamp, value := v, moved := false,
              same := false }
        | none => s := by
  unfold triggerUnit
  rw [if_neg (by simp [h])]
  simp only [Bool.and_eq_true, decide_eq_true_eq, beq_iff_eq] <;> rfl

/-- Settles O47: what a firing does by the state it finds; opening and closing by what they find room for. -/
theorem recorderEvents : Obligations.RecorderEvents := by
  intro s
  refine ⟨fun u => ⟨fun h => ?_, fun h => ?_⟩, fun f => ⟨fun h => ?_, fun h => ?_, fun r h ho hl => ?_, fun h => ?_, fun h => ?_⟩,
    fun hon hu => ⟨fun h => ?_, fun f l hl hs => ?_⟩, fun f g hg hk => ⟨fun hp => ?_, fun off hp => openRecord_placed hg hk hp⟩,
    fun hu => ⟨fun ho => ?_, fun r ho => ⟨fun h => ?_, fun hon hc => ⟨?_, finishRecord_opened ..⟩⟩⟩, ?_⟩
  · exact row_alone (f := fun s => triggerUnit s u.val) rfl (if_pos (by simp [h]))
  · exact row_alone (f := fun s => triggerUnit s u.val) rfl (triggerUnit_on u.val h)
  · simp only [firingArrives, h]
  · simp only [firingArrives, h]
  · have he : firingArrives s f = listFiring s r f := by simp only [firingArrives, h, ho]
    rw [he]
    exact listFiring_room f hl
  · have he : firingArrives s f = suppressFiring s f.unit := by simp only [firingArrives, h]
    obtain ⟨hn, hs, hr⟩ := suppressFiring_parts s f.unit
    rw [he]
    exact ⟨hn, hs.trans h, hr⟩
  · have he : firingArrives s f = refuseFiring s := by simp only [firingArrives, h]
    rw [he]
    exact if_pos (by simp [h, cnt])
  · refine row_alone (f := fun s => if ggeOn s && isUp s .memory then recordOpen s else s) rfl ((if_pos (by simp [hon, hu])).trans ?_)
    unfold recordOpen
    split
    next ha hs => rcases h with h | h <;> simp_all
    next => rfl
  · refine row_alone (f := fun s => if ggeOn s && isUp s .memory then recordOpen s else s) rfl ((if_pos (by simp [hon, hu])).trans ?_)
    unfold recordOpen
    rw [hl, hs]
  · unfold openRecord
    rw [hg]
    dsimp only
    rw [hk, if_neg (by decide)]
    dsimp only
    rw [hp]
  · exact row_alone (f := fun s => if isUp s .memory then recordClose s else s) rfl ((if_pos hu).trans (recordClose_none ho))
  · exact row_alone (f := fun s => if isUp s .memory then recordClose s else s) rfl ((if_pos hu).trans (recordClose_open ho h))
  · exact row_alone (f := fun s => if isUp s .memory then recordClose s else s) rfl
      ((if_pos hu).trans (recordClose_done ho hon hc))
  · exact row_alone (f := fun s => rearmExpiry s) rfl rfl

end Sys2Proof.Machine

/-!
The PPS marks of the time core (R66). The obligation O36.
-/

namespace Sys2Proof.Machine

/-- Marking second 0 in a list whose only interval is the reversed (1, 0) extends that interval, to the empty (1, 1). -/
theorem ppsMarked_reversed : ppsMarked [(1, 0)] 0 = [(1, 1)] := rfl

/-- Refutes O36: the clause on marks asks the marked second to lie in an interval for every list of pairs, and a list whose last
pair is reversed, (1, 0), marks second 0 of the state of reset by the empty interval (1, 1). -/
theorem not_timeCoreEvents : ¬ Obligations.TimeCoreEvents := by
  intro h
  obtain ⟨-, -, -, -, -, -, hmarked, -⟩ := h.1 State.reset
  have hnow : nowSec State.reset = 0 := rfl
  have hm := hmarked [(1, 0)]
  rw [hnow, ppsMarked_reversed] at hm
  exact absurd hm (by decide)

end Sys2Proof.Machine

/-!
What the writes into a slice's memory (rings, interrupts) leave as it was.
-/

namespace Sys2Proof.Machine

/-- Two states that differ in the slices, the registers, the bytes written in this step, what went out, the log and the counts of
crossings alone. -/
def sliceOnly (s t : State) : Prop := ∃ r w o c d e, t = { s with regs := r, wr := w, out := o, slc := c, drops := d, evr := e }

theorem sliceOnly.refl (s : State) : sliceOnly s s := ⟨s.regs, s.wr, s.out, s.slc, s.drops, s.evr, rfl⟩

theorem sliceOnly.trans {s t u : State} (h : sliceOnly s t) (g : sliceOnly t u) : sliceOnly s u := by
  obtain ⟨_, _, _, _, _, _, rfl⟩ := h
  obtain ⟨_, _, _, _, _, _, rfl⟩ := g
  exact ⟨_, _, _, _, _, _, rfl⟩

theorem sliceOnly_setReg (s : State) (b : Blk) (i o v : Nat) : sliceOnly s (setReg s b i o v) := ⟨_, s.wr, s.out, s.slc, s.drops, s.evr, rfl⟩

theorem sliceOnly_wrBytes (s : State) (a : Nat) (bs : List Byte) : sliceOnly s (wrBytes s a bs) := ⟨s.regs, _, s.out, s.slc, s.drops, s.evr, rfl⟩

theorem sliceOnly_emit (s : State) (o : Out) : sliceOnly s (emit s o) := ⟨s.regs, s.wr, _, s.slc, s.drops, s.evr, rfl⟩

theorem sliceOnly_slc (s : State) (c : Slc) : sliceOnly s { s with slc := c } := ⟨s.regs, s.wr, s.out, c, s.drops, s.evr, rfl⟩

theorem sliceOnly_issued (s : State) (i k : Nat) : sliceOnly s (issued s i k) := sliceOnly_slc ..

theorem sliceOnly_ioPush (s : State) (dev rec0 iova v : Nat) : sliceOnly s (ioPush s dev rec0 iova v).1 := by
  fun_cases ioPush s dev rec0 iova v
  case case1 => exact .refl s
  case case2 => exact sliceOnly_setReg ..
  case case3 => exact sliceOnly_setReg ..
  case case4 => exact ((sliceOnly_wrBytes ..).trans (sliceOnly_setReg ..)).trans (sliceOnly_slc ..)

theorem sliceOnly_ioMsi (s : State) (n : Nat) : sliceOnly s (ioMsi s n).1 := by
  fun_cases ioMsi s n
  case case1 => exact sliceOnly_slc ..
  case case2 => exact (sliceOnly_wrBytes ..).trans (sliceOnly_emit ..)
  case case3 => exact sliceOnly_ioPush ..

theorem sliceOnly_iommuFault (s : State) (dev : Nat) (pid : Option Nat) (iova : Nat) (w : Bool) (c v : Nat) :
    sliceOnly s (iommuFault s dev pid iova w c v) := by
  have push (rec0 : Nat) := sliceOnly_ioPush s dev rec0 iova v
  have faultIrq (t : State) : sliceOnly t (ioFaultIrq t) := by
    unfold ioFaultIrq
    split
    · exact (sliceOnly_setReg ..).trans (sliceOnly_ioMsi ..)
    · exact .refl t
  unfold iommuFault
  dsimp only
  split
  next t e => exact .trans (by rw [eq_fst e]; exact push _) (faultIrq t)
  next t e => rw [eq_fst e]; exact push _

theorem sliceOnly_slFault (s : State) (i addr : Nat) (w : Bool) (x : Trans) : sliceOnly s (slFault s i addr w x) := by
  match x with
  | .fault c v => exact sliceOnly_iommuFault ..
  | .at p g => exact .refl s
  | .ended => exact .refl s

theorem sliceOnly_logDirty (s : State) (i addr : Nat) : sliceOnly s (logDirty s i addr) := by
  fun_cases logDirty s i addr
  case case2 => exact (sliceOnly_wrBytes ..).trans (sliceOnly_issued ..)
  case case4 => exact sliceOnly_setReg ..
  all_goals exact .refl s

theorem sliceOnly_dmaWrite (s : State) (i addr : Nat) (bs : List Byte) : sliceOnly s (dmaWrite s i addr bs).1 := by
  unfold dmaWrite
  refine List.foldlRecOn (motive := fun r : State × Bool => sliceOnly s r.1) _ _ (.refl s) fun r h c _ => ?_
  split
  · exact h
  · split
    · exact h.trans (((sliceOnly_wrBytes ..).trans (sliceOnly_issued ..)).trans (sliceOnly_logDirty ..))
    · exact h.trans (sliceOnly_slFault ..)

theorem sliceOnly_evt (s : State) (c v i a b : Nat) : sliceOnly s (evt s c v i a b) := by
  obtain ⟨e, r, w, h⟩ := logOnly_evt s c v i a b
  exact ⟨r, w, s.out, s.slc, s.drops, e, h⟩

theorem sliceOnly_irqI (s : State) (b : Blk) (i n : Nat) : sliceOnly s (irqI s b i n) := by
  unfold irqI
  split
  · exact sliceOnly_setReg ..
  · exact .refl s

theorem sliceOnly_swIrq (s : State) (i n : Nat) : sliceOnly s (swIrq s i n) := by
  have written (a : Nat) (bs : List Byte) := sliceOnly_dmaWrite (irqI s .sw i n) i a bs
  unfold swIrq
  dsimp only
  split
  · exact sliceOnly_irqI ..
  · split
    next t e => exact ((sliceOnly_irqI ..).trans (by rw [eq_fst e]; exact written _ _)).trans (sliceOnly_emit t _)
    next t e => exact (sliceOnly_irqI ..).trans (by rw [eq_fst e]; exact written _ _)

theorem sliceOnly_ringWrite (s : State) (b : Blk) (i base log2n stride rep tail : Nat) (r : Ring) (entry : Nat → List Byte) :
    sliceOnly s (ringWrite s b i base log2n stride rep tail r entry).1 := by
  have w {t : State} (h : sliceOnly s t) (a : Nat) (bs : List Byte) : sliceOnly s (dmaWrite t i a bs).1 :=
    h.trans (sliceOnly_dmaWrite ..)
  fun_cases ringWrite s b i base log2n stride rep tail r entry
  case case1 => exact ⟨s.regs, s.wr, s.out, s.slc, _, s.evr, rfl⟩
  case case2 t1 e1 =>
    rw [eq_fst e1]
    exact w (.refl s) _ _
  case case3 t1 e1 t2 e2 =>
    rw [eq_fst e2, eq_fst e1]
    exact w (w (.refl s) _ _) _ _
  case case4 t1 e1 t2 e2 t3 e3 =>
    rw [eq_fst e3, eq_fst e2, eq_fst e1]
    exact w (w (w (.refl s) _ _) _ _) _ _
  case case5 t1 e1 t2 e2 t3 e3 t4 e4 =>
    rw [eq_fst e4, eq_fst e3, eq_fst e2, eq_fst e1]
    exact w (w (w (w (.refl s) _ _) _ _) _ _) _ _
  case case6 t1 e1 t2 e2 t3 e3 t4 e4 =>
    rw [eq_fst e4, eq_fst e3, eq_fst e2, eq_fst e1]
    exact w (w (w (w (.refl s) _ _) _ _) _ _) _ _

theorem sliceOnly.tim {s t : State} (h : sliceOnly s t) : t.tim = s.tim := by
  obtain ⟨_, _, _, _, _, _, rfl⟩ := h
  rfl

theorem sliceOnly.twv {s t : State} (h : sliceOnly s t) : t.twv = s.twv := by
  obtain ⟨_, _, _, _, _, _, rfl⟩ := h
  rfl

end Sys2Proof.Machine

/-!
A step of the timebase (R20): what changes and what stays. The obligation O35.
-/

namespace Sys2Proof.Machine

/-! ### Writes into slices leave the timebase -/

@[simp] theorem swIrq_tim (s : State) (i n : Nat) : (swIrq s i n).tim = s.tim := (sliceOnly_swIrq ..).tim

@[simp] theorem ringWrite_tim (s : State) (b : Blk) (i base log2n stride rep tail : Nat) (r : Ring) (entry : Nat → List Byte) :
    (ringWrite s b i base log2n stride rep tail r entry).1.tim = s.tim := (sliceOnly_ringWrite ..).tim

@[simp] theorem sendOwn_tim (s : State) (ip : Nat) (f : Frame) (q : Nat) : (sendOwn s ip f q).tim = s.tim :=
  (switchOnly_sendOwn s ip f q).tim

@[simp] theorem loadSym_tim (s : State) (n u : Nat) : (loadSym s n u).1.tim = s.tim := by
  obtain ⟨c, e, r, w, h⟩ := keyCheck_loadSym s n u
  rw [h]

/-! ### The record that is open -/

theorem copyRows_tim (n : Nat) (s : State) (r : GRec) (k : Int) : (copyRows n s r k).1.tim = s.tim := by
  fun_induction copyRows n s r k
  case case1 => rfl
  case case2 => rfl
  case case3 s r k m hm w len a s1 r1 s2 ih =>
    rw [ih]
    simp only [s2, s1, apply_ite State.tim, openEntry, wrBytes_tim, ite_self]

theorem ggeStep_tim (s : State) : (ggeStep s).tim = s.tim := by
  unfold ggeStep
  split
  next r _ =>
    have hrows := copyRows_tim 60000 s r (max (twTaken s) (min (s.gge.twNewest : Int) r.twLast))
    generalize copyRows 60000 s r (max (twTaken s) (min (s.gge.twNewest : Int) r.twLast)) = a at hrows ⊢
    obtain ⟨t, q⟩ := a
    split
    · rfl
    · dsimp only
      split <;> exact hrows
  next => rfl

/-! ### The aligned sets -/

theorem setToSlice_tim (s : State) (i : Nat) (a : ASet) (ns : Nat) (w : Bool) : (setToSlice s i a ns w).tim = s.tim := by
  unfold setToSlice ringGated ringFault
  dsimp only
  simp only [apply_ite State.tim, cnt_tim, evt_tim, swIrq_tim, irq_tim, ringWrite_tim, ite_self]

theorem releaseSet_tim (s : State) (o : OpenSet) (w : Bool) : (releaseSet s o w).tim = s.tim := by
  unfold releaseSet
  dsimp only
  rw [forEach_keeps State.tim _ _ fun t i => setToSlice_tim t i _ _ _]
  simp only [apply_ite State.tim, cnt_tim, irq_tim, crossDrop, ite_self]

theorem releaseReady_tim (n : Nat) (s : State) : (releaseReady n s).tim = s.tim := by
  fun_induction releaseReady n s
  case case1 => rfl
  case case2 => rfl
  case case3 n s o l _ h ih => rw [ih, releaseSet_tim]
  case case4 => rfl

theorem svsStep_tim (s : State) : (svsStep s).tim = s.tim := releaseReady_tim ..

/-! ### The travelling waves -/

theorem takeDetection_tim (s : State) (c m : Nat) : (takeDetection s c m).tim = s.tim := by
  fun_cases takeDetection s c m
  case case3 => exact (irq_tim ..).trans rfl
  all_goals rfl

theorem allDetections_tim (n : Nat) (s : State) (c : Nat) : (allDetections n s c).tim = s.tim := by
  fun_induction allDetections n s c
  case case1 => rfl
  case case2 => rfl
  case case3 n s c h ih =>
    rw [ih]
    unfold wavefrontDetection
    dsimp only
    split
    · rfl
    · exact takeDetection_tim ..

theorem twRingFault_tim (s : State) (i : Nat) : (twRingFault s i).tim = s.tim := by simp [twRingFault]

theorem reflectionRecord_tim (s : State) (n : Nat) : (reflectionRecord s n).tim = s.tim := by
  unfold reflectionRecord
  dsimp only
  split
  · rfl
  split
  · rfl
  · refine forEach_keeps State.tim _ _ fun t c => forEach_keeps State.tim _ _ fun t i => ?_
    simp only [apply_ite State.tim, ringGated, cnt_tim, twRingFault_tim, ringWrite_tim, ite_self]

theorem eventRings_tim (s : State) (n k fl : Nat) (t : Stamp) (p : List Byte) : (eventRings s n k fl t p).tim = s.tim := by
  unfold eventRings
  refine forEach_keeps State.tim _ _ fun t i => ?_
  dsimp only
  simp only [apply_ite State.tim, ringGated, cnt_tim, twRingFault_tim, ringWrite_tim, ite_self]

theorem eventPayload_tim (s : State) (n : Nat) (e : TwEvent) : (eventPayload s n e).1.tim = s.tim := by
  unfold eventPayload
  dsimp only
  split
  · rfl
  · split
    next h => rw [eq_fst h, loadSym_tim]
    next h => rw [eq_fst h, loadSym_tim]

theorem sendReport_tim (s : State) (cfg : List Nat) (p : List Byte) : (sendReport s cfg p).tim = s.tim := by
  simp [sendReport]

theorem eventClose_tim (s : State) (n : Nat) : (eventClose s n).tim = s.tim := by
  unfold eventClose
  dsimp only
  split
  · rfl
  next e _ =>
    split
    · rfl
    · simp only [apply_ite State.tim, sendReport_tim, setLn_tim, eventRings_tim, eventPayload_tim, irq_tim, cnt_tim, ite_self]

theorem twvStep_tim (s : State) : (twvStep s).tim = s.tim := by
  unfold twvStep
  extract_lets s1 s2
  have h1 : s1.tim = s.tim := forEach_keeps State.tim (List.range 24) s fun t c => allDetections_tim (twOf t c).det.length t c
  have h2 : s2.tim = s1.tim := by
    refine forEach_keeps State.tim _ _ fun t n => ?_
    split
    · split
      · rfl
      · exact (reflectionRecord_tim ..).trans ((eventClose_tim ..).trans (setLn_tim ..))
    · rfl
  clear_value s2
  exact h2.trans h1

/-! ### The step -/

theorem pauseEnd_tim (s : State) : (pauseEnd s).tim = { s.tim with pause := none } := by
  unfold pauseEnd
  split
  next h => rw [← h]
  next =>
    dsimp only
    split <;> rfl

theorem pauseStart_tim (s : State) : ∃ p, (pauseStart s).tim = { s.tim with pause := p } := by
  unfold pauseStart
  split
  · exact ⟨_, rfl⟩
  · exact ⟨s.tim.pause, rfl⟩

theorem skipGrains_tim (s : State) (old new : Nat) (c : Bool) : ∃ g, (skipGrains s old new c).tim = { s.tim with gaps := g } := by
  fun_cases skipGrains s old new c
  case case1 => exact ⟨_, rfl⟩
  case case2 => exact ⟨s.tim.gaps, rfl⟩
  case case3 => exact ⟨_, cntBy_tim ..⟩
  case case4 => exact ⟨_, rfl⟩

theorem timeBroken_tim (s : State) (new : Nat) : (timeBroken s new).tim =
    { s.tim with
      time := new, epoch := (s.tim.epoch + 1) % 4,
      steps := (({ old := s.tim.time, new := new, epoch := s.tim.epoch, quality := s.tim.quality } : StepRec) :: s.tim.steps).take 8,
      stepSum := s.tim.stepSum + ((new : Int) - s.tim.time), stepFlag := true, rephase := true, ref10 := false,
      ppsFloor := topFrom new } := by
  unfold timeBroken
  dsimp only
  rw [twvStep_tim, svsStep_tim, ggeStep_tim]

theorem phxStepped_tim (s : State) : (phxStepped s).tim = s.tim := by
  unfold phxStepped
  split
  · rfl
  · rw [irq_tim]

/-- The timebase after a step: the grains left out and the pause apart, as the step says. -/
theorem timStep_tim (s : State) (new : Nat) : ∃ g p, (timStep s new).tim =
    { s.tim with
      time := new, epoch := (s.tim.epoch + 1) % 4,
      steps := (({ old := s.tim.time, new := new, epoch := s.tim.epoch, quality := s.tim.quality } : StepRec) :: s.tim.steps).take 8,
      stepSum := s.tim.stepSum + ((new : Int) - s.tim.time), stepFlag := true, rephase := true, ref10 := false,
      ppsFloor := topFrom new, gaps := g, pause := p } := by
  obtain ⟨g, hg⟩ := skipGrains_tim (timeBroken (pauseEnd s) new) s.tim.time new true
  obtain ⟨p, hp⟩ := pauseStart_tim (skipGrains (timeBroken (pauseEnd s) new) s.tim.time new true)
  refine ⟨g, p, ?_⟩
  unfold timStep
  dsimp only
  rw [evt_tim, phxStepped_tim, irq_tim, cnt_tim, hp, hg, timeBroken_tim, pauseEnd_tim]

theorem le_pastGaps (l : List (Nat × Nat)) (g : Nat) : g ≤ pastGaps l g := by
  induction l generalizing g with
  | nil => exact le_rfl
  | cons e l ih =>
    refine le_trans ?_ (ih _)
    split
    next h => exact h.2.le
    next => exact le_rfl

/-- Settles O35: every part of a step leaves the timebase but its own fields; no grain falls back, for gaps are only left upwards. -/
theorem timeSteps : Obligations.TimeSteps := by
  intro s new t
  obtain ⟨g, p, h⟩ := timStep_tim s new
  have ht : t.tim = _ := h
  rw [ht]
  refine ⟨rfl, rfl, rfl, rfl, rfl, rfl, rfl, rfl, rfl, rfl, rfl, rfl, rfl, rfl, fun a k hl => ?_⟩
  have hn : nextGrain t = pastGaps t.tim.gaps (a * 14400 + k + 1) := by
    have hlast : t.tim.lastGrain = some (a, k) := by rw [ht]; exact hl
    unfold nextGrain
    rw [hlast]
  rw [hn]
  exact le_pastGaps ..

end Sys2Proof.Machine

/-!
Travelling waves (R205, R207, R211, R212, R215, R217, R219). The obligation O46.
-/

namespace Sys2Proof.Machine

theorem lnOf_congr {s t : State} (h : t.twv.line = s.twv.line) (n : Nat) : lnOf t n = lnOf s n := by
  simp only [lnOf, h]

/-! ### The tap -/

theorem tapSample_idle {s : State} {c : Nat}
    (h : tapRuns s c = false ∨ s.tim.rephase = true ∨ (acOf s c).nextEdge ≤ 8 * (acOf s c).tapNext) : tapSample s c = s := by
  unfold tapSample
  exact if_pos (by rcases h with h | h | h <;> simp [h])

/-- A sample that is not valid, by the state of its channel. -/
theorem tapBad_eq (s : State) (a : AcqCh) (n w : Nat) : tapBad s a (8 * n) w =
    (bit w 12 || a.cfgFault || a.mdFault || s.acq.cal.isSome ||
      match a.change with
      | some g => decide (n < (g + 7) / 8 + 16)
      | none => true) := by
  unfold tapBad
  rw [Nat.mul_div_cancel_left n (by decide)] <;> rfl

theorem tapSample_taken {s : State} {c : Nat} (hr : tapRuns s c = true) (hp : s.tim.rephase = false)
    (he : 8 * (acOf s c).tapNext < (acOf s c).nextEdge) :
    let x := twOf s c
    let a := acOf s c
    let e := 8 * a.tapNext
    let m := tapNumber s e
    let tap := tapWord a e
    let bad := tapBad s a e tap
    let t := wrNum (setAc s c { a with tapNext := a.tapNext + 1 }) (tapAddr m c) 2 (tap + ofBit bad 13)
    let g := { t.gge with twNewest := m, twHistFrom := if t.gge.twFresh then m else t.gge.twHistFrom, twFresh := false }
    ∃ y : TwCh, tapSample s c = setTw { t with gge := g } c y ∧
      y.taken = x.taken + 1 ∧ y.next = m + 1 ∧ y.invalid = bad ∧ y.chg = a.change ∧ y.waves = x.waves ∧
      (y.recent.head?.map fun e => (e.sn, e.m, e.y, e.quality, e.epoch)) =
        some (x.taken + 1, m, if bad then none else some (tapValue s c tap), s.tim.quality, s.tim.epoch) := by
  intro x a e m tap bad t g
  unfold tapSample
  rw [if_neg (by simp [hr, hp, he])]
  exact ⟨_, rfl, rfl, rfl, rfl, rfl, rfl, rfl⟩

/-! ### The reflection window -/

theorem reflectionRecord_none {s : State} {n : Nat} (h : (lnOf s n).event = none) : reflectionRecord s n = s := by
  unfold reflectionRecord
  dsimp only
  rw [h]

theorem reflectionRecord_done {s : State} {n : Nat} {e : TwEvent} (h : (lnOf s n).event = some e) (hd : e.windowDone = true) :
    reflectionRecord s n = s := by
  unfold reflectionRecord
  dsimp only
  rw [h]
  exact if_pos hd

/-- The end of an open window: its records leave every line as it was, then the window of the line is done. -/
theorem reflectionRecord_open {s : State} {n : Nat} {e : TwEvent} (h : (lnOf s n).event = some e) (hd : e.windowDone = false) :
    ∃ u, u.twv.line = s.twv.line ∧
      reflectionRecord s n = setLn u n { lnOf u n with event := some { e with windowDone := true } } := by
  unfold reflectionRecord
  dsimp only
  rw [h]
  dsimp only
  rw [if_neg (by simp [hd])]
  refine ⟨_, ?_, rfl⟩
  refine forEach_keeps (fun t => t.twv.line) _ _ fun t c => forEach_keeps (fun t => t.twv.line) _ _ fun t i => ?_
  split
  · rfl
  split
  · rfl
  · have written (b : Blk) (base log2n stride rep tail : Nat) (r : Ring) (en : Nat → List Byte) :
        (ringWrite t b i base log2n stride rep tail r en).1.twv.line = t.twv.line :=
      congrArg Twv.line (sliceOnly_ringWrite ..).twv
    have faulted (t : State) : (twRingFault t i).twv = t.twv :=
      (((sliceOnly_irqI ..).trans (sliceOnly_swIrq ..)).trans (sliceOnly_evt ..)).twv
    split
    · rw [faulted]
      exact written ..
    · exact written ..

/-! ### Closing and repeating -/

theorem eventClose_none {s : State} {n : Nat} (h : (lnOf s n).event = none) : eventClose s n = s := by
  unfold eventClose
  rw [h]

theorem eventClose_reported {s : State} {n : Nat} {e : TwEvent} (h : (lnOf s n).event = some e) (hr : e.reported = true) :
    eventClose s n = s := by
  unfold eventClose
  rw [h]
  exact if_pos hr

theorem eventClose_due {s : State} {n : Nat} {e : TwEvent} (h : (lnOf s n).event = some e) (hr : e.reported = false) :
    eventClose s n =
      let r := eventPayload (irq (cnt s .twv 0 (tlO n 0x2C)) .twv 1) n e
      let t := setLn r.1 n { lnOf r.1 n with event := if e.rearmed then none else some { e with reported := true } }
      let u := eventRings t n 1 (ofBit (cw e.cfg 3 1 1 == 0) 1) (nowStamp t) r.2
      let left := cw e.cfg 3 2 2
      let c : TwCopies := { due := mono u + 1000000 * nsU, left := left, report := r.2, cfg := e.cfg }
      if cw e.cfg 3 0 1 = 0 then u
      else if left = 0 then sendReport u e.cfg r.2
      else sendReport (setLn u n { lnOf u n with copies := (lnOf u n).copies ++ [c] }) e.cfg r.2 := by
  unfold eventClose
  rw [h]
  dsimp only
  rw [if_neg (by simp [hr])]
  by_cases hk : cw e.cfg 3 2 2 = 0
  · simp only [hk, if_true]
  · simp only [hk, if_false]

/-- The copy that is due first is the one that the fold over the others keeps. -/
theorem foldl_due (r : List TwCopies) (c : TwCopies) (h : ∀ d ∈ r, c.due ≤ d.due) :
    r.foldl (fun a b => if b.due < a.due then b else a) c = c := by
  induction r with
  | nil => rfl
  | cons d r ih =>
    rw [List.foldl_cons, if_neg (Nat.not_lt.mpr (h d List.mem_cons_self))]
    exact ih fun d hd => h d (List.mem_cons_of_mem _ hd)

theorem reportRepeat_first {s : State} {n : Nat} {c : TwCopies} {r : List TwCopies} (h : (lnOf s n).copies = c :: r)
    (hd : ∀ d ∈ r, c.due ≤ d.due) :
    reportRepeat s n = sendReport (setLn s n { lnOf s n with copies := r ++ (if c.left ≤ 1 then []
      else [{ c with due := c.due + 1000000 * nsU, left := c.left - 1 }]) }) c.cfg c.report := by
  unfold reportRepeat
  dsimp only
  rw [h]
  dsimp only
  rw [foldl_due r c hd, List.erase_cons_head]

theorem lineRearm_done {s : State} {n : Nat} {e : TwEvent} (h : (lnOf s n).event = some e) (hd : e.windowDone = true) :
    lineRearm s n = setLn s n { lnOf s n with event := if e.reported then none else some { e with rearmed := true } } := by
  unfold lineRearm
  dsimp only
  rw [h]
  exact if_neg (by simp [hd])

theorem lineRearm_open {s : State} {n : Nat} {e : TwEvent} (h : (lnOf s n).event = some e) (hd : e.windowDone = false) :
    lineRearm s n = s := by
  unfold lineRearm
  dsimp only
  rw [h]
  exact if_pos (by simp [hd])

/-! ### Reports received -/

theorem reportReceive_other {s : State} {p : Nat} {f : Frame} {u : UdpPdu} (dt : Nat) (hu : f.pdu = .udp u)
    (h : classified s p f 0 = false ∨ u.dstPort.toNat ≠ fld s .twv 0x48 0 16) : reportReceive s p f dt = s := by
  unfold reportReceive
  by_cases hc : classified s p f 0 = true
  · rw [hu]
    dsimp only
    rw [if_pos (h.resolve_left (by simp [hc])), ite_self]
  · exact if_pos (by simp [hc])

theorem reportReceive_malformed {s : State} {p : Nat} {f : Frame} {u : UdpPdu} (dt : Nat) (hon : twvOn s = true)
    (hu : f.pdu = .udp u) (hc : classified s p f 0 = true) (hp : u.dstPort.toNat = fld s .twv 0x48 0 16)
    (hb : u.payload.length < 56 ∨ numAt u.payload 0 4 ≠ 0x52545754) :
    reportReceive s p f dt = reportRefused s ((List.range 8).find? fun n => (lineCfg s n).getD 5 0 == numAt u.payload 16 4) := by
  unfold reportReceive
  rw [if_neg (by simp [hon, hc]), hu]
  dsimp only
  rw [if_neg (by simp [hp])]
  split
  next h _ =>
    rcases hb with hb | hb
    · simp [Nat.not_le.mpr hb] at h
    · simp [hb] at h
  next => rfl

theorem reportReceive_wellFormed {s : State} {p k : Nat} {f : Frame} {u : UdpPdu} (dt : Nat) (hon : twvOn s = true)
    (hu : f.pdu = .udp u) (hc : classified s p f 0 = true) (hp : u.dstPort.toNat = fld s .twv 0x48 0 16)
    (hk : ((List.range 8).find? fun n => (lineCfg s n).getD 5 0 == numAt u.payload 16 4) = some k)
    (hlen : 56 ≤ u.payload.length) (hmagic : numAt u.payload 0 4 = 0x52545754) (hver : numAt u.payload 4 2 = 1)
    (hmin : 1 ≤ numAt u.payload 50 1) (hmax : numAt u.payload 50 1 ≤ 8) (hfield : numAt u.payload 6 2 = u.payload.length)
    (hplain : u.payload.length = 56 + 16 * numAt u.payload 50 1) (hauth : flag s .twv 0x48 16 = false) :
    let b := u.payload
    let pair := (numAt b 20 4, numAt b 24 4)
    let t := irq (cnt (setLn s k { lnOf s k with lastRx := some pair }) .twv 0 (tlO k 0x34)) .twv 3
    let fresh := eventRings t k 2 2 (rxStamp t p dt) b
    reportReceive s p f dt = match (lnOf s k).lastRx with
      | none => fresh
      | some (a, c) =>
        if (a, c) = pair then cnt s .twv 0 (tlO k 0x3C)
        else if a < pair.1 ∨ (a = pair.1 ∧ newer32 pair.2 c = true) then fresh
        else reportRefused s (some k) := by
  intro b pair t fresh
  have hform : (decide (56 ≤ u.payload.length) && numAt u.payload 0 4 == 0x52545754 && numAt u.payload 4 2 == 1 &&
      decide (1 ≤ numAt u.payload 50 1) && decide (numAt u.payload 50 1 ≤ 8) && numAt u.payload 6 2 == u.payload.length &&
      (numAt u.payload 6 2 == 56 + 16 * numAt u.payload 50 1 ||
        numAt u.payload 6 2 == 56 + 16 * numAt u.payload 50 1 + 32)) = true := by
    simp [hlen, hmagic, hver, hmin, hmax, hfield, ← hplain]
  have htag : (numAt u.payload 6 2 == 56 + 16 * numAt u.payload 50 1 + 32) = false := by simp [hfield, ← hplain]
  unfold reportReceive
  rw [if_neg (by simp [hon, hc]), hu]
  dsimp only
  rw [if_neg (by simp [hp]), hform, hk]
  dsimp only
  rw [htag, hauth]
  simp only [Bool.false_eq_true, if_false, Bool.not_false, Bool.not_true]
  change (if ((lnOf s k).lastRx == some pair) = true then _ else if _ then _ else fresh) = _
  cases hl : (lnOf s k).lastRx with
  | none => simp
  | some q =>
    obtain ⟨a, c⟩ := q
    refine if_congr (by simp) rfl ?_
    dsimp only
    rw [← ite_not]
    exact if_congr (by simp [pair, b, or_iff_not_imp_left]) rfl rfl

/-- The rows of a line whose block is on. -/
theorem row_twvOn {i : Instr} {g : State → State} {s t : State} (hi : exec i s = runOn (fun s => if twvOn s then g s else s) s)
    (hon : twvOn s = true) (hg : g s = t) : exec i s = .next (stepEnd s t) :=
  row_alone (f := fun s => if twvOn s then g s else s) hi ((if_pos hon).trans hg)

/-- Settles O46, block by block from the lemmas above. -/
theorem twaveEvents : Obligations.TwaveEvents := by
  intro s
  refine ⟨fun c => ⟨fun h => ?_, fun hr hp he => ?_⟩, fun c => ⟨fun h => ?_, fun m l hon h => ?_⟩,
    fun n hon => ⟨fun h => ⟨?_, ?_, ?_⟩, fun e h => ⟨fun hr => ?_, fun hr => ?_, fun hd => ⟨?_, ?_⟩, fun hd => ⟨?_, ?_⟩⟩,
      fun h => ?_, fun c r h hd => ?_⟩,
    fun p f u dt hon hu => ⟨fun h => ?_, fun hc hp => ⟨fun hb => ?_, ?_⟩⟩⟩
  · exact row_alone (f := fun s => tapSample s c.val) rfl (tapSample_idle h)
  · obtain ⟨y, hy, hrest⟩ := tapSample_taken hr hp he
    rw [tapBad_eq] at hy hrest
    exact ⟨y, row_alone (f := fun s => tapSample s c.val) rfl hy, hrest⟩
  · refine row_alone (f := fun s => if twvOn s then wavefrontDetection s c.val else s) rfl ?_
    unfold wavefrontDetection
    dsimp only
    rw [h, ite_self]
  · refine row_twvOn (g := fun s => wavefrontDetection s c.val) rfl hon ?_
    unfold wavefrontDetection
    dsimp only
    rw [h]
  · exact row_twvOn (g := fun s => eventClose s n.val) rfl hon (eventClose_none h)
  · exact row_twvOn (g := fun s => reflectionRecord s n.val) rfl hon (reflectionRecord_none h)
  · refine row_twvOn (g := fun s => lineRearm s n.val) rfl hon ?_
    unfold lineRearm
    dsimp only
    rw [h]
  · exact row_twvOn (g := fun s => eventClose s n.val) rfl hon (eventClose_reported h hr)
  · exact row_twvOn (g := fun s => eventClose s n.val) rfl hon (eventClose_due h hr)
  · exact row_twvOn (g := fun s => lineRearm s n.val) rfl hon (lineRearm_done h hd)
  · exact row_twvOn (g := fun s => reflectionRecord s n.val) rfl hon (reflectionRecord_done h hd)
  · exact row_twvOn (g := fun s => lineRearm s n.val) rfl hon (lineRearm_open h hd)
  · obtain ⟨u, hu, hw⟩ := reflectionRecord_open h hd
    refine ⟨_, row_twvOn (g := fun s => reflectionRecord s n.val) rfl hon hw, ?_, fun j hj => ?_⟩
    · rw [lnOf_setLn]
    · rw [lnOf_setLn_ne _ _ _ hj, lnOf_congr hu]
  · refine row_twvOn (g := fun s => reportRepeat s n.val) rfl hon ?_
    unfold reportRepeat
    dsimp only
    rw [h]
  · exact row_twvOn (g := fun s => reportRepeat s n.val) rfl hon (reportRepeat_first h hd)
  · exact row_alone (f := fun s => reportReceive s p.val f dt) rfl (reportReceive_other dt hu h)
  · exact row_alone (f := fun s => reportReceive s p.val f dt) rfl (reportReceive_malformed dt hon hu hc hp hb)
  · intro k hk hlen hmagic hver hmin hmax hfield hplain hauth
    exact row_alone (f := fun s => reportReceive s p.val f dt) rfl
      (reportReceive_wellFormed dt hon hu hc hp hk hlen hmagic hver hmin hmax hfield hplain hauth)

end Sys2Proof.Machine

/-!
Phasor sets, harmonic windows, coefficients and the publisher (R166, R177, R180, R182, R186). The obligation O44.
-/

namespace Sys2Proof.Machine

theorem sliceOnly.phx {s t : State} (h : sliceOnly s t) : t.phx = s.phx := by
  obtain ⟨_, _, _, _, _, _, rfl⟩ := h
  rfl

theorem sliceOnly_ringFault (s : State) (i : Nat) (b : Blk) (o n : Nat) : sliceOnly s (ringFault s i b o n) :=
  (((sliceOnly_setReg ..).trans (sliceOnly_irqI ..)).trans (sliceOnly_swIrq ..)).trans (sliceOnly_evt ..)

/-! ### Harmonic windows -/

theorem findK_delK_same {α : Type} (m : List (Nat × α)) (k : Nat) : findK (delK m k) k = none := by
  induction m with
  | nil => rfl
  | cons e m ih =>
    unfold delK
    rw [List.filter_cons]
    split
    next h =>
      rw [findK, if_neg (by simpa using h)]
      exact ih
    next => exact ih

/-- A complete window: taken from those that wait, its record in place with the window's bounds. -/
theorem harmonicWindow_phx {s : State} {e : Nat} {w : HWin} (h : findK s.phx.hdone e = some w) :
    ∃ r, (harmonicWindow s e).phx.hdone = delK s.phx.hdone e ∧ (harmonicWindow s e).phx.hres = putK s.phx.hres e r ∧
      r.first = w.first ∧ r.len = w.len := by
  unfold harmonicWindow
  split
  next h0 => rw [h] at h0; cases h0
  next w' hw =>
    obtain rfl : w = w' := Option.some.inj (h.symm.trans hw)
    extract_lets c sets vs miss fl vals lab src s1 s2 s3
    have h3 : (s3.phx.hdone, s3.phx.hres) = (delK s.phx.hdone e, putK s.phx.hres e
        { vals := vals, flags := BitVec.ofNat 16 fl, first := w.first, len := w.len }) := by
      unfold s3 s2
      split <;> rfl
    refine ⟨{ vals := vals, flags := BitVec.ofNat 16 fl, first := w.first, len := w.len }, and_assoc.mp ⟨Prod.mk.inj
      ((forEach_keeps (fun u : State => (u.phx.hdone, u.phx.hres)) (List.range 64) s3 fun t i => ?_).trans h3), rfl, rfl⟩⟩
    have written (base log2n stride rep tail : Nat) (r : Ring) (en : Nat → List Byte) :=
      (sliceOnly_ringWrite t .phx i base log2n stride rep tail r en).phx
    extract_lets cfg r f base
    split
    · rfl
    split
    · rfl
    · specialize written base (getBits cfg 1 4) 1152 1088 60 r (hrmEntry e c lab w (nCyc t) fl vals)
      generalize ringWrite t .phx i base (getBits cfg 1 4) 1152 1088 60 r (hrmEntry e c lab w (nCyc t) fl vals) = q at written ⊢
      obtain ⟨u, r'⟩ := q
      dsimp only at written ⊢
      split
      · rw [(sliceOnly_ringFault ..).phx, written]
      · rw [written]

/-! ### The publisher -/

theorem pubSnap_parts (u : State) (k : Nat) (on : Bool) :
    (pubOf (pubSnap u k on) k).state = (pubOf u k).state ∧
      (pubOf (pubSnap u k on) k).snaps.head? = some (u.tim.grains + 1, on, pubView u k) ∧
      ∀ e ∈ (pubOf (pubSnap u k on) k).snaps.tail, e ∈ (pubOf u k).snaps := by
  unfold pubSnap
  extract_lets p n kept live
  rw [pubOf_setPub]
  refine ⟨rfl, rfl, fun e he => ?_⟩
  have hk : e ∈ kept := by
    rcases List.mem_append.mp he with h | h
    · exact (List.takeWhile_sublist _).mem h
    · exact List.mem_of_mem_drop (List.mem_of_mem_take h)
  exact List.mem_of_mem_filter hk

theorem pubOwn_taken {s : State} {k : Nat} (cmd : Nat) (hen : enabled s .phx = true) (hup : isUp s .phasor = true)
    (hvalid : pubEntry s k 0 0 1 = 1) (htakes : pubEntry s k 0 1 1 = 1) : pubOwn s k cmd = pubCommand s k cmd := by
  unfold pubOwn
  exact if_neg (by simp [hen, isDown_of_up hup, hvalid, htakes])

theorem pubOwn_absent {s : State} {k : Nat} (cmd : Nat) (h : pubEntry s k 0 0 1 = 0) : pubOwn s k cmd = s := by
  unfold pubOwn
  exact if_pos (by simp [h])

theorem pmuCommandFrame_other {s : State} {p : Nat} {f : Frame}
    (h : enabled s .phx = false ∨ isUp s .phasor = false ∨ classified s p f 0 = false) : pmuCommandFrame s p f = s := by
  unfold pmuCommandFrame
  exact if_pos (by rcases h with h | h | h <;> simp [h, isDown_of_not_up])

theorem pmuCommandFrame_taken {s : State} {p : Nat} {f : Frame} {u : UdpPdu} (hen : enabled s .phx = true)
    (hup : isUp s .phasor = true) (hc : classified s p f 0 = true) (hu : f.pdu = .udp u) :
    pmuCommandFrame s p f =
      let cmd := ofBe (slice u.payload 14 2)
      match (List.range 64).filter (pubSocket s u) with
      | [] => s
      | st :: rest => match (st :: rest).find? (pubAccepts s u.payload) with
        | some x => if cmd = 1 ∨ cmd = 2 ∨ cmd = 4 ∨ cmd = 5 then pubCommand s x cmd else cntB s .phx 0x210 x
        | none => cntB s .phx 0x210 st := by
  unfold pmuCommandFrame
  rw [if_neg (by simp [hen, isDown_of_up hup, hc]), hu]
  simp only [Bool.or_eq_true, beq_iff_eq, or_assoc] <;> rfl

/-- Settles O44, each event by its own equation. -/
theorem phasorEvents : Obligations.PhasorEvents := by
  intro s
  refine ⟨fun hen hup h0 a ha => ?_, fun h0 => ?_, fun e => ⟨fun w hup hw => ⟨?_, ?_, ?_⟩, fun hw => ?_⟩, fun hup hr => ?_,
    fun h => ?_, fun st => ⟨fun hup hs0 hs3 hp => ?_, fun h => ?_, fun hen hup hv ht => ⟨?_, ?_, fun u => pubSnap_parts u _, ?_, ?_⟩,
      fun h => ⟨?_, ?_, ?_, ?_⟩⟩,
    fun p f u hu => ⟨fun h => ?_, fun hen hup hc => ?_⟩⟩
  · refine row_after (f := fun s => phasorNext s) rfl ?_
    unfold phasorNext
    rw [if_neg (by simp [hen, isDown_of_up hup, h0]), ha]
  · refine row_after (f := fun s => phasorNext s) rfl ?_
    unfold phasorNext
    exact if_pos (by simp [h0])
  · exact row_alone (f := fun s => if isDown s .phasor || (findK s.phx.hdone e.val).isNone then s
      else qualBasic (harmonicWindow s e.val) e.val) rfl (if_neg (by simp [isDown_of_up hup, hw]))
  · obtain ⟨r, hd, -, -⟩ := harmonicWindow_phx hw
    rw [hd, findK_delK_same]
  · obtain ⟨r, -, hr, hf, hl⟩ := harmonicWindow_phx hw
    rw [hr, findK_putK_same, Option.map_some, hf, hl]
  · exact row_alone (f := fun s => if isDown s .phasor || (findK s.phx.hdone e.val).isNone then s
      else qualBasic (harmonicWindow s e.val) e.val) rfl (if_pos (by simp [hw]))
  · refine row_alone (f := fun s => if isDown s .phasor then s else coefRegenerate s) rfl ?_
    unfold coefRegenerate
    rw [if_neg (by simp [isDown_of_up hup]), if_neg (by simp [hr])]
    dsimp only
    rw [ite_not]
  · refine row_alone (f := fun s => if isDown s .phasor then s else coefRegenerate s) rfl ?_
    unfold coefRegenerate
    rcases h with h | h
    · exact if_pos (isDown_of_not_up h)
    · simp only [h, Bool.not_false, if_true, ite_self]
  · exact row_alone (f := fun s => cfg2Periodic s st.val) rfl (if_neg (by simp [isDown_of_up hup, hs0, hs3, hp]))
  · exact row_alone (f := fun s => cfg2Periodic s st.val) rfl
      (if_pos (by rcases h with h | h | h | h <;> simp [h, isDown_of_not_up]))
  · exact row_alone (f := fun s => pubOwn s st.val 1) rfl (pubOwn_taken 1 hen hup hv ht)
  · exact row_alone (f := fun s => pubOwn s st.val 2) rfl (pubOwn_taken 2 hen hup hv ht)
  · refine row_alone (f := fun s => pubOwn s st.val 4) rfl ((pubOwn_taken 4 hen hup hv ht).trans ?_)
    exact if_congr (by simp) rfl rfl
  · refine row_alone (f := fun s => pubOwn s st.val 5) rfl ((pubOwn_taken 5 hen hup hv ht).trans ?_)
    exact if_congr (by simp) rfl rfl
  · exact row_alone (f := fun s => pubOwn s st.val 1) rfl (pubOwn_absent 1 h)
  · exact row_alone (f := fun s => pubOwn s st.val 2) rfl (pubOwn_absent 2 h)
  · exact row_alone (f := fun s => pubOwn s st.val 4) rfl (pubOwn_absent 4 h)
  · exact row_alone (f := fun s => pubOwn s st.val 5) rfl (pubOwn_absent 5 h)
  · exact row_alone (f := fun s => pmuCommandFrame s p.val f) rfl (pmuCommandFrame_other h)
  · exact row_alone (f := fun s => pmuCommandFrame s p.val f) rfl (pmuCommandFrame_taken hen hup hc hu)

end Sys2Proof.Machine

/-!
The rows of the acquisition channels and of the skew calibration (R141, R143, R152, R153, R155, R161). The obligation O43.
-/

namespace Sys2Proof.Machine

/-! ### Bits and modulator faults -/

theorem localSample_eq (s : State) (k : Nat) (l : List Bool) :
    localSample s k l =
      if acOn s k = false ∨ isUp s .acq = false ∨ flag s .acq 0x40 (k / 4) = false then s
      else
        let t := l.foldl (fun s v => capture s k v) s
        if (acOf t k).cfgFault = true then t else deliverDue (l.length / 2000 + 2) t k :=
  if_congr (by simp [isUp, or_assoc]) rfl rfl

theorem acOf_congr {s t : State} (h : t.acq = s.acq) (c : Nat) : acOf t c = acOf s c := by
  simp only [acOf, h]

/-- A change of settling moves two flags of its own channel. -/
theorem settleNow_eq (s : State) (c : Nat) (sub : Bool) :
    ∃ a n, settleNow s c sub = setAc s c { acOf s c with settling := a, settleLeft := n } := by
  unfold settleNow
  dsimp only
  split
  · exact ⟨_, _, rfl⟩
  · exact ⟨_, _, rfl⟩

theorem stuckCheck_cleared {s : State} {k : Nat} (hm : (acOf s k).mdFault = true) (hg : 2000 ≤ (acOf s k).good) :
    stuckCheck s k = channelChange (setAc s k { acOf s k with mdFault := false }) k ∧
      (acOf (stuckCheck s k) k).mdFault = false ∧ (acOf (stuckCheck s k) k).change = some (acOf s k).nextEdge := by
  have he : stuckCheck s k = channelChange (setAc s k { acOf s k with mdFault := false }) k := by
    unfold stuckCheck
    dsimp only
    rw [if_pos hm, if_neg (by omega)]
  rw [he]
  unfold channelChange
  obtain ⟨a, n, h⟩ := settleNow_eq (setAc (setAc s k { acOf s k with mdFault := false }) k
    { acOf (setAc s k { acOf s k with mdFault := false }) k with
      change := some (acOf (setAc s k { acOf s k with mdFault := false }) k).nextEdge, fade := none }) k false
  dsimp only
  rw [h]
  simp only [acOf_setAc, true_and]

/-! ### Range switching -/

theorem rangeSwitch_none {s : State} {c : Nat} (h : (acOf s c).pendRange = none) : rangeSwitch s c = s := by
  unfold rangeSwitch
  dsimp only
  rw [h]

/-- A switch that is due: the channel's record, and the other channels, the sets and the phasors as they were. -/
theorem rangeSwitch_due {s : State} {k : Nat} {lvl : Bool} {e : Nat} (h : (acOf s k).pendRange = some (lvl, e)) :
    let t := rangeSwitch s k
    let x := acOf s k
    (acOf t k).range16 = lvl ∧ (acOf t k).pendRange = none ∧ (acOf t k).swEdge = max e x.nextEdge ∧
      (acOf t k).bits = x.bits ∧ (acOf t k).nextEdge = x.nextEdge ∧
      (acOf t k).sws.head? = some (max e x.nextEdge, max e x.nextEdge + acF s k 0x10 16 12) ∧
      (∀ j, j ≠ k → acOf t j = acOf s j) ∧ t.svs = s.svs ∧ t.phx = s.phx := by
  intro t x
  let e' := max e x.nextEdge
  let x' := { x with
    range16 := lvl, pendRange := none, swEdge := e',
    sws := (e', e' + acF s k 0x10 16 12) :: x.sws.filter fun w => decide (e' < max w.1 w.2 + keepBits),
    oneSince := e', recSec := some (nowSec s) }
  let w := irq (cnt (setAc s k x') .acq 0 (acO k 0x38)) .acq 1
  have hw : w.acq = (setAc s k x').acq ∧ w.svs = s.svs ∧ w.phx = s.phx := by simp [w]
  have ht : t.acq = (settleNow w k false).acq ∧ t.svs = (settleNow w k false).svs ∧ t.phx = (settleNow w k false).phx := by
    unfold t rangeSwitch
    dsimp only
    rw [h]
    dsimp only
    split
    · exact ⟨rfl, rfl, rfl⟩
    · exact ⟨evt_acq .., evt_svs .., evt_phx ..⟩
  obtain ⟨a, n, hs⟩ := settleNow_eq w k false
  rw [hs] at ht
  obtain ⟨hacq, hsvs, hphx⟩ := ht
  obtain ⟨wacq, wsvs, wphx⟩ := hw
  have hown : acOf t k = { x' with settling := a, settleLeft := n } := by
    rw [acOf_congr hacq, acOf_setAc, acOf_congr wacq, acOf_setAc]
  have hother (j : Nat) (hj : j ≠ k) : acOf t j = acOf s j := by
    rw [acOf_congr hacq, acOf_setAc_ne _ _ _ hj, acOf_congr wacq, acOf_setAc_ne _ _ _ hj]
  rw [hown]
  exact ⟨rfl, rfl, rfl, rfl, rfl, rfl, hother, hsvs.trans wsvs, hphx.trans wphx⟩

/-! ### Calibration -/

theorem calTake_step (s : State) (k : Cal) : (calTake s k).step = k.step := by
  unfold calTake
  split <;> rfl

theorem calTake_mask (s : State) (k : Cal) : (calTake s k).mask = k.mask := by
  unfold calTake
  split <;> rfl

theorem calToggle_more {s : State} {k : Cal} (h : s.acq.cal = some k) (hk : k.step < calReps s) :
    calToggle s =
      { s with acq := { s.acq with calOut := !s.acq.calOut, cal := some { calTake s k with step := k.step + 1 } } } := by
  unfold calToggle
  rw [h]
  dsimp only
  rw [if_neg (Nat.not_le.mpr hk), calTake_step]

theorem calToggle_over {s : State} {k : Cal} (h : s.acq.cal = some k) (hk : calReps s ≤ k.step) : calToggle s = s := by
  unfold calToggle
  rw [h]
  exact if_pos hk

theorem calDone_early {s : State} {k : Cal} (h : s.acq.cal = some k) (hk : k.step < calReps s) : calDone s = s := by
  unfold calDone
  rw [h]
  exact if_pos hk

theorem calDone_over {s : State} {k : Cal} (h : s.acq.cal = some k) (hk : calReps s ≤ k.step) :
    calDone s =
      let res := (bitsOf k.mask 24).foldl (fun m c =>
        putK m c (calLag s c ((findK (calTake s k).edges c).getD []))) s.acq.calResult
      forEach (List.range 24) (irq { s with acq := { s.acq with cal := none, calOut := false, calResult := res } } .acq 5)
        fun s c => if acOn s c then channelChange s c else s := by
  unfold calDone
  rw [h]
  dsimp only
  rw [if_neg (Nat.not_lt.mpr hk), calTake_mask]

/-- Settles O43, row by row. -/
theorem acqEvents : Obligations.AcqEvents := by
  intro s
  refine ⟨fun c bits level => ⟨?_, ?_, ?_, fun hm hr => ?_, fun hm hr => ?_, stuckCheck_cleared, fun h => ?_, fun lvl e hup h => ?_⟩,
    fun h => ⟨?_, ?_⟩, fun k h => ⟨fun hk => ⟨?_, ?_⟩, fun hk => ⟨?_, ?_⟩⟩⟩
  · exact row_alone (f := fun s => localSample s c.val bits) rfl (localSample_eq ..)
  · exact row_alone (f := fun s => mdStuck s c.val level) rfl (localSample_eq ..)
  · refine row_alone (f := fun s => if (acOf s c.val).mdFault then localSample s c.val bits else s) rfl ?_
    rw [localSample_eq]
  · unfold stuckCheck
    dsimp only
    rw [if_neg (by simp [hm]), if_pos hr]
  · unfold stuckCheck
    dsimp only
    rw [if_neg (by simp [hm]), if_neg (Nat.not_lt.mpr hr)]
  · refine row_alone (f := fun s => if isDown s .acq then s else rangeSwitch s c.val) rfl ?_
    rcases h with h | h
    · rw [rangeSwitch_none h, ite_self]
    · exact if_pos (isDown_of_not_up h)
  · exact ⟨rangeSwitch s c.val, row_alone (f := fun s => if isDown s .acq then s else rangeSwitch s c.val) rfl
      (if_neg (by simp [isDown_of_up hup])), rangeSwitch_due h⟩
  · refine row_alone (f := fun s => calToggle s) rfl ?_
    unfold calToggle
    rw [h]
  · refine row_alone (f := fun s => calDone s) rfl ?_
    unfold calDone
    rw [h]
  · exact row_alone (f := fun s => calToggle s) rfl (calToggle_more h hk)
  · exact row_alone (f := fun s => calDone s) rfl (calDone_early h hk)
  · exact row_alone (f := fun s => calToggle s) rfl (calToggle_over h hk)
  · exact row_alone (f := fun s => calDone s) rfl (calDone_over h hk)

end Sys2Proof.Machine

/-!
What time brings to subscriptions and sets (R125, R128, R130, R131, R137). The obligation O42.
-/

namespace Sys2Proof.Machine

theorem sliceOnly.svs {s t : State} (h : sliceOnly s t) : t.svs = s.svs := by
  obtain ⟨_, _, _, _, _, _, rfl⟩ := h
  rfl

/-- What the delivery of a released set leaves as it was: the sets that are open, the last one released, and the phasors. -/
def released (s : State) : List OpenSet × Option Label × Phx := (s.svs.opened, s.svs.lastRel, s.phx)

theorem released_of_sliceOnly {s t : State} (h : sliceOnly s t) : released t = released s := by
  simp only [released, h.svs, h.phx]

theorem released_setToSlice (s : State) (i : Nat) (a : ASet) (ns : Nat) (w : Bool) : released (setToSlice s i a ns w) = released s := by
  have written (base log2n stride rep tail : Nat) (r : Ring) (en : Nat → List Byte) :=
    released_of_sliceOnly (sliceOnly_ringWrite s .svs i base log2n stride rep tail r en)
  fun_cases setToSlice s i a ns w
  case case1 => rfl
  case case2 => rfl
  case case3 t r' e u hr =>
    rw [released_of_sliceOnly (sliceOnly_ringFault ..)]
    refine Eq.trans (b := released t) rfl ?_
    rw [eq_fst e]
    exact written ..
  case case4 t r' e u hr =>
    refine Eq.trans (b := released t) rfl ?_
    rw [eq_fst e]
    exact written ..

/-- The release of the oldest set: out of the open ones, the last one released, and waiting at the phasor engine when that is up. -/
theorem releaseSet_parts {s : State} (o : OpenSet) {l : List OpenSet} (h : s.svs.opened = o :: l) :
    (releaseSet s o true).svs.opened = l ∧ (releaseSet s o true).svs.lastRel = some o.label ∧
      (isUp s .phasor = true → (releaseSet s o true).phx.todo = s.phx.todo + 1 ∧
        ((releaseSet s o true).phx.hist.head?.map fun a => (a.label, a.window)) = some (o.label, true)) ∧
      (isUp s .phasor = false → (releaseSet s o true).phx = s.phx) := by
  have hr : ∃ a : ASet, a.label = o.label ∧ a.window = true ∧ released (releaseSet s o true) =
      (l, some o.label, if isUp s .phasor = true then { s.phx with hist := (a :: s.phx.hist).take histMax, todo := s.phx.todo + 1 }
        else s.phx) := by
    unfold releaseSet
    extract_lets nets got a ns src s1 src1 s2 s3 s4
    refine ⟨a, rfl, rfl, (forEach_keeps released _ _ fun t i => released_setToSlice t i a ns true).trans ?_⟩
    have h4 : released s4 = released s2 := by
      unfold s4 s3
      simp only [if_true, released, irq_svs, irq_phx, cnt_svs, cnt_phx]
    have htail : s.svs.opened.tail = l := by rw [h]; rfl
    have hdown : isDown s1 .phasor = isDown s .phasor := rfl
    rw [h4, ← htail]
    by_cases hd : isDown s .phasor = true
    · have h2 : s2 = crossDrop s1 .svs 0 := if_pos (hdown.trans hd)
      rw [h2, if_neg (by simp [isUp, hd])]
      rfl
    · have h2 : s2 = { s1 with phx := { s1.phx with hist := (a :: s1.phx.hist).take histMax, todo := s1.phx.todo + 1 } } :=
        if_neg (by rwa [hdown])
      rw [h2, if_pos (by simpa [isUp] using hd)]
      rfl
  obtain ⟨a, hl, hw, hrel⟩ := hr
  simp only [released, Prod.mk.injEq] at hrel
  obtain ⟨ho, hlast, hphx⟩ := hrel
  refine ⟨ho, hlast, fun hup => ?_, fun hup => ?_⟩
  · rw [hphx, if_pos hup]
    refine ⟨rfl, ?_⟩
    rw [← hl, ← hw]
    rfl
  · rw [hphx, if_neg (by simp [hup])]

theorem subLost_running {s : State} {i : Nat} (h : (svOf s i).state = .running) :
    subLost s i = tryRelease (evt (irq (setSv s i { svOf s i with state := .lost, est := none, minE := none, cntE := 0, hist := [] })
      .svs 2) 0x0711 1 i 0 0) := by
  unfold subLost
  dsimp only
  rw [if_neg (by simp [h])]

theorem gooseStale_other {s : State} {g : Nat} (h : (gOf s g).state ≠ .live) : gooseStale s g = s := by
  unfold gooseStale
  dsimp only
  rw [if_pos h]

theorem gooseStale_live {s : State} {g : Nat} (h : (gOf s g).state = .live) :
    gooseStale s g =
      let x := gOf s g
      let t := irq (subCnt (setG s g { x with state := .stale }) 0xE0 (512 + g) 1) .svs 3
      let u := evt t 0x0714 1 g 0 x.stNum
      gooseRecord u g ((findK u.svs.tab (512 + g)).getD []) 1 (nowStamp u) x.stNum x.sqNum [] [] := by
  unfold gooseStale
  dsimp only
  rw [if_neg (by simp [h])]

/-- Settles O42, row by row. -/
theorem streamTimeouts : Obligations.StreamTimeouts := by
  intro s
  refine ⟨fun i => ⟨fun h => ?_, fun h => ?_, fun h => ?_, fun w m hw he hn hm => ?_⟩, fun h => ?_,
    fun o l h => ⟨?_, releaseSet_parts o h⟩, fun g => ⟨fun h => ?_, fun h => ?_⟩⟩
  · exact row_alone (f := fun s => subLost s i.val) rfl (if_pos h)
  · refine row_alone (f := fun s => subLost s i.val) rfl ?_
    exact subLost_running h
  · refine row_alone (f := fun s => replaceEst s i.val) rfl ?_
    unfold replaceEst
    dsimp only
    rcases h with h | h
    · rw [h]
    · rw [h]
      split
      next hx => cases hx
      next => rfl
  · refine row_alone (f := fun s => replaceEst s i.val) rfl ?_
    obtain ⟨e, he⟩ := Option.isSome_iff_exists.mp he
    unfold replaceEst
    dsimp only
    rw [hw, he]
    dsimp only
    rw [if_neg (Nat.not_le.mpr hn), hm]
  · refine row_alone (f := fun s => windowExpiry s) rfl ?_
    unfold windowExpiry
    rw [h]
  · refine row_alone (f := fun s => windowExpiry s) rfl ?_
    unfold windowExpiry
    rw [h]
  · refine row_alone (f := fun s =>
      let live := (gOf s g.val).state == .live
      let s := gooseStale s g.val
      if live && (gOf s g.val).state == .stale then stationDropout s g.val else s) rfl ?_
    dsimp only
    rw [gooseStale_other h]
    exact if_neg (by simp [h])
  · refine row_alone (f := fun s =>
      let live := (gOf s g.val).state == .live
      let s := gooseStale s g.val
      if live && (gOf s g.val).state == .stale then stationDropout s g.val else s) rfl ?_
    dsimp only
    rw [gooseStale_live h]
    exact if_congr (by simp [h]) rfl rfl

end Sys2Proof.Machine

/-!
Frames at the subscriber, their verification, and GOOSE messages (R118, R121, R123, R124, R136 to R138). The obligation O41.
-/

namespace Sys2Proof.Machine

/-! ### The FIFO -/

theorem subscribe_taken {s : State} {p : Nat} {f : Frame} (dt : Nat) (hen : enabled s .svs = true) (hup : isUp s .stream = true)
    (hc : classified s p f 0 = true) :
    subscribe s p f dt =
      match preMatch s f (vidOf s p f).1 with
      | none => cnt s .svs 0 0x300
      | some (i, w) =>
        if frameSim f = true ∧ simAccept s = false then subCnt s 0xC4 i (asduCount f)
        else if 64 ≤ s.svs.fifo.length then irq (subCnt (cnt s .svs 0 0x308) 0xE4 i (asduCount f)) .svs 6
        else { s with svs := { s.svs with
                 fifo := s.svs.fifo ++ [{ frame := f, entry := i, words := w, stamp := rxStamp s p dt }] } } := by
  unfold subscribe
  rw [if_neg (by simp [hen, isDown_of_up hup, hc])]
  simp only [Bool.and_eq_true, Bool.not_eq_true', ge_iff_le] <;> rfl

/-- A property of an `if` holds of the branch taken. -/
theorem ite_ends {α : Type} {ends : α → Prop} {c d B : Prop} [Decidable c] [Decidable d] {a b : α} (h : d ↔ c)
    (he : ends (if c then a else b)) (hb : ends b → B) : if d then ends a else B := by
  by_cases hc : c
  · rw [if_pos (h.mpr hc)]
    rwa [if_pos hc] at he
  · rw [if_neg (h.not.mpr hc)]
    exact hb (by rwa [if_neg hc] at he)

/-- The oldest waiting frame: refused, of the wrong form, of another identity, or taken. -/
theorem authVerify_first {s : State} {v : VFrame} {rest : List VFrame} (h : s.svs.fifo = v :: rest) (ends : State → Prop)
    (he : ends (authVerify s)) :
    let r := verify { s with svs := { s.svs with fifo := rest } } v
    let t := r.1
    let i := v.entry
    let n := asduCount v.frame
    match r.2, v.frame.pdu with
    | some why, _ => ends (authRefused t v why)
    | none, .sv p =>
      if svFormat p = false ∨ 512 ≤ i then ends (subCnt t 0xCC i n)
      else if idOk v.words p.svId = false then ends (subCnt (cnt t .svs 0 0x304) 0xE4 i n)
      else ends (forEach p.asdus t fun u a => takeAsdu u i v p.sim a)
    | none, .goose p =>
      if gooseFormat p = false ∨ i < 512 then ends (subCnt t 0xCC i 1)
      else if idOk v.words p.gocbRef = false then ends (subCnt (cnt t .svs 0 0x304) 0xE4 i 1)
      else ends (takeGoose t i v p)
    | none, _ => ends (subCnt t 0xCC i 1) := by
  intro r t i n
  have hr : verify { s with svs := { s.svs with fifo := rest } } v = (r.1, r.2) := rfl
  unfold authVerify at he
  rw [h] at he
  dsimp only at he
  rw [hr] at he
  cases hw : r.2 with
  | some why =>
    rw [hw] at he
    exact he
  | none =>
    rw [hw] at he
    cases hp : v.frame.pdu with
    | sv p =>
      rw [hp] at he
      exact ite_ends (by simp [i]) he fun he => ite_ends (by simp) he id
    | goose p =>
      rw [hp] at he
      exact ite_ends (by simp [i]) he fun he => ite_ends (by simp) he id
    | _ =>
      rw [hp] at he
      exact he

/-! ### GOOSE messages -/

theorem newer32_self (a : Nat) : newer32 a a = false := by
  have h : (a + 2 ^ 32 - a % 2 ^ 32) % 2 ^ 32 = 0 := by omega
  simp only [newer32, h]
  decide

theorem takeGoose_otherConf {s : State} {i k : Nat} {v : VFrame} {p : GoosePdu} (hk : (gOf s (i - 512)).confRev = some k)
    (h : p.ndsCom = true ∨ p.confRev ≠ k) : takeGoose s i v p = subCnt s 0xDC i 1 := by
  unfold takeGoose
  dsimp only
  rw [hk, Option.getD_some]
  exact if_pos (by simpa using h)

/-- What a delivery of a GOOSE state to the slices leaves as it was. -/
def gooseKept (s : State) : List (Nat × GSub) × Spn × Aon := (s.svs.goose, s.spn, s.aon)

theorem gooseKept_of_sliceOnly {s t : State} (h : sliceOnly s t) : gooseKept t = gooseKept s := by
  obtain ⟨_, _, _, _, _, _, rfl⟩ := h
  rfl

theorem gooseKept_gooseRecord (s : State) (g : Nat) (w : List Word) (fl : Nat) (t : Stamp) (st sq : Nat) (tf all : List Byte) :
    gooseKept (gooseRecord s g w fl t st sq tf all) = gooseKept s := by
  unfold gooseRecord
  refine forEach_keeps gooseKept _ _ fun u i => ?_
  have written (base log2n stride rep tail : Nat) (r : Ring) (en : Nat → List Byte) :=
    gooseKept_of_sliceOnly (sliceOnly_ringWrite u .svs i base log2n stride rep tail r en)
  extract_lets cfg r base
  split
  · rfl
  split
  · rfl
  · specialize written base (getBits cfg 1 4) 1152 1088 60 r fun q =>
      le 4 q ++ le 2 g ++ le 2 fl ++ t.bytes ++ le 4 st ++ le 4 sq ++ padTo 8 tf ++ le 2 all.length ++
        List.replicate 22 0 ++ padTo 1024 all
    generalize ringWrite u .svs i base _ _ _ _ r _ = q at written ⊢
    obtain ⟨x, r'⟩ := q
    dsimp only at written ⊢
    split
    · exact (gooseKept_of_sliceOnly (sliceOnly_ringFault ..)).trans written
    · exact written

theorem takeGoose_newer {s : State} {i k : Nat} {v : VFrame} {p : GoosePdu} (hk : (gOf s (i - 512)).confRev = some k)
    (hn : p.ndsCom = false) (hc : p.confRev = k) (hnew : newer32 p.stNum (gOf s (i - 512)).stNum = true) :
    takeGoose s i v p =
      let g := i - 512
      let u := setG (subCnt s 0xC0 i 1) g { gOf s g with
        state := .live, stNum := p.stNum, sqNum := p.sqNum, confRev := some k, discards := 0, deadline := gooseDeadline s v p.tal }
      let fl := ofBit (p.test || p.sim) 1 + ofBit (frameExt v.frame).isSome 2 + ofBit false 3
      toSpindle (gooseRecord u g v.words fl (if v.frame.stampLost then nowStamp u else v.stamp) p.stNum p.sqNum p.t p.allData)
        g p.allData := by
  unfold takeGoose
  dsimp only
  rw [hk, Option.getD_some, if_neg (by simp [hn, hc]), hnew]
  simp only [Bool.or_true, Bool.not_true, Bool.false_and, Bool.true_or, if_true, Bool.false_eq_true, if_false]

/-- A message of a newer state: the subscription's new state, and the state on its way to Spindle. -/
theorem takeGoose_newState {s : State} {i k : Nat} {v : VFrame} {p : GoosePdu} (hk : (gOf s (i - 512)).confRev = some k)
    (hn : p.ndsCom = false) (hc : p.confRev = k) (hnew : newer32 p.stNum (gOf s (i - 512)).stNum = true) :
    let g := i - 512
    let t := takeGoose s i v p
    (gOf t g).state = .live ∧ (gOf t g).stNum = p.stNum ∧ (gOf t g).sqNum = p.sqNum ∧ (gOf t g).discards = 0 ∧
      (gOf t g).deadline = gooseDeadline s v p.tal ∧ (isUp s .rt = true → t.spn.inbox = s.spn.inbox ++ [(g, p.allData)]) := by
  intro g t
  let x' : GSub := { gOf s g with
    state := .live, stNum := p.stNum, sqNum := p.sqNum, confRev := some k, discards := 0, deadline := gooseDeadline s v p.tal }
  let u := setG (subCnt s 0xC0 i 1) g x'
  obtain ⟨r, hr, ht⟩ : ∃ r, gooseKept r = gooseKept u ∧ t = toSpindle r g p.allData :=
    ⟨_, gooseKept_gooseRecord .., takeGoose_newer hk hn hc hnew⟩
  simp only [gooseKept, Prod.mk.injEq] at hr
  obtain ⟨hgoose, hspn, haon⟩ := hr
  have hown : gOf t g = x' := by
    have htg : t.svs.goose = u.svs.goose := by
      rw [ht, ← hgoose]
      unfold toSpindle
      split <;> rfl
    have hu : gOf u g = x' := gOf_setG ..
    rw [← hu]
    simp only [gOf, htg]
  rw [hown]
  refine ⟨rfl, rfl, rfl, rfl, rfl, fun hup => ?_⟩
  have hdown : isDown r .rt = false := by
    have hs : isDown s .rt = false := isDown_of_up hup
    have ha : r.aon = s.aon := haon
    simpa [isDown, held, ha] using hs
  rw [ht, toSpindle, if_neg (by simp [hdown])]
  exact congrArg (fun q : Spn => q.inbox ++ [(g, p.allData)]) hspn

theorem takeGoose_repeated {s : State} {i k : Nat} {v : VFrame} {p : GoosePdu} (hk : (gOf s (i - 512)).confRev = some k)
    (hn : p.ndsCom = false) (hc : p.confRev = k) (hi : (gOf s (i - 512)).state ≠ .idle) (hst : p.stNum = (gOf s (i - 512)).stNum)
    (hsq : newer32 p.sqNum (gOf s (i - 512)).sqNum = true) :
    takeGoose s i v p = setG (subCnt s 0xC0 i 1) (i - 512)
      { gOf s (i - 512) with
        state := .live, sqNum := p.sqNum, confRev := some k, discards := 0, deadline := gooseDeadline s v p.tal } := by
  have hself := newer32_self (gOf s (i - 512)).stNum
  unfold takeGoose
  dsimp only
  rw [hk, Option.getD_some, if_neg (by simp [hn, hc]), if_neg (by simp [hi, hst, hself, hsq]), if_pos (by simp [hst, hsq])]

theorem takeGoose_discarded {s : State} {i k : Nat} {v : VFrame} {p : GoosePdu} (hk : (gOf s (i - 512)).confRev = some k)
    (hn : p.ndsCom = false) (hc : p.confRev = k) (hi : (gOf s (i - 512)).state ≠ .idle)
    (hold : newer32 p.stNum (gOf s (i - 512)).stNum = false)
    (hsq : p.stNum = (gOf s (i - 512)).stNum → newer32 p.sqNum (gOf s (i - 512)).sqNum = false)
    (hd : (gOf s (i - 512)).discards < 16) :
    takeGoose s i v p = setG (subCnt s 0xD0 i 1) (i - 512)
      { gOf s (i - 512) with discards := (gOf s (i - 512)).discards + 1 } := by
  have hrep : (p.stNum == (gOf s (i - 512)).stNum && newer32 p.sqNum (gOf s (i - 512)).sqNum) = false := by
    simpa using hsq
  unfold takeGoose
  dsimp only
  rw [hk, Option.getD_some, if_neg (by simp [hn, hc]), hrep, if_neg (by simp [hi, hold, hd]), if_neg (by decide)]

/-- Settles O41: the FIFO by its two ends, then the GOOSE messages by what they say. -/
theorem subscriberRows : Obligations.SubscriberRows := by
  refine ⟨fun s => ⟨fun p f dt => ⟨fun h => ?_, fun hen hup hc => ?_⟩, fun h => ?_, fun v rest h => ?_⟩, fun s i v p k => ?_⟩
  · refine row_alone (f := fun s => subscribe s p.val f dt) rfl ?_
    unfold subscribe
    exact if_pos (by rcases h with h | h | h <;> simp [h, isDown_of_not_up])
  · exact row_alone (f := fun s => subscribe s p.val f dt) rfl (subscribe_taken dt hen hup hc)
  · refine row_alone (f := fun s => authVerify s) rfl ?_
    unfold authVerify
    rw [h]
  · exact authVerify_first h (fun u => exec .authVerify s = .next (stepEnd s u)) (row_alone (f := fun s => authVerify s) rfl rfl)
  · intro g x t hk
    exact ⟨takeGoose_otherConf hk, fun hn hc hi => ⟨takeGoose_newState hk hn hc, takeGoose_repeated hk hn hc hi,
      takeGoose_discarded hk hn hc hi⟩⟩

end Sys2Proof.Machine

/-!
Supervision frames, duplicate discard and the ager of the forwarding table (R85, R87, R90, R101, R114, R115). The obligation O40.
-/

namespace Sys2Proof.Machine

theorem supervise_enabled {s : State} {n : Nat} (hp : pairEn (pairWord s n) = true) (hen : enabled s .swc = true)
    (hup : isUp s .switch = true) :
    supervise s n =
      let w := pairWord s n
      let vid := fldI s .prt (pairA w) 0x48 0 12
      let pcp := fldI s .prt (pairA w) 0x48 12 3
      let ds : List Dest := (([pairA w, pairB w] : List Nat).filter fun p => portUp s p).map fun p => { port := p, pair := some n }
      if ds = [] then s
      else takeIn s (fromInside 66 (supervisionFrame s n ((findK s.swc.pairSeq n).getD 0)) none vid pcp
        (fldI s .prt (pairA w) 0x4C (3 * pcp) 3)) 1 [mono s] true ds := by
  unfold supervise
  exact if_neg (by simp [hp, hen, isDown_of_up hup])

theorem takeIn_nowhere (s : State) (fr : SFrame) (n : Nat) (ready : List Nat) (good : Bool) :
    takeIn s fr n ready good [] = cnt s .swc 0 0x308 := by
  unfold takeIn
  exact if_pos rfl

theorem takeIn_full {s : State} {n : Nat} {ds : List Dest} (fr : SFrame) (ready : List Nat) (good : Bool) (hd : ds ≠ [])
    (hn : freeBillets s < n) : takeIn s fr n ready good ds = cnt s .swc 0 0x300 := by
  have hfree : 131072 - (usedPtrs s).length < n := hn
  unfold takeIn
  dsimp only
  rw [if_neg hd, if_pos (by simp [hfree])]

/-- The ageing of an entry of duplicate discard, as its row does it. -/
def ddAged (s : State) (n : Nat) (src : Mac) (seq : BitVec 16) : State :=
  let same (e : Dd) : Bool := e.pair == n && e.src == src && e.seq == seq
  match s.swc.dd.find? same with
  | none => s
  | some e =>
    let gone : State := { s with swc := { s.swc with dd := s.swc.dd.filter fun x => !same x } }
    if e.seenA && e.seenB then gone else cnt gone .swc 0 0x9050

theorem exec_ddAgeExpiry (s : State) (n : Fin 16) (src : Mac) (seq : BitVec 16) :
    exec (.ddAgeExpiry n src seq) s = .next (stepEnd s (ddAged s n.val src seq)) :=
  row_alone (f := fun s => ddAged s n.val src seq) rfl rfl

/-- Settles O40, event by event. -/
theorem switchEvents : Obligations.SwitchEvents := by
  intro s
  refine ⟨fun n hp hen hup => ?_, fun n hp => ?_, fun fr n ready good ds => ⟨fun h => ?_, takeIn_full fr ready good⟩,
    fun n src seq => ⟨fun e h => ?_, fun h => ?_⟩, ⟨fdbAge s, row_alone (f := fun s => fdbAge s) rfl rfl, rfl, rfl, rfl⟩,
    row_alone (f := fun s => fdbDone s) rfl rfl⟩
  · exact row_alone (f := fun s => supervise s n.val) rfl (supervise_enabled hp hen hup)
  · refine row_alone (f := fun s => supervise s n.val) rfl ?_
    unfold supervise
    exact if_pos (by simp [hp])
  · rw [h, takeIn_nowhere]
  · rw [exec_ddAgeExpiry, ddAged]
    dsimp only
    rw [h]
  · rw [exec_ddAgeExpiry, ddAged]
    dsimp only
    rw [h]

end Sys2Proof.Machine

/-!
The stages of the receive path at a port without a pair and without cut-through (R73, R76, R78, R95). The obligation O38.
-/

namespace Sys2Proof.Machine

theorem rxCt_of_map {s : State} {p : Nat} (f : Frame) (h : inMap64 s 0x78 p = false) : rxCt s p f = false := by
  unfold rxCt
  rw [h, Bool.false_and, Bool.false_and]

/-- The stages after the length of a frame at a port without a pair: what counts it, or its queue. -/
theorem headStages_unpaired {s : State} {p : Nat} (f : Frame) (h : pairOf s p = none) :
    headStages s p f =
      if f.etype = 0x8808 then (cnt s .prt p 0x120, none)
      else if vlanAccept s p f = false then (cnt s .prt p 0x118, none)
      else match steer s p f with
        | none => (cnt s .prt p 0x11C, none)
        | some q => if f.etype = 0x88F7 ∧ isPtpPort s p = false then (cnt s .tim 0 0xB0, none) else (s, some (q, none)) := by
  have hred : redStage s p f = (s, true, none) := by
    unfold redStage
    rw [h]
  unfold headStages
  rw [hred]
  simp only [Bool.not_true, Bool.false_eq_true, if_false, Bool.not_eq_true', Bool.and_eq_true, decide_eq_true_eq] <;> rfl

/-- A frame that is whole, at a port without cut-through: what the stages after the length say of it. -/
theorem rxStages_whole {s : State} {p : Nat} {f : Frame} (stamp : Option Stamp) (pcs : Nat) (hct : rxCt s p f = false) :
    rxStages s p f stamp pcs none =
      if f.symErr = true then rxErr s p 0x138 1
      else if f.fecUncorr ≠ 0 then rxErr s p 0x140 f.fecUncorr
      else if f.len - redBytes s p f < 64 then rxErr s p 0x110 1
      else if fldI s .prt p 0x40 16 14 < f.len - redBytes s p f then rxErr s p 0x114 1
      else if f.fcsOk = false then rxErr s p 0x10C 1
      else match headStages s p f with
        | (t, none) => t
        | (t, some (q, ring)) =>
          if isDown s .switch = true then crossDrop t .prt p
          else
            let u := bytesUp (cnt t .prt p 0x100) p 0x104 f.len
            handOver (if f.etype = 0x88FB then cnt u .prt p 0x134 else u) p f stamp pcs q .good ring := by
  unfold rxStages checkedLen
  simp only [hct, Bool.false_and, Bool.false_eq_true, if_false, gt_iff_lt, decide_eq_true_eq]
  by_cases hsym : f.symErr = true
  · simp only [if_pos hsym]
  by_cases hfec : f.fecUncorr ≠ 0
  · simp only [if_neg hsym, if_pos hfec]
  by_cases hshort : f.len - redBytes s p f < 64
  · simp only [if_neg hsym, if_neg hfec, if_pos hshort]
  by_cases hlong : fldI s .prt p 0x40 16 14 < f.len - redBytes s p f
  · simp only [if_neg hsym, if_neg hfec, if_neg hshort, if_pos hlong]
  simp only [if_neg hsym, if_neg hfec, if_neg hshort, if_neg hlong]
  cases hfcs : f.fcsOk
  · simp only [Bool.not_false, Bool.and_self, if_true]
  · simp only [Bool.not_true, Bool.false_and, Bool.false_eq_true, Bool.true_eq_false, if_false] <;> rfl

/-- Settles O38: the checks in the order of the stages. -/
theorem frameStages : Obligations.FrameStages := by
  intro s p f dt k ends
  have row : ends (receiveFrame s k f dt) := row_alone (f := fun s => receiveFrame s p.val f dt) rfl rfl
  refine ⟨fun h => ?_, fun hup hpair hmap hq hfec => ?_⟩
  · have he : receiveFrame s k f dt = s := if_pos (by simp [h])
    rwa [he] at row
  · intro long
    have he : receiveFrame s k f dt = rxStages s k f (some (rxStamp s k dt)) (mono s - dt * cycleU s) none := by
      unfold receiveFrame takeStamp
      rw [if_neg (by simp [hup]), if_neg (Nat.not_le.mpr hq), hfec]
      rfl
    rw [he, rxStages_whole _ _ (rxCt_of_map f hmap), headStages_unpaired f hpair] at row
    refine ite_ends Iff.rfl row fun row => ite_ends Iff.rfl row fun row => ite_ends Iff.rfl row fun row =>
      ite_ends (by simp [long]) row fun row => ite_ends Iff.rfl row fun row => ?_
    by_cases hpause : f.etype = 0x8808
    · rw [if_pos hpause] at row ⊢
      exact row
    rw [if_neg hpause] at row ⊢
    by_cases hvlan : vlanAccept s k f = false
    · rw [if_pos hvlan] at row ⊢
      exact row
    rw [if_neg hvlan] at row ⊢
    cases hs : steer s k f with
    | none =>
      rw [hs] at row
      exact row
    | some q =>
      rw [hs] at row
      dsimp only at row ⊢
      by_cases hptp : f.etype = 0x88F7 ∧ isPtpPort s k = false
      · rw [if_pos hptp] at row ⊢
        exact row
      rw [if_neg hptp] at row ⊢
      exact ite_ends Iff.rfl row id

end Sys2Proof.Machine

/-!
Transmission, internal ports, links that rise and fall, and flushing (R15, R79, R82, R83, R99, R103, R106, R109). The obligation O39.
-/

namespace Sys2Proof.Machine

/-! ### The bit of a port -/

theorem getLsbD_portMask {j : Nat} (k : Nat) (hj : j < 64) : (BitVec.ofNat 64 (2 ^ k)).getLsbD j = decide (k = j) := by
  rw [BitVec.getLsbD_ofNat, Nat.testBit_two_pow, decide_eq_true hj, Bool.true_and]

theorem testBit_setPort (v : BitVec 64) {j : Nat} (k : Nat) (hj : j < 64) :
    (v ||| BitVec.ofNat 64 (2 ^ k)).toNat.testBit j = (v.toNat.testBit j || decide (k = j)) := by
  rw [BitVec.testBit_toNat, BitVec.getLsbD_or, getLsbD_portMask k hj, BitVec.testBit_toNat]

theorem testBit_clearPort (v : BitVec 64) {j : Nat} (k : Nat) (hj : j < 64) :
    (v &&& ~~~(BitVec.ofNat 64 (2 ^ k))).toNat.testBit j = (v.toNat.testBit j && !decide (k = j)) := by
  rw [BitVec.testBit_toNat, BitVec.getLsbD_and, BitVec.getLsbD_not, getLsbD_portMask k hj, BitVec.testBit_toNat,
    decide_eq_true hj, Bool.true_and]

/-! ### Internal ports -/

theorem sendVia_crossing {s : State} (ip : Nat) (f : Frame) (vid pcp q : Nat) (h : isUp s .switch = false) :
    sendVia s ip f vid pcp q = crossDrop s (ipBlk ip) 0 := by
  unfold sendVia enterFabric
  exact if_pos (isDown_of_not_up h)

theorem sendVia_gated {s : State} (ip : Nat) (f : Frame) (vid pcp q : Nat) (hup : isUp s .switch = true)
    (h : ipUp s ip = false ∨ blank s = true) : sendVia s ip f vid pcp q = s := by
  unfold sendVia enterFabric
  rw [if_neg (by simp [isDown_of_up hup]), if_pos (by simpa using h)]

/-! ### Transmission -/

theorem startTx_idle {s : State} {p : Nat}
    (h : anyUp s p = false ∨ (∃ c ∈ s.ports.tx, c.port = p) ∨ nextCopy s p = none) : startTx s p = s := by
  unfold startTx
  by_cases hb : (!anyUp s p || s.ports.tx.any (fun c => c.port == p)) = true
  · exact if_pos hb
  · rw [if_neg hb]
    have hn : nextCopy s p = none := by
      simp only [Bool.or_eq_true, Bool.not_eq_true', List.any_eq_true, beq_iff_eq, not_or] at hb
      rcases h with h | h | h
      · exact absurd h hb.1
      · exact absurd h hb.2
      · exact h
    rw [hn]

theorem frameLeaves_plain {s : State} {fr : SFrame} {c : Copy} (p : Nat) (t : Int)
    (h : ∀ m, (egressFrame s fr c).pdu ≠ .ptp m) : frameLeaves s p fr c t = (s, some (egressFrame s fr c)) := by
  unfold frameLeaves
  dsimp only
  split
  next m hm => exact absurd hm (h m)
  next => rfl

/-- The copy that a free port starts, of a frame that is no PTP message. -/
theorem startTx_plain {s : State} {p : Nat} {c : Copy} {fr : SFrame} (hup : anyUp s p = true)
    (hfree : ∀ x ∈ s.ports.tx, x.port ≠ p) (hc : nextCopy s p = some c) (hf : frameOf s c.frame = some fr)
    (hplain : ∀ m, (egressFrame s fr c).pdu ≠ .ptp m) :
    startTx s p =
      let ct := c.ct && !tileCt s p
      let now := mono s - 8 * byteU s p
      let c' : Copy := { c with sent := some (egressFrame s fr c), ct := ct, start := if ct = true then max c.start now else now }
      let two := (fr.ptrs.take 2).filter fun x => !(bufOf s p).contains x
      let t : State := { s with
        swc := { s.swc with copies := s.swc.copies.filter fun x => x != c,
                            buf := if p < 64 then putK s.swc.buf p (bufOf s p ++ two) else s.swc.buf },
        ports := { s.ports with tx := s.ports.tx ++ [c'] } }
      if ct = true then cnt t .swc 0 0x314 else t := by
  have hbusy : (!anyUp s p || s.ports.tx.any (fun c => c.port == p)) = false := by
    simpa [hup] using hfree
  unfold startTx
  rw [hbusy, if_neg (by decide), hc]
  dsimp only
  rw [hf]
  dsimp only
  rw [frameLeaves_plain (s := { s with swc := { s.swc with copies := s.swc.copies.filter fun x => x != c } }) p _ hplain]
  dsimp only
  by_cases hp : p < 64
  · rw [if_pos hp, if_pos hp]
    rfl
  · rw [if_neg hp, if_neg hp]
    rfl

theorem endTx_none {s : State} {p : Nat} (h : ∀ x ∈ s.ports.tx, x.port ≠ p) : endTx s p = s := by
  have hf : (s.ports.tx.find? fun c => c.port == p) = none := by
    simpa using h
  unfold endTx
  rw [hf]

theorem endTx_sent {s : State} {p : Nat} {c : Copy} {f : Frame} (h : s.ports.tx.find? (fun x => x.port == p) = some c)
    (hs : c.sent = some f) :
    endTx s p =
      let r := dropCopies s fun x => x == c
      let t : State := { r with tim := { r.tim with tsq := r.tim.tsq.filter fun e => e.1 != p } }
      if p < 64 then emit (bytesUp (cnt t .prt p 0x150) p 0x154 f.len) (.frame p f)
      else emit (cnt t .swc 0 (0x400 + (p - 64) * 0x20 + 8)) (.toInternal (p - 64) f) := by
  unfold endTx
  rw [h]
  dsimp only
  rw [hs]

/-! ### Links -/

theorem portUpNow_rises {s : State} {k : Nat} (hk : k < 64) (hdown : portUp s k = false) (hen : bit (reg s .prt k 8) 0 = true)
    (hclk : s.clk.serdes.failed = false) (hup : isUp s (portIsland k) = true) (hp : portPresent s k = true) :
    portUp (portUpNow s k) k = true ∧ (∀ j, j < 64 → j ≠ k → portUp (portUpNow s k) j = portUp s j) ∧
      (portUpNow s k).swc = s.swc ∧ (portUpNow s k).tim = s.tim := by
  unfold portUpNow
  rw [if_neg (by simp [hdown, hen, hclk, isDown_of_up hup, hp])]
  dsimp only
  simp only [portUp, evt_ports, evt_swc, evt_tim, irqI_ports, irqI_swc, irqI_tim]
  refine ⟨?_, fun j hj hne => ?_, trivial, trivial⟩
  · rw [testBit_setPort _ _ hk]
    simp
  · rw [testBit_setPort _ _ hj]
    simp [Ne.symm hne]

theorem portDown_falls {s : State} {k : Nat} (hk : k < 64) (h : portUp s k = true) :
    let t := portDown s k
    portUp t k = false ∧ t.ports.flushing.toNat.testBit k = true ∧ (∀ c ∈ t.swc.copies ++ t.ports.tx, c.port ≠ k) ∧
      (∀ e ∈ t.swc.fdb, e.static = false → e.dtype = 0 → e.dest ≠ k) ∧ ∀ j, j < 64 → j ≠ k → portUp t j = portUp s j := by
  intro t
  have hcnt (n : Nat) : flushCnt s k n = cntBy s .prt k 0x160 n := if_pos hk
  have hports : t.ports.link = s.ports.link &&& ~~~(BitVec.ofNat 64 (2 ^ k)) ∧
      t.ports.flushing = s.ports.flushing ||| BitVec.ofNat 64 (2 ^ k) ∧
      t.ports.tx = s.ports.tx.filter fun c => !(c.port == k) := by
    unfold t portDown
    rw [if_neg (by simp [h])]
    dsimp only
    rw [evt_ports, irqI_ports, hcnt]
    exact ⟨rfl, rfl, rfl⟩
  have hswc : t.swc.copies = s.swc.copies.filter (fun c => !(c.port == k)) ∧
      ∃ more : Fdb → Bool, t.swc.fdb = s.swc.fdb.filter fun e => !(!e.static && ((e.dtype == 0 && e.dest == k) || more e)) := by
    unfold t portDown
    rw [if_neg (by simp [h])]
    dsimp only
    rw [evt_swc, irqI_swc, hcnt]
    exact ⟨rfl, _, rfl⟩
  obtain ⟨hlink, hflush, htx⟩ := hports
  obtain ⟨hcopies, more, hfdb⟩ := hswc
  refine ⟨?_, ?_, fun c hc => ?_, fun e he hs hd => ?_, fun j hj hne => ?_⟩
  · rw [portUp, hlink, testBit_clearPort _ _ hk]
    simp
  · rw [hflush, testBit_setPort _ _ hk]
    simp
  · rw [hcopies, htx, ← List.filter_append] at hc
    simpa using (List.mem_filter.mp hc).2
  · rw [hfdb] at he
    have := (List.mem_filter.mp he).2
    intro hdest
    simp [hs, hd, hdest] at this
  · rw [portUp, hlink, testBit_clearPort _ _ hj, portUp]
    simp [Ne.symm hne]

theorem flushEnd_ports {s : State} {k : Nat} (hk : k < 64) :
    (flushEnd s k).ports.flushing.toNat.testBit k = false ∧ (flushEnd s k).ports.softRst.toNat.testBit k = false ∧
      (flushEnd s k).ports.link = s.ports.link ∧ (flushEnd s k).swc = s.swc := by
  have hports : (flushEnd s k).ports = { s.ports with
      flushing := s.ports.flushing &&& ~~~(BitVec.ofNat 64 (2 ^ k)), softRst := s.ports.softRst &&& ~~~(BitVec.ofNat 64 (2 ^ k)) } := by
    unfold flushEnd
    dsimp only
    split
    · exact irqI_ports ..
    · exact irqI_ports ..
  have hswc : (flushEnd s k).swc = s.swc := by
    unfold flushEnd
    dsimp only
    split
    · exact irqI_swc ..
    · exact irqI_swc ..
  rw [hports]
  refine ⟨?_, ?_, rfl, hswc⟩
  · rw [testBit_clearPort _ _ hk]
    simp
  · rw [testBit_clearPort _ _ hk]
    simp

/-- Settles O39, event by event. -/
theorem portEvents : Obligations.PortEvents := by
  intro s
  refine ⟨fun ip f q => ⟨?_, fun hup h => ?_, fun h => ?_⟩, fun p => ⟨fun h => ?_, fun c fr hup hfree hc hf hpl => ?_, fun c f h hs => ?_,
    fun h => ?_⟩, fun p => ⟨fun hd hen hclk hup hp => ?_, fun h => ?_, fun h => ⟨?_, fun f n => ?_⟩, fun h c => ?_, fun h => ?_,
    fun h => ?_⟩⟩
  · exact row_alone (f := fun s => sendOwn s (64 + ip.val) f q.val) rfl rfl
  · exact row_alone (f := fun s => sendOwn s (64 + ip.val) f q.val) rfl (sendVia_gated _ _ _ _ _ hup h)
  · exact row_alone (f := fun s => sendOwn s (64 + ip.val) f q.val) rfl (sendVia_crossing _ _ _ _ _ h)
  · exact row_alone (f := fun s => startTx s p.val) rfl (startTx_idle h)
  · exact row_alone (f := fun s => startTx s p.val) rfl (startTx_plain hup hfree hc hf hpl)
  · exact row_alone (f := fun s => endTx s p.val) rfl (endTx_sent h hs)
  · exact row_alone (f := fun s => endTx s p.val) rfl (endTx_none h)
  · exact ⟨_, row_alone (f := fun s => portUpNow s p.val) rfl rfl, portUpNow_rises p.isLt hd hen hclk hup hp⟩
  · refine row_alone (f := fun s => portUpNow s p.val) rfl (if_pos ?_)
    rcases h with h | h <;> simp [h]
  · exact ⟨_, row_alone (f := fun s => linkLost s p.val none) rfl (if_neg (by simp [h])), portDown_falls p.isLt h⟩
  · exact row_alone (f := fun s => linkLost s p.val (some (f, n))) rfl (if_neg (by simp [h]))
  · exact row_alone (f := fun s => linkLost s p.val c) rfl (if_pos (by simp [h]))
  · exact ⟨_, row_alone (f := fun s => if s.ports.flushing.toNat.testBit p.val then flushEnd s p.val else s) rfl (if_pos h),
      flushEnd_ports p.isLt⟩
  · exact row_alone (f := fun s => if s.ports.flushing.toNat.testBit p.val then flushEnd s p.val else s) rfl (if_neg (by simp [h]))

end Sys2Proof.Machine

/-!
PTP frames, Announce, its time-out, Pdelay_Req and Sync (R52, R55 to R59). The obligation O37.
-/

namespace Sys2Proof.Machine

/-! ### Frames -/

theorem ptpReceive_other {s : State} {p : Nat} (f : Frame) (dt : Nat) (hup : isUp s .time = true) (hp : isPtpPort s p = false) :
    ptpReceive s p f dt = cnt s .tim 0 0xB0 := by
  unfold ptpReceive
  rw [if_neg (by simp [isDown_of_up hup]), if_pos (by simp [hp])]

theorem announceReceive_other {s : State} {p : Nat} (f : Frame) (hup : isUp s .time = true) (hp : isPtpPort s p = false) :
    announceReceive s p f = cnt s .tim 0 0xB0 := by
  unfold announceReceive
  rw [if_neg (by simp [isDown_of_up hup]), if_pos (by simp [hp])]

theorem ptpReceive_message {s : State} {p : Nat} {f : Frame} {m : PtpMsg} (dt : Nat) (hup : isUp s .time = true)
    (hp : isPtpPort s p = true) (hm : f.pdu = .ptp m) :
    ptpReceive s p f dt =
      let stamp := if f.stampLost = true then none else some (rxStamp s p dt)
      ptpStack (ptpRelay s p f stamp) p m stamp := by
  unfold ptpReceive
  rw [if_neg (by simp [isDown_of_up hup]), if_neg (by simp [hp])]
  dsimp only
  rw [hm]

/-- A stamp is missing where it was lost, so the stack may ask for either. -/
theorem ptpStack_eq (s : State) (p : Nat) (m : PtpMsg) (lost : Bool) (st : Stamp) :
    let stamp := if lost = true then none else some st
    ptpStack s p m stamp = match m.type with
      | .sync => stackSync s p m stamp
      | .followUp => stackFollowUp s p m lost
      | .pdelayReq => pdelayAnswer s p m stamp
      | .pdelayResp => pdelayResp s p m stamp
      | .pdelayRespFollowUp => if lost = true then pdelayDrop s p else pdelayFollowUp s p m
      | .management | .announce | .other => s := by
  unfold ptpStack
  cases lost <;> cases m.type <;> rfl

theorem announceReceive_announce {s : State} {p : Nat} {f : Frame} {a : Announce} (hup : isUp s .time = true)
    (hp : isPtpPort s p = true) (ha : f.pdu = .ann a) :
    announceReceive s p f =
      let r := ptpRelay s p f (if f.stampLost = true then none else some (rxStamp s p 0))
      let e := announce r p a
      if annAccepted r p a = false then r
      else if fld e .tim 0x40 2 2 = 0 ∧ a.utcValid = true then
        (busWrite e { cls := .internal, index := 3 } .tim 0 0x54 0x3FFFF
          (min a.utcOffset 0xFFFF + ofBit a.leap61 16 + ofBit a.leap59 17)).st
      else e := by
  unfold announceReceive
  rw [if_neg (by simp [isDown_of_up hup]), if_neg (by simp [hp])]
  dsimp only
  rw [ha]
  exact if_congr (by simp) rfl rfl

/-! ### What leaves the module -/

theorem pdelayReq_sent {s : State} {p : Nat} (hk : p < 64) (hup : isUp s .time = true) (hp : isPtpPort s p = true) :
    ∃ m : PtpMsg, m.type = .pdelayReq ∧ m.clockId = ownClock s ∧ m.seqId = s.tim.seqPd ∧ m.portNum.toNat = p + 1 ∧
      pdelayReq s p =
        ptpSend { s with tim := { s.tim with seqPd := s.tim.seqPd + 1,
                                             pdelay := s.tim.pdelay.filter (fun y => y.port != p) ++
                                               [{ port := p, seqId := s.tim.seqPd, t1 := none, t2 := none, t4 := none, corr := 0,
                                                  epoch := s.tim.epoch }] } }
          p true 54 (.ptp m) none := by
  unfold pdelayReq
  rw [if_neg (by simp [isDown_of_up hup, hp])]
  refine ⟨_, rfl, rfl, rfl, ?_, rfl⟩
  simp only [BitVec.toNat_ofNat]
  omega

theorem ownClass_lt (s : State) : ownClass s < 256 := by
  unfold ownClass
  split
  · decide
  · split <;> decide

theorem syncTransmit_sent {s : State} {p : Nat} (hup : isUp s .time = true) (hp : isPtpPort s p = true)
    (hm : s.tim.masters.toNat.testBit p = true) :
    ∃ (m : PtpMsg) (a : Announce), m.type = .sync ∧ m.clockId = ownClock s ∧ m.seqId = s.tim.seqSync ∧
      a.clockId = ownClock s ∧ a.gmId = ownClock s ∧ a.seqId = s.tim.seqAnn ∧ a.gmClass.toNat = ownClass s ∧
      syncTransmit s p =
        ptpSend (ptpSend
          { s with tim := { s.tim with seqSync := s.tim.seqSync + 1, seqAnn := s.tim.seqAnn + 1 } }
          p false 44 (.ptp m) none) p false 64 (.ann a) none := by
  unfold syncTransmit
  rw [if_neg (by simp [isDown_of_up hup, hp, hm])]
  refine ⟨_, _, rfl, rfl, rfl, rfl, rfl, rfl, ?_, rfl⟩
  exact Nat.mod_eq_of_lt (ownClass_lt s)

/-- Settles O37, row by row. -/
theorem ptpEvents : Obligations.PtpEvents := by
  intro s p hup
  have gatedRow {i : Instr} {g : State → State} {t : State} (hi : exec i s = runOn (fun s => gated (fun s => g s) s) s)
      (hg : g s = t) : exec i s = .next (afterPair s t) := by rw [hi, runOn_gated, hg]
  refine ⟨fun f => ⟨fun hp => ⟨fun dt => ?_, ?_⟩, fun hp => ⟨fun m dt hm => ?_, fun a ha => ?_⟩⟩, fun hp => ?_,
    fun hp => ⟨?_, ?_, fun hm => ?_⟩, fun hm => ?_⟩
  · exact gatedRow (g := fun s => ptpReceive s p.val f dt) rfl (ptpReceive_other f dt hup hp)
  · exact row_after (f := fun s => announceReceive s p.val f) rfl (announceReceive_other f hup hp)
  · exact gatedRow (g := fun s => ptpReceive s p.val f dt) rfl
      ((ptpReceive_message dt hup hp hm).trans (ptpStack_eq _ _ _ _ _))
  · exact row_after (f := fun s => announceReceive s p.val f) rfl (announceReceive_announce hup hp ha)
  · exact gatedRow (g := fun s => announceTimeout s p.val) rfl (if_pos (by simp [hp]))
  · exact gatedRow (g := fun s => announceTimeout s p.val) rfl (if_neg (by simp [isDown_of_up hup, hp]))
  · obtain ⟨m, ht, hc, hs, hn, he⟩ := pdelayReq_sent p.isLt hup hp
    exact ⟨m, ht, hc, hs, hn, row_alone (f := fun s => pdelayReq s p.val) rfl he⟩
  · obtain ⟨m, a, ht, hc, hs, hac, hag, has, hcl, he⟩ := syncTransmit_sent hup hp hm
    exact ⟨m, a, ht, hc, hs, hac, hag, has, hcl, row_alone (f := fun s => syncTransmit s p.val) rfl he⟩
  · exact row_alone (f := fun s => syncTransmit s p.val) rfl (if_pos (by simp [hm]))

end Sys2Proof.Machine
